-- ==== Sys2Proof/Word.lean ====
section
/-! DEFINITION. The word types of the Hexain Z96 and their plainest arithmetic (R9, R10, R30): everything here is a
name for a width or a reading of bits; what a test could show wrong stands in the Machine files. -/

namespace Sys2Proof

/-- A byte of memory. -/
abbrev Byte := BitVec 8

/-- A 64-bit register value: s-registers, address registers, result-queue entries, system registers (R95, R196). -/
abbrev Word := BitVec 64

/-- A 32-bit instruction word (R71). -/
abbrev IWord := BitVec 32

/-- A 6-bit operand code (R72) or destination code (R73). -/
abbrev OpCode := BitVec 6

/-- A context tag (R268). -/
abbrev Tag := BitVec 16

/-- The bits `hi` to `lo` of a natural number, read unsigned: the `x[h:l]` of R30. -/
def bitsOf (x hi lo : Nat) : Nat := (x >>> lo) % 2 ^ (hi + 1 - lo)

/-- One bit of a natural number. -/
def bitOf (x i : Nat) : Bool := x.testBit i

/-- A natural number read as a two's-complement number of `n` bits. -/
def signedOf (n x : Nat) : Int :=
  if (x % 2 ^ n) < 2 ^ (n - 1) then ((x % 2 ^ n : Nat) : Int) else ((x % 2 ^ n : Nat) : Int) - (2 ^ n : Nat)

/-- An integer taken modulo `2^n`. -/
def wrapNat (n : Nat) (x : Int) : Nat := (x % (2 ^ n : Nat)).toNat

/-- A 64-bit word from an integer, modulo 2^64. -/
def wordOfInt (x : Int) : Word := BitVec.ofInt 64 x

/-- 1 for a condition that holds, else 0 (the comparison results of R96 and R102). -/
def wordOfBool (b : Bool) : Word := if b then 1 else 0

/-- A natural number from a truth value. -/
def natOfBool (b : Bool) : Nat := if b then 1 else 0

end Sys2Proof
end

