-- ==== Sys2Proof/Syntax.lean ====
section
/-! DEFINITION. The instructions and steps of the Hexain Z96: one constructor for each row of the opcode table. The
first rows are the 32-bit words of R75 and R76 with the fields of R71; then the wide operations of R84, which stand
in records and not in words; then the events, each a step of a unit of the device (file 95 of the spec). -/

namespace Sys2Proof

/-- A wide operation as the CQ holds it (R78, R81, R85): its 256-bit record, the `tx` word that issued it with the
token bits that fall on this repetition (R79), and the scalar operands captured at routing (R74). -/
structure WideOp where
  record : BitVec 256
  word : IWord
  wp : Bool
  wn : Bool
  sp : Bool
  sn : Bool
  capA : Word
  capB : Word
  capC : Word
  deriving DecidableEq, Repr

/-- A 64-byte command of a Sluice queue (R41), as its 512 bits. -/
abbrev Command := BitVec 512

/-- A translation fault on its way to the unit that serves it (R286, R355): whose access it is, the address space, the
address, the tag and whether the access writes; for a request about an empty pool also the site of that pool. -/
structure FaultReq where
  source : Nat
  root : Nat
  va : Word
  tag : Tag
  write : Bool
  site : Nat
  deriving DecidableEq, Repr

/-- What the host does with memory (R280, R313): besides reads and writes the atomic operations of its link (PRESUMED, log entry 55). The bytes
that come with the access are the value written, the operand, or for `cas` the value compared and then the value swapped in. -/
inductive AgentOp where
  | read | write | fetchAdd | swap | cas
  deriving DecidableEq, Repr

/-- Where a protected word that holds an error lies (R367). -/
inductive ErrorPlace where
  | cistern | l2 | dram
  deriving DecidableEq, Repr

/-- The consumer of an uncorrectable error (the table of R371, step 1). -/
inductive Consumer where
  /-- an access of an instruction, a copy or a row command of the core, under the tag it was issued with -/
  | item (core : Fin 96) (ctx : Tag)
  | loader (core : Fin 96)
  | walkerRead (root : Nat)
  | command (q : Fin 16)
  | collective (coll : BitVec 16)
  | host
  | tableWalk
  deriving DecidableEq, Repr

/-- A consumed uncorrectable error (R371): the copy that was read, its line, and the consumer. -/
structure ErrorReq where
  place : ErrorPlace
  line : Nat
  consumer : Consumer
  injected : Bool
  deriving DecidableEq, Repr

/-- A DRAM row of a site (R292, R295). -/
structure RowId where
  pseudoChannel : Nat
  bank : Nat
  row : Nat
  deriving DecidableEq, Repr

/-- A run of a collective as its receiver gets it (R338): step, sender rank, transfer index, destination element
offset, and the payload in the wire format of the step. -/
structure RunMsg where
  step : Nat
  rank : Nat
  index : Nat
  offset : Int
  bytes : List Byte
  deriving DecidableEq, Repr

/-- What wakes an idle device (R399). -/
inductive WakeCause where
  | doorbell | hostAccess | flit | tolWrite
  deriving DecidableEq, Repr

/-- A requester that replay holds (R388). -/
inductive HeldChoice where
  | atomic (core : Fin 96)
  | firing (entry : BitVec 6)
  | run (coll : BitVec 16) (msg : RunMsg)
  deriving DecidableEq, Repr

/-- The steps of the Hexain Z96. Fields carry the names of R71; `wp`, `wn`, `sp`, `sn` are the token bits of R19. The
constructors without a field act for the unit the state's focus names (a core, a queue, a site, a port, a channel, a Weir
entry or a collective). -/
inductive Instr where
  /-- ADD (R96). -/
  | add (d a b : OpCode)
  /-- SUB (R96). -/
  | sub (d a b : OpCode)
  /-- MUL (R96). -/
  | mul (d a b : OpCode)
  /-- MULH (R96). -/
  | mulh (d a b : OpCode)
  /-- MULHU (R96). -/
  | mulhu (d a b : OpCode)
  /-- DIV (R97). -/
  | div (d a b : OpCode)
  /-- DIVU (R97). -/
  | divu (d a b : OpCode)
  /-- REM (R97). -/
  | rem (d a b : OpCode)
  /-- REMU (R97). -/
  | remu (d a b : OpCode)
  /-- AND (R96). -/
  | and_ (d a b : OpCode)
  /-- OR (R96). -/
  | or_ (d a b : OpCode)
  /-- XOR (R96). -/
  | xor_ (d a b : OpCode)
  /-- ANDN (R96). -/
  | andn (d a b : OpCode)
  /-- SHL (R96). -/
  | shl (d a b : OpCode)
  /-- SHR (R96). -/
  | shr (d a b : OpCode)
  /-- SAR (R96). -/
  | sar (d a b : OpCode)
  /-- MIN (R96). -/
  | min_ (d a b : OpCode)
  /-- MAX (R96). -/
  | max_ (d a b : OpCode)
  /-- MINU (R96). -/
  | minu (d a b : OpCode)
  /-- MAXU (R96). -/
  | maxu (d a b : OpCode)
  /-- SEQ (R96). -/
  | seq (d a b : OpCode)
  /-- SNE (R96). -/
  | sne (d a b : OpCode)
  /-- SLT (R96). -/
  | slt (d a b : OpCode)
  /-- SLE (R96). -/
  | sle (d a b : OpCode)
  /-- SLTU (R96). -/
  | sltu (d a b : OpCode)
  /-- SLEU (R96). -/
  | sleu (d a b : OpCode)
  /-- CLZ (R96). -/
  | clz (d a : OpCode)
  /-- POPC (R96). -/
  | popc (d a : OpCode)
  /-- MOV (R96). -/
  | mov (d a : OpCode)
  /-- BFX (R98). -/
  | bfx (d a b : OpCode)
  /-- ADDI (R99). -/
  | addi (d a : OpCode) (imm : BitVec 14)
  /-- ANDI (R99). -/
  | andi (d a : OpCode) (imm : BitVec 14)
  /-- ORI (R99). -/
  | ori (d a : OpCode) (imm : BitVec 14)
  /-- XORI (R99). -/
  | xori (d a : OpCode) (imm : BitVec 14)
  /-- SHLI (R99). -/
  | shli (d a : OpCode) (amount : BitVec 6)
  /-- SHRI (R99). -/
  | shri (d a : OpCode) (amount : BitVec 6)
  /-- SARI (R99). -/
  | sari (d a : OpCode) (amount : BitVec 6)
  /-- SLTI (R99). -/
  | slti (d a : OpCode) (imm : BitVec 14)
  /-- SLTIU (R99). -/
  | sltiu (d a : OpCode) (imm : BitVec 14)
  /-- LUI (R100). -/
  | lui (d : OpCode) (imm : BitVec 20)
  /-- FADD (R102). -/
  | fadd (d a b : OpCode)
  /-- FSUB (R102). -/
  | fsub (d a b : OpCode)
  /-- FMUL (R102). -/
  | fmul (d a b : OpCode)
  /-- FDIV (R102). -/
  | fdiv (d a b : OpCode)
  /-- FSQRT (R102). -/
  | fsqrt (d a : OpCode)
  /-- FMIN (R102). -/
  | fmin (d a b : OpCode)
  /-- FMAX (R102). -/
  | fmax (d a b : OpCode)
  /-- FABS (R102). -/
  | fabs (d a : OpCode)
  /-- FNEG (R102). -/
  | fneg (d a : OpCode)
  /-- FEQ (R102). -/
  | feq (d a b : OpCode)
  /-- FLT (R102). -/
  | flt (d a b : OpCode)
  /-- FLE (R102). -/
  | fle (d a b : OpCode)
  /-- FCVTFI (R102). -/
  | fcvtfi (d a : OpCode)
  /-- FCVTIF (R102). -/
  | fcvtif (d a : OpCode)
  /-- B (R103). -/
  | branch (disp : BitVec 16)
  /-- BC (R103). -/
  | branchCond (cond : BitVec 4) (a : OpCode) (disp : BitVec 16)
  /-- CALL (R104). -/
  | call (disp : BitVec 20)
  /-- JR (R104). -/
  | jr (a : OpCode)
  /-- LOOP (R105). -/
  | loop (level : BitVec 2) (count : OpCode) (body : BitVec 10)
  /-- LOOP_END (R105). -/
  | loopEnd (lastWord : Nat)
  /-- SRR (R108). -/
  | srr (d : OpCode) (reg : BitVec 14)
  /-- SRW (R108). -/
  | srw (a : OpCode) (reg : BitVec 14)
  /-- TRAP (R111). -/
  | trap (code : BitVec 14)
  /-- SAFEPT (R359). -/
  | safept (n : BitVec 6)
  /-- WAITSC (R115). -/
  | waitsc (a : OpCode) (k : BitVec 14)
  /-- BRK (R111). -/
  | brk (code : BitVec 14)
  /-- INJ (R116). -/
  | inj (a : OpCode) (kind : BitVec 2) (target : BitVec 4)
  /-- AMOV (R203). -/
  | amov (wn sn : Bool) (a : BitVec 4) (s : OpCode)
  /-- AADD (R203). -/
  | aadd (wn sn : Bool) (a : BitVec 4) (s : OpCode)
  /-- AADDI (R203). -/
  | aaddi (wn sn : Bool) (a : BitVec 4) (imm : BitVec 14)
  /-- AGET (R203). -/
  | aget (wn sn : Bool) (a : BitVec 4)
  /-- LD_B (R205). -/
  | ldB (wn sn : Bool) (a : BitVec 4) (s : OpCode) (imm : BitVec 8)
  /-- LD_BU (R205). -/
  | ldBu (wn sn : Bool) (a : BitVec 4) (s : OpCode) (imm : BitVec 8)
  /-- LD_H (R205). -/
  | ldH (wn sn : Bool) (a : BitVec 4) (s : OpCode) (imm : BitVec 8)
  /-- LD_HU (R205). -/
  | ldHu (wn sn : Bool) (a : BitVec 4) (s : OpCode) (imm : BitVec 8)
  /-- LD_W (R205). -/
  | ldW (wn sn : Bool) (a : BitVec 4) (s : OpCode) (imm : BitVec 8)
  /-- LD_WU (R205). -/
  | ldWu (wn sn : Bool) (a : BitVec 4) (s : OpCode) (imm : BitVec 8)
  /-- LD_D (R205). -/
  | ldD (wn sn : Bool) (a : BitVec 4) (s : OpCode) (imm : BitVec 8)
  /-- LDRO_W (R206). -/
  | ldroW (wn sn : Bool) (a : BitVec 4) (s : OpCode) (imm : BitVec 8)
  /-- LDRO_D (R206). -/
  | ldroD (wn sn : Bool) (a : BitVec 4) (s : OpCode) (imm : BitVec 8)
  /-- LDX_W (R266). -/
  | ldxW (wn sn : Bool) (a : BitVec 4) (s : OpCode) (imm : BitVec 8)
  /-- LDX_D (R266). -/
  | ldxD (wn sn : Bool) (a : BitVec 4) (s : OpCode) (imm : BitVec 8)
  /-- LV (R207). -/
  | lv (wn sn : Bool) (row col : BitVec 5) (h1 w1 : BitVec 3) (a : BitVec 4)
  /-- MLD (R165). -/
  | mld (wn sn : Bool) (feed : BitVec 2) (a : BitVec 4) (s : OpCode)
  /-- PSET (R214). -/
  | pset (wn sn : Bool) (a : BitVec 4) (port : BitVec 3) (imm : BitVec 8)
  /-- CBSET (R141). -/
  | cbset (wn sn : Bool) (a : BitVec 4) (buf : BitVec 4) (imm : BitVec 8)
  /-- TDEF (R215). -/
  | tdef (wn sn : Bool) (tmpl : BitVec 6) (count : BitVec 8)
  /-- BIND (R216). -/
  | bind (wn sn : Bool) (a : BitVec 4) (entry : BitVec 6) (imm : BitVec 8)
  /-- UNBIND (R217). -/
  | unbind (wn sn : Bool) (entry : BitVec 6)
  /-- FENCE (R219). -/
  | fence (wn sn : Bool) (inv : Bool) (scope : BitVec 2)
  /-- ROINV (R221). -/
  | roinv (wn sn : Bool)
  /-- ROINV_RANGE (R221). -/
  | roinvRange (wn sn : Bool) (a : BitVec 4) (s : OpCode)
  /-- ACQ (R220). -/
  | acq (wn sn : Bool) (a : BitVec 4) (s : OpCode) (scope : BitVec 2)
  /-- CLEAN (R222). -/
  | clean (wn sn : Bool) (a : BitVec 4) (s : OpCode) (scope : BitVec 2)
  /-- PF (R223). -/
  | pf (wn sn : Bool) (a : BitVec 4) (s : OpCode) (target : BitVec 2)
  /-- TBINIT (R249). -/
  | tbinit (wn sn : Bool) (a : BitVec 4) (s : OpCode) (imm : BitVec 8)
  /-- TBARR (R249). -/
  | tbarr (wn sn : Bool) (a : BitVec 4) (imm : BitVec 8)
  /-- TBEXP (R249). -/
  | tbexp (wn sn : Bool) (a : BitVec 4) (s : OpCode) (imm : BitVec 8)
  /-- TBARREXP (R249). -/
  | tbarrexp (wn sn : Bool) (a : BitVec 4) (s : OpCode) (imm : BitVec 8)
  /-- TBWAIT (R249). -/
  | tbwait (wn sn : Bool) (a : BitVec 4) (s : OpCode) (imm : BitVec 8)
  /-- TBTEST (R249). -/
  | tbtest (wn sn : Bool) (a : BitVec 4) (imm : BitVec 8)
  /-- AMO_ADD (R225). -/
  | amoAdd (wn sn : Bool) (a : BitVec 4) (s : OpCode) (size : Bool) (scope : BitVec 2) (acq rel ord : Bool)
  /-- AMO_AND (R225). -/
  | amoAnd (wn sn : Bool) (a : BitVec 4) (s : OpCode) (size : Bool) (scope : BitVec 2) (acq rel ord : Bool)
  /-- AMO_OR (R225). -/
  | amoOr (wn sn : Bool) (a : BitVec 4) (s : OpCode) (size : Bool) (scope : BitVec 2) (acq rel ord : Bool)
  /-- AMO_XOR (R225). -/
  | amoXor (wn sn : Bool) (a : BitVec 4) (s : OpCode) (size : Bool) (scope : BitVec 2) (acq rel ord : Bool)
  /-- AMO_MIN (R225). -/
  | amoMin (wn sn : Bool) (a : BitVec 4) (s : OpCode) (size : Bool) (scope : BitVec 2) (acq rel ord : Bool)
  /-- AMO_MAX (R225). -/
  | amoMax (wn sn : Bool) (a : BitVec 4) (s : OpCode) (size : Bool) (scope : BitVec 2) (acq rel ord : Bool)
  /-- AMO_MINU (R225). -/
  | amoMinu (wn sn : Bool) (a : BitVec 4) (s : OpCode) (size : Bool) (scope : BitVec 2) (acq rel ord : Bool)
  /-- AMO_MAXU (R225). -/
  | amoMaxu (wn sn : Bool) (a : BitVec 4) (s : OpCode) (size : Bool) (scope : BitVec 2) (acq rel ord : Bool)
  /-- AMO_SWAP (R225). -/
  | amoSwap (wn sn : Bool) (a : BitVec 4) (s : OpCode) (size : Bool) (scope : BitVec 2) (acq rel ord : Bool)
  /-- AMO_FADD (R225). -/
  | amoFadd (wn sn : Bool) (a : BitVec 4) (s : OpCode) (scope : BitVec 2) (acq rel ord : Bool)
  /-- AMO_FMIN (R225). -/
  | amoFmin (wn sn : Bool) (a : BitVec 4) (s : OpCode) (scope : BitVec 2) (acq rel ord : Bool)
  /-- AMO_FMAX (R225). -/
  | amoFmax (wn sn : Bool) (a : BitVec 4) (s : OpCode) (scope : BitVec 2) (acq rel ord : Bool)
  /-- CAS (R229). -/
  | cas (wn sn : Bool) (a : BitVec 4) (s new : OpCode) (size : Bool)
  /-- TAGNEW (R263). -/
  | tagnew (wn sn : Bool)
  /-- TAGNEW_NB (R263). -/
  | tagnewNb (wn sn : Bool)
  /-- TAGRET (R265). -/
  | tagret (wn sn : Bool) (s : OpCode) (wait : Bool)
  /-- CTXSET (R264). -/
  | ctxset (wn sn : Bool) (s : OpCode)
  /-- XTAGSET (R264). -/
  | xtagset (wn sn : Bool) (s : OpCode)
  /-- ST_B (R208). -/
  | stB (wp sp : Bool) (a : BitVec 4) (s : OpCode) (imm : BitVec 8)
  /-- ST_H (R208). -/
  | stH (wp sp : Bool) (a : BitVec 4) (s : OpCode) (imm : BitVec 8)
  /-- ST_W (R208). -/
  | stW (wp sp : Bool) (a : BitVec 4) (s : OpCode) (imm : BitVec 8)
  /-- ST_D (R208). -/
  | stD (wp sp : Bool) (a : BitVec 4) (s : OpCode) (imm : BitVec 8)
  /-- REL_D (R209). -/
  | relD (wp sp : Bool) (a : BitVec 4) (s : OpCode) (scope : BitVec 2)
  /-- SV (R210). -/
  | sv (wp sp : Bool) (row col : BitVec 5) (h1 w1 : BitVec 3) (a : BitVec 4)
  /-- STX_W (R266). -/
  | stxW (wp sp : Bool) (a : BitVec 4) (s : OpCode) (imm : BitVec 8)
  /-- STX_D (R266). -/
  | stxD (wp sp : Bool) (a : BitVec 4) (s : OpCode) (imm : BitVec 8)
  /-- ROWCOPY (R297). -/
  | rowcopy (wp sp : Bool) (a : BitVec 4) (imm : BitVec 8)
  /-- ROWFILL (R297). -/
  | rowfill (wp sp : Bool) (a : BitVec 4) (imm : BitVec 8)
  /-- ROWAND (R297). -/
  | rowand (wp sp : Bool) (a : BitVec 4) (imm : BitVec 8)
  /-- ROWOR (R297). -/
  | rowor (wp sp : Bool) (a : BitVec 4) (imm : BitVec 8)
  /-- ROWXOR (R297). -/
  | rowxor (wp sp : Bool) (a : BitVec 4) (imm : BitVec 8)
  /-- ROWNOT (R297). -/
  | rownot (wp sp : Bool) (a : BitVec 4) (imm : BitVec 8)
  /-- ROWMAJ (R297). -/
  | rowmaj (wp sp : Bool) (a : BitVec 4) (imm : BitVec 8)
  /-- PATCH (R86). -/
  | patch (tmpl : BitVec 6) (field : BitVec 4) (value : BitVec 16)
  /-- TX (R85). -/
  | tx (wp wn sp sn : Bool) (tmpl : BitVec 6) (rep1 : BitVec 8)
  /-- VADD (R149). -/
  | vadd (op : WideOp)
  /-- VSUB (R149). -/
  | vsub (op : WideOp)
  /-- VMUL (R149). -/
  | vmul (op : WideOp)
  /-- VFMA (R149). -/
  | vfma (op : WideOp)
  /-- VFMS (R149). -/
  | vfms (op : WideOp)
  /-- VMIN (R149). -/
  | vmin (op : WideOp)
  /-- VMAX (R149). -/
  | vmax (op : WideOp)
  /-- VABS (R149). -/
  | vabs (op : WideOp)
  /-- VNEG (R149). -/
  | vneg (op : WideOp)
  /-- VRCP (R149). -/
  | vrcp (op : WideOp)
  /-- VRSQRT (R149). -/
  | vrsqrt (op : WideOp)
  /-- VSQRT (R149). -/
  | vsqrt (op : WideOp)
  /-- VEXP2 (R149). -/
  | vexp2 (op : WideOp)
  /-- VLOG2 (R149). -/
  | vlog2 (op : WideOp)
  /-- VTANH (R149). -/
  | vtanh (op : WideOp)
  /-- VSCALE (R149). -/
  | vscale (op : WideOp)
  /-- VIADD (R152). -/
  | viadd (op : WideOp)
  /-- VISUB (R152). -/
  | visub (op : WideOp)
  /-- VIMUL (R152). -/
  | vimul (op : WideOp)
  /-- VAND (R152). -/
  | vand (op : WideOp)
  /-- VOR (R152). -/
  | vor (op : WideOp)
  /-- VXOR (R152). -/
  | vxor (op : WideOp)
  /-- VNOT (R152). -/
  | vnot (op : WideOp)
  /-- VSHL (R152). -/
  | vshl (op : WideOp)
  /-- VSHR (R152). -/
  | vshr (op : WideOp)
  /-- VSAR (R152). -/
  | vsar (op : WideOp)
  /-- VIMIN (R152). -/
  | vimin (op : WideOp)
  /-- VIMAX (R152). -/
  | vimax (op : WideOp)
  /-- VIMINU (R152). -/
  | viminu (op : WideOp)
  /-- VIMAXU (R152). -/
  | vimaxu (op : WideOp)
  /-- VCMP (R152). -/
  | vcmp (op : WideOp)
  /-- VSEL (R152). -/
  | vsel (op : WideOp)
  /-- VRSUM (R153). -/
  | vrsum (op : WideOp)
  /-- VRMAX (R153). -/
  | vrmax (op : WideOp)
  /-- VRMIN (R153). -/
  | vrmin (op : WideOp)
  /-- VCSUM (R154). -/
  | vcsum (op : WideOp)
  /-- VMOV (R155). -/
  | vmov (op : WideOp)
  /-- VBCAST (R155). -/
  | vbcast (op : WideOp)
  /-- VEXT (R155). -/
  | vext (op : WideOp)
  /-- VINS (R155). -/
  | vins (op : WideOp)
  /-- VIOTA (R155). -/
  | viota (op : WideOp)
  /-- VPERM (R155). -/
  | vperm (op : WideOp)
  /-- VCOMPACT (R156). -/
  | vcompact (op : WideOp)
  /-- VTRANS (R157). -/
  | vtrans (op : WideOp)
  /-- VCVT (R158). -/
  | vcvt (op : WideOp)
  /-- VQ4 (R159). -/
  | vq4 (op : WideOp)
  /-- VDQ4 (R160). -/
  | vdq4 (op : WideOp)
  /-- MZERO (R172). -/
  | mzero (op : WideOp)
  /-- MLOAD (R172). -/
  | mload (op : WideOp)
  /-- MMA (R173). -/
  | mma (op : WideOp)
  /-- MDRAIN (R174). -/
  | mdrain (op : WideOp)
  /-- MCHOL (R189). -/
  | mchol (op : WideOp)
  /-- MLU (R190). -/
  | mlu (op : WideOp)
  /-- MQR (R191). -/
  | mqr (op : WideOp)
  /-- MTRS (R192). -/
  | mtrs (op : WideOp)
  /-- MSHIFT (R194). -/
  | mshift (op : WideOp)
  /-- MPIV (R195). -/
  | mpiv (op : WideOp)
  /-- WIDE_OP_COMPLETION (R89). -/
  | wideOpCompletion (core : Fin 96) (serial : Nat)
  /-- TERMINATION (R381). -/
  | termination (core : Fin 96) (status detail : Byte)
  /-- INTERRUPT_REQUEST (R358). -/
  | interruptRequest (core : Fin 96) (value : Bool)
  /-- PREEMPTION_REQUEST (R358). -/
  | preemptionRequest (core : Fin 96) (value : Bool)
  /-- ACCESSED_FAULT (R286). -/
  | accessedFault (pte : Nat)
  /-- DIRTY_FAULT (R286). -/
  | dirtyFault (pte : Nat)
  /-- COMPRESSED_FAULT (R286). -/
  | compressedFault (req : FaultReq) (pte : Nat)
  /-- MATERIALISATION (R256). -/
  | materialisation (req : FaultReq) (pte : Nat)
  /-- WALK_MISS (R285). -/
  | walkMiss (req : FaultReq)
  /-- PAGE_REQUEST (R355). -/
  | pageRequest (req : FaultReq) (kind : BitVec 4)
  /-- PAGE_REQUEST_SUCCESS (R356). -/
  | pageRequestSuccess (rid gen : BitVec 16)
  /-- PAGE_REQUEST_FAILURE (R356). -/
  | pageRequestFailure (rid gen : BitVec 16)
  /-- DOORBELL (R39). -/
  | doorbell (q : Fin 16) (tail : BitVec 32)
  /-- LAUNCH (R43). -/
  | launch (q : Fin 16) (cmd : Command)
  /-- COLL (R336). -/
  | coll (q : Fin 16) (cmd : Command)
  /-- WAIT_GTS (R43). -/
  | waitGts (q : Fin 16) (cmd : Command)
  /-- WAIT_WORD (R43). -/
  | waitWord (q : Fin 16) (cmd : Command)
  /-- WAIT_QEVENT (R43). -/
  | waitQevent (q : Fin 16) (cmd : Command)
  /-- SIGNAL_STORE (R43). -/
  | signalStore (q : Fin 16) (cmd : Command)
  /-- SIGNAL_ADD (R43). -/
  | signalAdd (q : Fin 16) (cmd : Command)
  /-- PHASEFENCE (R43). -/
  | phasefence (q : Fin 16) (cmd : Command)
  /-- ARM (R48). -/
  | arm (q : Fin 16) (cmd : Command)
  /-- DISARM (R42). -/
  | disarm (q : Fin 16) (cmd : Command)
  /-- MARKER (R43). -/
  | marker (q : Fin 16) (cmd : Command)
  /-- COPY_START_WORD (R233). -/
  | copyStartWord (core : Fin 96) (chan : BitVec 4) (word : Word)
  /-- AGENT_ACCESS (R280). -/
  | agentAccess (op : AgentOp) (addr : Nat) (bytes : List Byte)
  /-- OWNER_HANDLING (R371). -/
  | ownerHandling (err : ErrorReq)
  /-- TAG_RETIREMENT (R269). -/
  | tagRetirement (tag : Tag)
  /-- TAGRET_WRITE (R261). -/
  | tagretWrite (tag : Tag)
  /-- TIVA_INVALIDATE (R287). -/
  | tivaInvalidate (va : Word)
  /-- POOL_REGISTER_WRITE (R257). -/
  | poolRegisterWrite (offset : Nat) (value : Word)
  /-- ALERT (R292). -/
  | alert (site : Fin 8) (row : RowId)
  /-- STRIKE (R377). -/
  | strike (die : Fin 4) (zone : Fin 32)
  /-- SIGNATURE (R337). -/
  | signatureMsg (coll : BitVec 16) (rank : Nat) (sig : Word) (bad : Bool)
  /-- RUN (R339). -/
  | runMsg (coll : BitVec 16) (msg : RunMsg)
  /-- ACK (R338). -/
  | ackMsg (coll : BitVec 16) (step : Nat) (k : Nat)
  /-- END (R338). -/
  | endMsg (coll : BitVec 16) (step rank count : Nat)
  /-- FLIT_FORWARD (R333). -/
  | flitForward (scheduled : Bool) (dest : BitVec 10)
  /-- SITE_JOIN (R397). -/
  | siteJoin (site : Fin 8) (ok : Bool)
  /-- POWER_LIMIT (R8). -/
  | powerLimit (milliwatts hertz : Nat)
  /-- WAKE (R399). -/
  | wake (cause : WakeCause)
  /-- TOL_WRITE (R399). -/
  | tolWrite (tol : BitVec 32)
  /-- ATTESTATION_REQUEST (R400). -/
  | attestationRequest (addr : Word)
  /-- REPLAY_RELEASE (R388). -/
  | replayRelease (held : HeldChoice)
  /-- DIVERGENCE (R390). -/
  | divergence (kind : BitVec 4) (obj : BitVec 40)
  /-- REGISTER_WRITE (R14). -/
  | registerWrite (offset : Nat) (value : Word)
  /-- ILLEGAL_WORD (R77). -/
  | illegalWord (word : IWord)
  /-- TIER_COMMAND_WRITE (R288). -/
  | tierCommandWrite (site : Fin 8) (value : Word)
  /-- RET (R104). -/
  | ret
  /-- NOP (R110). -/
  | nop
  /-- DONE (R110). -/
  | done
  /-- ERET (R353). -/
  | eret
  /-- PHB (R374). -/
  | phb
  /-- PHC (R376). -/
  | phc
  /-- TOKEN_PUSH (R79). -/
  | tokenPush
  /-- TRAP_ENTRY (R351). -/
  | trapEntry
  /-- PREEMPTION (R362). -/
  | preemption
  /-- RESUMPTION (R363). -/
  | resumption
  /-- PREEMPTION_TIMEOUT (R364). -/
  | preemptionTimeout
  /-- ERROR_CLEAR (R38). -/
  | errorClear
  /-- WAIT_WORD_READ (R43). -/
  | waitWordRead
  /-- PRIORITY_AGING (R46). -/
  | priorityAging
  /-- WEIR_FIRE (R48). -/
  | weirFire
  /-- PENDING_FIRING (R49). -/
  | pendingFiring
  /-- ITEM_PLACEMENT (R59). -/
  | itemPlacement
  /-- GANG_PLACEMENT (R60). -/
  | gangPlacement
  /-- NEXT_PHASE_DISPATCH (R64). -/
  | nextPhaseDispatch
  /-- ITEM_LOAD (R53). -/
  | itemLoad
  /-- SYNC_GROUP_START (R66). -/
  | syncGroupStart
  /-- GO (R52). -/
  | go
  /-- ITEM_RETIRE (R110). -/
  | itemRetire
  /-- COPY_COMMAND (R237). -/
  | copyCommand
  /-- COMPLETION_POP (R242). -/
  | completionPop
  /-- ROW_COMMAND (R300). -/
  | rowCommand
  /-- ROW_COMPLETION_POP (R304). -/
  | rowCompletionPop
  /-- CALENDAR_SLOT (R281). -/
  | calendarSlot
  /-- REQUEST_DATA (R282). -/
  | requestData
  /-- PATROL (R368). -/
  | patrol
  /-- TAGNEW_READ (R261). -/
  | tagnewRead
  /-- TIALL_INVALIDATE (R287). -/
  | tiallInvalidate
  /-- COMPRESS (R290). -/
  | compressTier
  /-- MOVE (R290). -/
  | moveTier
  /-- HEAT_HALVING (R291). -/
  | heatHalving
  /-- REFRESH (R293). -/
  | refresh
  /-- HEARTBEAT (R293). -/
  | heartbeat
  /-- TAKEOVER (R293). -/
  | takeover
  /-- HAND_BACK (R293). -/
  | handBack
  /-- PHASE_COMMIT (R376). -/
  | phaseCommit
  /-- ERROR_RECORD (R394). -/
  | errorRecord
  /-- TRANSFER (R338). -/
  | transfer
  /-- LOST (R341). -/
  | lostMsg
  /-- ABORT (R341). -/
  | abortMsg
  /-- PORT_UP (R332). -/
  | portUp
  /-- PORT_DOWN (R332). -/
  | portDown
  /-- ROOT_PORT_LINK_DOWN (R393). -/
  | rootPortLinkDown
  /-- RESET (R396). -/
  | resetDevice
  /-- STAGE_1 (R396). -/
  | stage1
  /-- STAGE_2 (R398). -/
  | stage2
  /-- IDLE_ENTRY (R399). -/
  | idleEntry
  /-- WAIT_GTS_COMPLETE (R43). -/
  | waitGtsComplete
  /-- ROOT_PORT_RETRAIN (R393). -/
  | rootPortRetrain
  /-- ATTESTATION_REPORT (R400). -/
  | attestationReport
  deriving DecidableEq, Repr

end Sys2Proof
end

