-- ==== Sys2Proof/WellFormed.lean ====
section
/-! DEFINITION. Which terms of Instr the encodings admit (R71 to R77, R84): the checks on the fields of one word. What
depends on the state of the machine (a template not loaded, a register number not listed, an image's live maps) is
judged when the word executes. -/

namespace Sys2Proof

/-- A legal operand code: 54 to 63 are reserved (R72). -/
def okSrc (c : OpCode) : Bool := c.toNat ≤ 53

/-- A legal destination code: 0 to 31, or 63 for queue only (R73). -/
def okDst (d : OpCode) : Bool := d.toNat < 32 || d.toNat == 63

/-- A VRF block that stays on the 32 × 32 grid (R207, R210). -/
def okBlock (row col : BitVec 5) (h1 w1 : BitVec 3) : Bool :=
  row.toNat + h1.toNat + 1 ≤ 32 && col.toNat + w1.toNat + 1 ≤ 32

/-- The wide opcode of a record: its bits 7 to 0 (R81). -/
def WideOp.wop (op : WideOp) : Nat := (op.record.extractLsb' 0 8).toNat

/-- The wide opcode of the `n`-th wide operation of the opcode table, in the order of R84: blocks at 0x00, 0x20, 0x40
and 0x60. -/
def wideCode (n : Nat) : Nat :=
  if n < 16 then n else if n < 32 then 0x20 + (n - 16) else if n < 47 then 0x40 + (n - 32) else 0x60 + (n - 47)

/-- The check of one instruction. -/
def Instr.wf : Instr → Bool
  | .add d a b => okDst d && okSrc a && okSrc b
  | .sub d a b => okDst d && okSrc a && okSrc b
  | .mul d a b => okDst d && okSrc a && okSrc b
  | .mulh d a b => okDst d && okSrc a && okSrc b
  | .mulhu d a b => okDst d && okSrc a && okSrc b
  | .div d a b => okDst d && okSrc a && okSrc b
  | .divu d a b => okDst d && okSrc a && okSrc b
  | .rem d a b => okDst d && okSrc a && okSrc b
  | .remu d a b => okDst d && okSrc a && okSrc b
  | .and_ d a b => okDst d && okSrc a && okSrc b
  | .or_ d a b => okDst d && okSrc a && okSrc b
  | .xor_ d a b => okDst d && okSrc a && okSrc b
  | .andn d a b => okDst d && okSrc a && okSrc b
  | .shl d a b => okDst d && okSrc a && okSrc b
  | .shr d a b => okDst d && okSrc a && okSrc b
  | .sar d a b => okDst d && okSrc a && okSrc b
  | .min_ d a b => okDst d && okSrc a && okSrc b
  | .max_ d a b => okDst d && okSrc a && okSrc b
  | .minu d a b => okDst d && okSrc a && okSrc b
  | .maxu d a b => okDst d && okSrc a && okSrc b
  | .seq d a b => okDst d && okSrc a && okSrc b
  | .sne d a b => okDst d && okSrc a && okSrc b
  | .slt d a b => okDst d && okSrc a && okSrc b
  | .sle d a b => okDst d && okSrc a && okSrc b
  | .sltu d a b => okDst d && okSrc a && okSrc b
  | .sleu d a b => okDst d && okSrc a && okSrc b
  | .clz d a => okDst d && okSrc a
  | .popc d a => okDst d && okSrc a
  | .mov d a => okDst d && okSrc a
  | .bfx d a b => okDst d && okSrc a && okSrc b
  | .addi d a _ => okDst d && okSrc a
  | .andi d a _ => okDst d && okSrc a
  | .ori d a _ => okDst d && okSrc a
  | .xori d a _ => okDst d && okSrc a
  | .shli d a _ => okDst d && okSrc a
  | .shri d a _ => okDst d && okSrc a
  | .sari d a _ => okDst d && okSrc a
  | .slti d a _ => okDst d && okSrc a
  | .sltiu d a _ => okDst d && okSrc a
  | .lui d _ => okDst d
  | .fadd d a b => okDst d && okSrc a && okSrc b
  | .fsub d a b => okDst d && okSrc a && okSrc b
  | .fmul d a b => okDst d && okSrc a && okSrc b
  | .fdiv d a b => okDst d && okSrc a && okSrc b
  | .fsqrt d a => okDst d && okSrc a
  | .fmin d a b => okDst d && okSrc a && okSrc b
  | .fmax d a b => okDst d && okSrc a && okSrc b
  | .fabs d a => okDst d && okSrc a
  | .fneg d a => okDst d && okSrc a
  | .feq d a b => okDst d && okSrc a && okSrc b
  | .flt d a b => okDst d && okSrc a && okSrc b
  | .fle d a b => okDst d && okSrc a && okSrc b
  | .fcvtfi d a => okDst d && okSrc a
  | .fcvtif d a => okDst d && okSrc a
  | .branch .. => true
  | .branchCond cond a _ => (1 ≤ cond.toNat && cond.toNat ≤ 6) && okSrc a
  | .call .. => true
  | .jr a => okSrc a
  | .ret => true
  | .loop _ count body => okSrc count && body.toNat != 0
  | .loopEnd .. => true
  | .srr d _ => okDst d
  | .srw a _ => okSrc a
  | .nop => true
  | .done => true
  | .trap .. => true
  | .eret => true
  | .safept .. => true
  | .phb => true
  | .phc => true
  | .waitsc a _ => okSrc a
  | .brk .. => true
  | .inj a kind target => okSrc a && kind.toNat ≤ 1 && target.toNat ≤ 4
  | .amov _ _ _ s => okSrc s
  | .aadd _ _ _ s => okSrc s
  | .aaddi .. => true
  | .aget .. => true
  | .ldB _ _ _ s _ => okSrc s
  | .ldBu _ _ _ s _ => okSrc s
  | .ldH _ _ _ s _ => okSrc s
  | .ldHu _ _ _ s _ => okSrc s
  | .ldW _ _ _ s _ => okSrc s
  | .ldWu _ _ _ s _ => okSrc s
  | .ldD _ _ _ s _ => okSrc s
  | .ldroW _ _ _ s _ => okSrc s
  | .ldroD _ _ _ s _ => okSrc s
  | .ldxW _ _ _ s _ => okSrc s
  | .ldxD _ _ _ s _ => okSrc s
  | .lv _ _ row col h1 w1 _ => okBlock row col h1 w1
  | .mld _ _ feed _ s => okSrc s && feed.toNat ≤ 1
  | .pset .. => true
  | .cbset .. => true
  | .tdef _ _ tmpl count => 1 ≤ count.toNat && tmpl.toNat + count.toNat ≤ 64
  | .bind .. => true
  | .unbind .. => true
  | .fence .. => true
  | .roinv .. => true
  | .roinvRange _ _ _ s => okSrc s
  | .acq _ _ _ s _ => okSrc s
  | .clean _ _ _ s scope => okSrc s && 2 ≤ scope.toNat
  | .pf _ _ _ s _ => okSrc s
  | .tbinit _ _ _ s _ => okSrc s
  | .tbarr .. => true
  | .tbexp _ _ _ s _ => okSrc s
  | .tbarrexp _ _ _ s _ => okSrc s
  | .tbwait _ _ _ s _ => okSrc s
  | .tbtest .. => true
  | .amoAdd _ _ _ s _ scope _ _ ord => okSrc s && (!ord || 2 ≤ scope.toNat)
  | .amoAnd _ _ _ s _ scope _ _ ord => okSrc s && (!ord || 2 ≤ scope.toNat)
  | .amoOr _ _ _ s _ scope _ _ ord => okSrc s && (!ord || 2 ≤ scope.toNat)
  | .amoXor _ _ _ s _ scope _ _ ord => okSrc s && (!ord || 2 ≤ scope.toNat)
  | .amoMin _ _ _ s _ scope _ _ ord => okSrc s && (!ord || 2 ≤ scope.toNat)
  | .amoMax _ _ _ s _ scope _ _ ord => okSrc s && (!ord || 2 ≤ scope.toNat)
  | .amoMinu _ _ _ s _ scope _ _ ord => okSrc s && (!ord || 2 ≤ scope.toNat)
  | .amoMaxu _ _ _ s _ scope _ _ ord => okSrc s && (!ord || 2 ≤ scope.toNat)
  | .amoSwap _ _ _ s _ scope _ _ ord => okSrc s && (!ord || 2 ≤ scope.toNat)
  | .amoFadd _ _ _ s scope _ _ ord => okSrc s && (!ord || 2 ≤ scope.toNat)
  | .amoFmin _ _ _ s scope _ _ ord => okSrc s && (!ord || 2 ≤ scope.toNat)
  | .amoFmax _ _ _ s scope _ _ ord => okSrc s && (!ord || 2 ≤ scope.toNat)
  | .cas _ _ _ s new _ => okSrc s && okSrc new
  | .tagnew .. => true
  | .tagnewNb .. => true
  | .tagret _ _ s _ => okSrc s
  | .ctxset _ _ s => okSrc s
  | .xtagset _ _ s => okSrc s
  | .stB _ _ _ s _ => okSrc s
  | .stH _ _ _ s _ => okSrc s
  | .stW _ _ _ s _ => okSrc s
  | .stD _ _ _ s _ => okSrc s
  | .relD _ _ _ s _ => okSrc s
  | .sv _ _ row col h1 w1 _ => okBlock row col h1 w1
  | .stxW _ _ _ s _ => okSrc s
  | .stxD _ _ _ s _ => okSrc s
  | .rowcopy .. => true
  | .rowfill .. => true
  | .rowand .. => true
  | .rowor .. => true
  | .rowxor .. => true
  | .rownot .. => true
  | .rowmaj .. => true
  | .patch .. => true
  | .tx .. => true
  | .vadd op => op.wop == wideCode 0
  | .vsub op => op.wop == wideCode 1
  | .vmul op => op.wop == wideCode 2
  | .vfma op => op.wop == wideCode 3
  | .vfms op => op.wop == wideCode 4
  | .vmin op => op.wop == wideCode 5
  | .vmax op => op.wop == wideCode 6
  | .vabs op => op.wop == wideCode 7
  | .vneg op => op.wop == wideCode 8
  | .vrcp op => op.wop == wideCode 9
  | .vrsqrt op => op.wop == wideCode 10
  | .vsqrt op => op.wop == wideCode 11
  | .vexp2 op => op.wop == wideCode 12
  | .vlog2 op => op.wop == wideCode 13
  | .vtanh op => op.wop == wideCode 14
  | .vscale op => op.wop == wideCode 15
  | .viadd op => op.wop == wideCode 16
  | .visub op => op.wop == wideCode 17
  | .vimul op => op.wop == wideCode 18
  | .vand op => op.wop == wideCode 19
  | .vor op => op.wop == wideCode 20
  | .vxor op => op.wop == wideCode 21
  | .vnot op => op.wop == wideCode 22
  | .vshl op => op.wop == wideCode 23
  | .vshr op => op.wop == wideCode 24
  | .vsar op => op.wop == wideCode 25
  | .vimin op => op.wop == wideCode 26
  | .vimax op => op.wop == wideCode 27
  | .viminu op => op.wop == wideCode 28
  | .vimaxu op => op.wop == wideCode 29
  | .vcmp op => op.wop == wideCode 30
  | .vsel op => op.wop == wideCode 31
  | .vrsum op => op.wop == wideCode 32
  | .vrmax op => op.wop == wideCode 33
  | .vrmin op => op.wop == wideCode 34
  | .vcsum op => op.wop == wideCode 35
  | .vmov op => op.wop == wideCode 36
  | .vbcast op => op.wop == wideCode 37
  | .vext op => op.wop == wideCode 38
  | .vins op => op.wop == wideCode 39
  | .viota op => op.wop == wideCode 40
  | .vperm op => op.wop == wideCode 41
  | .vcompact op => op.wop == wideCode 42
  | .vtrans op => op.wop == wideCode 43
  | .vcvt op => op.wop == wideCode 44
  | .vq4 op => op.wop == wideCode 45
  | .vdq4 op => op.wop == wideCode 46
  | .mzero op => op.wop == wideCode 47
  | .mload op => op.wop == wideCode 48
  | .mma op => op.wop == wideCode 49
  | .mdrain op => op.wop == wideCode 50
  | .mchol op => op.wop == wideCode 51
  | .mlu op => op.wop == wideCode 52
  | .mqr op => op.wop == wideCode 53
  | .mtrs op => op.wop == wideCode 54
  | .mshift op => op.wop == wideCode 55
  | .mpiv op => op.wop == wideCode 56
  | .wideOpCompletion .. => true
  | .tokenPush .. => true
  | .trapEntry .. => true
  | .termination .. => true
  | .preemption .. => true
  | .resumption .. => true
  | .preemptionTimeout .. => true
  | .interruptRequest .. => true
  | .preemptionRequest .. => true
  | .accessedFault .. => true
  | .dirtyFault .. => true
  | .compressedFault .. => true
  | .materialisation .. => true
  | .walkMiss .. => true
  | .pageRequest .. => true
  | .pageRequestSuccess .. => true
  | .pageRequestFailure .. => true
  | .doorbell .. => true
  | .errorClear .. => true
  | .launch .. => true
  | .coll .. => true
  | .waitGts .. => true
  | .waitWord .. => true
  | .waitWordRead .. => true
  | .waitQevent .. => true
  | .signalStore .. => true
  | .signalAdd .. => true
  | .phasefence .. => true
  | .arm .. => true
  | .disarm .. => true
  | .marker .. => true
  | .priorityAging .. => true
  | .weirFire .. => true
  | .pendingFiring .. => true
  | .itemPlacement => true
  | .gangPlacement => true
  | .nextPhaseDispatch => true
  | .itemLoad .. => true
  | .syncGroupStart .. => true
  | .go .. => true
  | .itemRetire .. => true
  | .copyStartWord .. => true
  | .copyCommand .. => true
  | .completionPop .. => true
  | .rowCommand .. => true
  | .rowCompletionPop .. => true
  | .calendarSlot .. => true
  | .requestData .. => true
  | .agentAccess .. => true
  | .ownerHandling .. => true
  | .patrol .. => true
  | .tagRetirement .. => true
  | .tagnewRead => true
  | .tagretWrite .. => true
  | .tivaInvalidate .. => true
  | .tiallInvalidate => true
  | .compressTier .. => true
  | .moveTier .. => true
  | .poolRegisterWrite .. => true
  | .heatHalving => true
  | .alert .. => true
  | .refresh .. => true
  | .heartbeat .. => true
  | .takeover .. => true
  | .handBack .. => true
  | .strike .. => true
  | .phaseCommit .. => true
  | .errorRecord => true
  | .signatureMsg .. => true
  | .transfer .. => true
  | .runMsg .. => true
  | .ackMsg .. => true
  | .endMsg .. => true
  | .lostMsg .. => true
  | .abortMsg .. => true
  | .flitForward .. => true
  | .portUp .. => true
  | .portDown .. => true
  | .rootPortLinkDown .. => true
  | .resetDevice => true
  | .stage1 => true
  | .siteJoin .. => true
  | .stage2 => true
  | .powerLimit .. => true
  | .idleEntry => true
  | .wake .. => true
  | .tolWrite .. => true
  | .attestationRequest .. => true
  | .replayRelease .. => true
  | .divergence .. => true
  | .registerWrite .. => true
  | .waitGtsComplete .. => true
  | .illegalWord .. => true
  | .tierCommandWrite .. => true
  | .rootPortRetrain .. => true
  | .attestationReport => true

end Sys2Proof
end

