-- ==== Sys2Proof/Config.lean ====
section
/-! DEFINITION. What the spec fixes for the machine as a whole, and the FREE VALUES: constants with no body, for what
the spec leaves open. Nothing can evaluate a free value, so a claim that holds holds whatever it is. Each is named in
the assumption log. -/

namespace Sys2Proof.Config

/-- A choice the spec leaves to the device (R12): the `n`-th one of a run. -/
opaque choice : Nat → Bool

/-- A choice among `k` outcomes: the `n`-th one of a run, taken modulo `k` where it is used. -/
opaque pick : Nat → Nat

/-- A free value of 64 bits: the `n`-th one of a run. -/
opaque freeWord : Nat → BitVec 64

/-- The scale byte that a Q4 operation takes for a scalar or an immediate operand (R125, R134): a value that no rule gives. -/
opaque q4Scale : Nat → BitVec 8

/-- Whether a 4-byte word of an overlapped window comes out as the later of its two values (R90): the window's serial
number and the word's number choose. -/
opaque windowChoice : Nat → Nat → Bool

/-- The whole rotations a Cistern miss takes beyond the first (R282): site and cycle. -/
opaque missRotations : Nat → Nat → Nat

/-- TEMPC of a core at a GTS (R58). -/
opaque tempC : Nat → Nat → BitVec 8

/-- DROOPMV of a core at a GTS (R58). -/
opaque droopMv : Nat → Nat → BitVec 8

/-- The Ed448 signature of a message (R7, R400) under the device's own key, which the digest of the management firmware goes into. -/
opaque sign : List Byte → List Byte → List Byte

/-- The bytes of an object in one of its two slots of flash, and its signature (R395). -/
opaque flashBytes : Nat → Nat → List Byte
opaque flashSignature : Nat → Nat → List Byte

/-- The version that an object's bytes carry (R395): the spec does not describe where. -/
opaque flashVersion : List Byte → Nat

/-- The root public key, and the digest of it in the boot ROM (R395). -/
opaque rootKey : List Byte
opaque rootDigest : List Byte

/-- Whether an Ed448 signature of a message verifies under a public key (R395): the spec names the scheme and does not describe it. -/
opaque ed448 : List Byte → List Byte → List Byte → Bool

/-- The digest of an object of which no slot verifies (R400). -/
opaque identity : Nat → List Byte

/-- The compressed image of a 64 KiB page (R289): the compression itself is not described. -/
opaque compressedImage : List Byte → List Byte

/-- The DRAM row of a line outside its site's row-intact region: the controller's own interleaved layout, which software never
sees (R294). Pseudo-channel, bank and row in one number. -/
opaque interleaved : Nat → Nat

/-- The granules of moved pages that take the bytes of another location when the row-intact register changes (R294), as
pairs of destination and source addresses: the `n`-th answer of a run. -/
opaque movedGranules : Nat → List (Nat × Nat)

/-- A correctly rounded transcendental value where the model's interval arithmetic has not decided the rounding:
function number, source bits, format code, rounding code. -/
opaque transcendental : Nat → Nat → Nat → Nat → Nat

/-- DEVID in a configuration blob (R332, R395): where in its bytes, the spec does not say; so with the next two. -/
opaque blobDevId : List Byte → BitVec 10

/-- The activation threshold in a configuration blob (R292, R395). -/
opaque blobThreshold : List Byte → Nat

/-- The cores a configuration blob permits RAS test mode on (R116, R395). -/
opaque blobRas : List Byte → BitVec 96

/-- The bytes of the device attached to an expansion root port (R393). -/
opaque boardBytes : Nat → Nat

/-- Pages on the retirement list in flash when the device comes up (R371, R397). -/
opaque retirementList : List Nat

/-- Core cycles between the mark of a calendar slot and the data of a hit (R282). -/
def hitLatency : Nat := 112

/-- The arithmetic clock in full service, in hertz (R7). -/
def fullClock : Nat := 1500000000

/-- The last legal program counter: IMEM is 256 KiB (R103). -/
def lastPc : Nat := 262140

/-- Queue depths (R78). -/
def lqDepth : Nat := 32
def cqDepth : Nat := 64
def sqDepth : Nat := 32

end Sys2Proof.Config
end

