-- ==== Sys2Proof/Machine/Shake.lean ====
section
/-! DEFINITION. SHAKE256, which R337, R395 and R400 name. -/

namespace Sys2Proof.Machine

/-- Rotation amounts of the lanes, by x + 5y. -/
def keccakRot : List Nat :=
  [0, 1, 62, 28, 27, 36, 44, 6, 55, 20, 3, 10, 43, 25, 39, 41, 45, 15, 21, 8, 18, 2, 61, 56, 14]

/-- The round constants. -/
def keccakRc : List (BitVec 64) :=
  [0x0000000000000001, 0x0000000000008082, 0x800000000000808A, 0x8000000080008000, 0x000000000000808B, 0x0000000080000001,
   0x8000000080008081, 0x8000000000008009, 0x000000000000008A, 0x0000000000000088, 0x0000000080008009, 0x000000008000000A] ++
  [0x000000008000808B, 0x800000000000008B, 0x8000000000008089, 0x8000000000008003, 0x8000000000008002, 0x8000000000000080,
   0x000000000000800A, 0x800000008000000A, 0x8000000080008081, 0x8000000000008080, 0x0000000080000001, 0x8000000080008008]

/-- One round on 25 lanes. -/
def keccakRound (a : List (BitVec 64)) (rc : BitVec 64) : List (BitVec 64) :=
  let l (v : List (BitVec 64)) (i : Nat) : BitVec 64 := v.getD i 0
  let c := (List.range 5).map fun x => l a x ^^^ l a (x + 5) ^^^ l a (x + 10) ^^^ l a (x + 15) ^^^ l a (x + 20)
  let d := (List.range 5).map fun x => l c ((x + 4) % 5) ^^^ (l c ((x + 1) % 5)).rotateLeft 1
  let e := (List.range 25).map fun i => l a i ^^^ l d (i % 5)
  let b := (List.range 25).map fun j =>
    let i := (j % 5 + 3 * (j / 5)) % 5 + 5 * (j % 5)
    (l e i).rotateLeft (keccakRot.getD i 0)
  let f := (List.range 25).map fun j =>
    l b j ^^^ (~~~ l b ((j + 1) % 5 + 5 * (j / 5)) &&& l b ((j + 2) % 5 + 5 * (j / 5)))
  f.set 0 (l f 0 ^^^ rc)

/-- The permutation. -/
def keccak (a : List (BitVec 64)) : List (BitVec 64) := keccakRc.foldl keccakRound a

/-- A block of 136 bytes goes into the lanes. -/
def keccakAbsorb (a : List (BitVec 64)) (block : List Byte) : List (BitVec 64) :=
  let w := (chunks 8 17 block).map fun bs => BitVec.ofNat 64 (leNat bs)
  keccak (List.zipWith (· ^^^ ·) a (w ++ List.replicate 8 0))

/-- The message with its padding: whole blocks of 136 bytes. -/
def shakePad (m : List Byte) : List Byte :=
  let n := 136 - m.length % 136
  if n = 1 then m ++ [0x9F] else m ++ [0x1F] ++ zeroBytes (n - 2) ++ [0x80]

/-- The first `n` bytes of SHAKE256 of a message, `n` at most 136. -/
def shake256 (m : List Byte) (n : Nat) : List Byte :=
  let p := shakePad m
  let a := (chunks 136 (p.length / 136) p).foldl keccakAbsorb (List.replicate 25 0)
  (a.flatMap fun x => leBytes 8 x.toNat).take n

end Sys2Proof.Machine
end

