-- ==== Sys2Proof/Machine/Boot.lean ====
section
/-! DEFINITION. What the management controller takes from flash (R395): the slots of the configuration blob and of the firmware images, which
of them verify, and which is in use. -/

namespace Sys2Proof.Machine

/-! Objects by number, in the order of R400: 0 the configuration blob, 1 the management controller's image, 2 the Sluice's, 3 the memory
processor's, 4 the site controller's. -/

def objBlob : Nat := 0
def objManagement : Nat := 1
def objSite : Nat := 4

/-- The root public key is the one whose digest the boot ROM holds. -/
def rootKeyOk : Bool := shake256 Config.rootKey 64 == Config.rootDigest

/-- A slot holds an object whose signature, over its SHAKE256 digest, verifies. -/
def slotVerifies (obj slot : Nat) : Bool :=
  rootKeyOk && Config.ed448 Config.rootKey (shake256 (Config.flashBytes obj slot) 64) (Config.flashSignature obj slot)

/-- The version of what a slot holds. -/
def slotVersion (obj slot : Nat) : Nat := Config.flashVersion (Config.flashBytes obj slot)

/-- The slot in use: of those that verify, the one with the higher version, and slot 0 where the versions agree (DESIGN CHOICE, log
entry 35). -/
def slotChosen (obj : Nat) : Option Nat :=
  match slotVerifies obj 0, slotVerifies obj 1 with
  | true, true => some (if slotVersion obj 0 < slotVersion obj 1 then 1 else 0)
  | true, false => some 0
  | false, true => some 1
  | false, false => none

/-- The bytes of an object in use. -/
def objectBytes (obj : Nat) : Option (List Byte) := (slotChosen obj).map (Config.flashBytes obj)

/-- The digest of an object in use (R400); where none verifies, no rule gives it (log entry 35). -/
def objectDigest (obj : Nat) : List Byte :=
  match objectBytes obj with
  | some bs => shake256 bs 64
  | none => Config.identity obj

/-- DEVID (R332): 0 where no blob verifies (DESIGN CHOICE, log entry 35). -/
def blobDevId : BitVec 10 :=
  match objectBytes objBlob with
  | some bs => Config.blobDevId bs
  | none => 0

/-- The activation threshold (R292). -/
def blobThreshold : Nat :=
  match objectBytes objBlob with
  | some bs => Config.blobThreshold bs
  | none => 0

/-- The cores permitted RAS test mode (R116). -/
def blobRas : BitVec 96 :=
  match objectBytes objBlob with
  | some bs => Config.blobRas bs
  | none => 0

/-- The blob and the images that stage 1 needs have verified (R395, R396): blob, management controller, Sluice, memory processor. -/
def imagesValid : Bool := (List.range 4).all fun obj => (slotChosen obj).isSome

end Sys2Proof.Machine
end

