-- ==== Sys2Proof/Machine/State.lean ====
section
/-! DEFINITION. The state of one Hexain Z96 package as plain data: every register and store the spec names, the work in
flight, and the model's own bookkeeping (which unit acts, the clock, the pending events and the counter of free values). -/

namespace Sys2Proof.Machine

/-- A store by key: keys strictly rising, and no entry equal to zero, which is what an unlisted key reads as. -/
abbrev Sparse (w : Nat) := List (Nat × BitVec w)

/-- A byte store by address (Host.Cell): physical memory, scratchpad, VRF. -/
abbrev Memory := List Host.Cell

/-- The unit of a core that acts: the sequencer or the engine of one queue (R78). -/
inductive Actor where
  | seq | lq | cq | sq
  deriving DecidableEq, Repr

/-- The four token counters of R79. `sqcqInfo` and `cqlqInfo` list, for each token that stands in SQ→CQ and CQ→LQ, oldest
first, how many SQ instructions had completed before its push: the ordering of R211 that the token carries. -/
structure Tokens where
  lqcq : Nat
  cqsq : Nat
  cqlq : Nat
  sqcq : Nat
  sqcqInfo : List Nat
  cqlqInfo : List Nat
  deriving DecidableEq, Repr

/-- A hardware loop level (R105). -/
structure LoopLevel where
  first : Nat
  last : Nat
  rem : Nat
  deriving DecidableEq, Repr

/-- The loop levels and the return stack of one trap level (R104, R105, R107); the newest return address stands first. -/
structure SeqLevel where
  loops : Vector LoopLevel 4
  ldepth : Nat
  rs : List Nat
  deriving DecidableEq, Repr

/-- What a trap switches (R351): result queue, load-return queue and token counters. -/
structure Bank where
  resq : Vector Word 16
  loads : List Word
  tok : Tokens
  deriving DecidableEq, Repr

/-- How far a queue entry has come: waiting to start, begun (an instruction with partial progress that must not take
its tokens twice), completed with pushes still to make (R79), stopped by a trap it raised (R348), or set aside by a trap with its
tokens taken, to start afresh (R353). -/
inductive EntryState where
  | waiting
  | begun
  | pushing (prev next : Bool)
  | stopped (begun : Bool)
  | again
  deriving DecidableEq, Repr

/-- An entry of a queue (R74, R78): the instruction, its word, the captured operands, the window registers that hold
for it (R108), its place in routing order, and for an instruction that has started the address register it names and the binding table, as they
stood on that cycle (R196, R209). -/
structure QEntry where
  instr : Instr
  word : IWord
  caps : List Word
  base : Word
  spbase : Word
  landbase : Word
  order : Nat
  ties : List (Nat × BitVec 256)
  state : EntryState
  deriving DecidableEq, Repr

/-- A trap that has been raised and not yet taken (R348). `flow` is where the sequencer goes on and its loops, for a trap whose
word finishes as the trap is taken (R111, R359), `wired` that the stall wire was asserted as it was raised (R348, R69). -/
structure TrapReq where
  src : Nat
  cause : Nat
  info : Word
  va : Option Word
  pc : Option Nat
  flow : Option (Nat × SeqLevel)
  order : Nat
  cycle : Nat
  wired : Bool := false
  deriving DecidableEq, Repr

/-- What the sequencer is doing. -/
inductive SeqMode where
  | run
  /-- `done` waits for the drain (R110) -/
  | draining
  /-- `phc` holds for its commit point (R376): the cycle on which the hold ends, 0 while the drain still runs -/
  | phcHold (since : Nat)
  /-- a `safept` drains for pre-emption (R362); SCHED as it stood there (R67) -/
  | preempting (n : BitVec 6) (sched : Nat)
  /-- the item is being terminated (R381): what has started still runs to its end -/
  | ending (status detail : Byte)
  deriving DecidableEq, Repr

/-- A port (R137): its descriptor, walker index and held slot. -/
structure Port where
  set : Bool
  desc : BitVec 512
  index : Nat
  slot : Option Nat
  deriving DecidableEq, Repr

/-- A circular buffer (R141): descriptor, counters and pointers. -/
structure CircBuf where
  set : Bool
  desc : BitVec 128
  filled : Nat
  free : Nat
  pptr : Nat
  cptr : Nat
  deriving DecidableEq, Repr

/-- A slot a completing operation lets go of: the buffer, and whether it is released (FREE) or published (FILLED). -/
structure SlotEffect where
  buf : Nat
  publish : Bool
  deriving DecidableEq, Repr

/-- A push to an output port that was fixed at acceptance: the descriptor, the walker index of the first push, and the
slot base of each push. -/
structure PushPlan where
  desc : BitVec 512
  index : Nat
  bases : List Nat
  deriving DecidableEq, Repr

/-- What the array's factor instructions fix at acceptance (R186): the first column, the columns the issue processes,
whether it breaks down, and the pivot register. -/
structure FactorPlan where
  first : Nat
  cols : Nat
  breaks : Bool
  nothing : Bool
  pivot : Nat
  deriving DecidableEq, Repr

/-- 4-byte words of a register, by number and ascending, with what another access has made of them (R90); `key` tells the
accesses apart. -/
structure OverRun where
  key : Nat
  reg : Nat
  words : List (Nat × BitVec 32)
  deriving DecidableEq, Repr

/-- A port that the array reads cycle by cycle (R170): the operand place, the descriptor, the slot base, and the walker index of the
first pop. -/
structure PortRead where
  place : Nat
  desc : BitVec 512
  base : Nat
  index : Nat
  deriving DecidableEq, Repr

/-- A wide operation in execution (R89): its window, the registers it reads and writes, what it has read (bytes
and Q4 scale bytes of each register or pop), and what others did to its registers meanwhile (R90): `overSrc` is what other
accesses wrote to its sources, `overDst` the spans of its destination that another access wrote (register, first byte, count), `fixed` the words of its result
that another access may have seen, and it is `closed` once such a word was figured from all of its sources. `slots` names the slots it
reads or pushes into, by buffer and number. -/
structure Window where
  serial : Nat
  entry : QEntry
  op : WideOp
  issue : Nat
  bound : Nat
  due : Nat
  src : List Nat
  dst : List Nat
  dataA : List (List Byte × List Byte)
  dataB : List (List Byte × List Byte)
  dataC : List (List Byte × List Byte)
  push : Option PushPlan
  slots : List (Nat × Nat)
  effects : List SlotEffect
  factor : Option FactorPlan
  overSrc : List OverRun
  overDst : List (Nat × Nat × Nat)
  fixed : List OverRun
  closed : Bool
  reads : List PortRead
  deriving DecidableEq, Repr

/-- A window that check mode still guards after its operation has completed (R91). -/
structure ChkWindow where
  bound : Nat
  src : List Nat
  dst : List Nat
  deriving DecidableEq, Repr

/-- A TLB or walk-cache entry (R285): address space, 64 KiB page number, the leaf entry, its address and its level. -/
structure XlatEntry where
  root : Nat
  page : Nat
  pte : Word
  pteAddr : Nat
  level : Nat
  deriving DecidableEq, Repr

/-- A fault of the core's own instructions that has not been served (R69, R354): the unit that took it, the service its access asked
for, the event that serves it now (a walk may end in a page request), and whether that was
declined. -/
structure PendingFault where
  unit : Actor
  origin : Instr
  event : Instr
  declined : Bool
  deriving DecidableEq, Repr

/-- Factor and floating-point registers (R180 to R183). -/
structure FactorRegs where
  fcol : Word
  fstat : Word
  grow : Word
  bkval : Word
  pivdst : Word
  mmax : Word
  deriving DecidableEq, Repr

/-- Trap registers (R347) and the saved clause CLAUSE0 to CLAUSE3 (R87). -/
structure TrapRegs where
  cause : Word
  info : Word
  pc : Word
  va : Word
  clause : BitVec 256
  deriving DecidableEq, Repr

/-- The clause buffer (R85). -/
structure Clause where
  buf : BitVec 256
  valid : Bool
  tmpl : BitVec 6
  deriving DecidableEq, Repr

/-- The remaining system registers of R92 that the core itself holds. -/
structure SysRegs where
  ctx : Tag
  xtag : Tag
  mprog : Word
  livemap : BitVec 6
  savearea : Word
  spbase : Word
  landbase : Word
  deriving DecidableEq, Repr

/-- What the walker hands to a core (R51 to R54): `resume` is the SAVEAREA of a pre-empted item (R363), `die` the die that
a SPATIAL_DIE level names (R56). -/
structure Item where
  command : Option Nat
  queue : Nat
  lin : Nat
  phase : Nat
  root : Nat
  image : Word
  args : Word
  tag : Tag
  idx : List (BitVec 32)
  cnt : List (BitVec 32)
  flags : BitVec 6
  group : Nat
  pto : Nat
  replay : Bool
  resume : Option Word
  die : Option Nat
  prio : Nat
  pressed : Bool
  deriving DecidableEq, Repr

/-- The running image (R32), as the loader checked it. -/
structure ImageInfo where
  handler : Bool
  trapvec : Nat
  lmcount : Nat
  tmcount : Nat
  tmoff : Nat
  codesize : Nat
  entry : Nat
  rodoff : Nat
  ctbase : Nat
  ctcount : Nat
  deriving DecidableEq, Repr

/-- STATE of a core's mailbox (R51) with the steps between: `loaded` waits for its sync group (R66). -/
inductive CoreStatus where
  | idle | loading | loaded | running | ended
  deriving DecidableEq, Repr

/-- An L1 sector: 32 bytes (R276). -/
structure Sector where
  key : Nat
  data : BitVec 256
  deriving DecidableEq, Repr

/-- A line of the RO cache (R206). -/
structure RoLine where
  key : Nat
  data : BitVec 512
  deriving DecidableEq, Repr

/-- A write piece of a store that has completed (R208, R311): the number of the store among the SQ's completions, its bytes in
one 16-byte granule, and whether it has been performed at the home slice (R309); one into the scratchpad, whose `pa` lies beyond all physical
addresses, has been performed from the start. It stays until a load can no longer be unordered with it. -/
structure StorePiece where
  store : Nat
  va : Word
  pa : Nat
  data : List Byte
  owner : Tag
  home : Bool
  deriving DecidableEq, Repr

/-- One entry of a binding table (R216): SYNC, LEN, RBASE as the 32-byte descriptor. -/
abbrev Binding := BitVec 256

/-- An element of a completion FIFO (R241, R303), with the physical lines of its command's memory destination. -/
structure DoneElem where
  word : Word
  lines : List Nat
  deriving DecidableEq, Repr

/-- Bytes of a scratchpad granule before a write of the core that no command pushed so far is ordered after: commands with a lower
`since` may still read them (R245). -/
structure Overwritten where
  granule : Nat
  data : BitVec 128
  since : Nat
  deriving DecidableEq, Repr

/-- A command of a block-transfer channel (R233): start word, captured tag, and its place among all accepted commands. -/
structure CopyJob where
  word : Word
  tag : Tag
  order : Nat
  deriving DecidableEq, Repr

/-- A destination sector of a command that still expects bytes (R240): the core and the number of the sector in its
scratchpad, or the sector of virtual memory; the bytes gathered for it in order, each run with its scratchpad offset or
physical address; the bytes counted; whether some were clipped or left unwritten by a fault; and whether the first of its granules
has been written. -/
structure SectorBuf where
  core : Nat
  key : Nat
  writes : List (Nat × List Byte)
  count : Nat
  clip : Bool
  fault : Bool
  begun : Bool
  deriving DecidableEq, Repr

/-- A command in execution (R234 to R244): its template, the next element, the slot it fills (index among the slots of the
command, slot number), whether something was clipped, its failure status (0 none), the lines written, the landing bases
of its receivers (R239), the source granules it has read (R311), and the sectors that are not yet
credited. -/
structure CopyRun where
  template : BitVec 512
  next : Nat
  slot : Option (Nat × Nat)
  clip : Bool
  failed : Nat
  lines : List Nat
  landings : List (Nat × Nat)
  held : List (Nat × BitVec 128)
  pend : List SectorBuf
  deriving DecidableEq, Repr

/-- A block-transfer channel (R231 to R244): commands with the executing one first, and the cores whose barriers that one has given
FLT. -/
structure Channel where
  jobs : List CopyJob
  run : Option CopyRun
  fifo : List DoneElem
  ready : Nat
  flt : List Nat
  deriving DecidableEq, Repr

/-- A row command of a core (R297 to R304): function, descriptor and tag captured at the push, and how far it has come:
rows done, rows by the fast path and the fallback, failure status, the lines of the destination. -/
structure RowCmd where
  fn : Nat
  desc : BitVec 512
  tag : Tag
  begun : Bool
  fills : List (Nat × List Nat)
  fast : Nat
  fall : Nat
  status : Nat
  lines : List Nat
  deriving DecidableEq, Repr

/-- A parity error in an entry of a core's own structures (R367): which array, which entry, and whether it was injected. -/
structure CoreMark where
  place : Nat
  key : Nat
  injected : Bool
  deriving DecidableEq, Repr

/-- What a circular buffer remembers of the command that filled a slot (R375): start word, template bytes, tag, and the
piece of the command. A template of zero stands for a slot that no command filled. -/
structure SlotFill where
  buf : Nat
  slot : Nat
  word : Word
  template : BitVec 512
  tag : Tag
  piece : Nat
  inPlace : Bool
  deriving DecidableEq, Repr

/-- An open protected phase (R374 to R376): the snapshot `phb` takes, the slot actions it defers, the slots acquired in
it, the cycle on which its last queue instruction completed, and whether it has been cancelled and waits for what
executes to end (R375). -/
structure PhaseRec where
  restart : Nat
  cancelled : Bool
  tok : Tokens
  level : SeqLevel
  clause : Clause
  ports : List (Nat × Option Nat)
  deferred : List SlotEffect
  outSlots : List Nat
  inSlots : List (Nat × Nat)
  lastDone : Nat
  deriving DecidableEq, Repr

/-- The engines' stores of a core: vector registers, scratchpad, accumulators, feeds, templates. -/
structure CoreArrays where
  imem : Sparse 32
  vrf : Memory
  sp : Memory
  acc0 : Sparse 40
  acc1 : Sparse 40
  feedA : List Byte
  feedB : List Byte
  templates : Sparse 256
  tvalid : BitVec 64
  livemaps : List (BitVec 512)
  deriving DecidableEq, Repr

/-- The own caches of a core (R276), its TLB (R199), and its stores on their way to the home slices (R208). -/
structure CoreCaches where
  l1 : List Sector
  ro : List RoLine
  tlb : List XlatEntry
  stores : List StorePiece
  deriving DecidableEq, Repr

/-- The queues of a core (R78) and what a trap parked (R351). `sqDone` counts the SQ's completions, and `lqKnows`, `lqSeen` and `cqKnows` say how
many of them the LQ and the CQ are ordered after (R211, R319); `released` lists the words that the core has released at CORE scope, each with the
completions that the release covers (R315). -/
structure CoreQueues where
  lq : List QEntry
  cq : List QEntry
  sq : List QEntry
  windows : List Window
  guarded : List ChkWindow
  unplaced : List QEntry
  parkL : List QEntry
  parkC : List QEntry
  parkS : List QEntry
  order : Nat
  sqDone : Nat
  lqKnows : Nat
  lqSeen : Nat
  cqKnows : Nat
  released : List (Nat × Nat)
  deriving DecidableEq, Repr

/-- How the sequencer stands: R94's cycle on which the next word may begin, SCHED (R67), whether the stall wire holds it in
the present cycle (R69, R70), and raised traps. -/
structure SeqState where
  mode : SeqMode
  ready : Nat
  waiting : Bool
  start : Nat
  frozen : Nat
  wired : Bool
  trap : Option TrapReq
  deriving DecidableEq, Repr

/-- The cycles from which each queue may start its next instruction (R78), when the vector unit and the array paths are
free again (R145, R168), and the number of wide operations issued. -/
structure UnitTimes where
  lqNext : Nat
  cqNext : Nat
  sqNext : Nat
  vecFree : Nat
  mulFree : Nat
  xferFree : Nat
  serial : Nat
  deriving DecidableEq, Repr

/-- One core (R2). -/
structure Core where
  status : CoreStatus
  item : Option Item
  image : Option ImageInfo
  resident : Option (Word × Nat)
  lastOwner : Option (Nat × Tag)
  lstat : Byte
  pc : Nat
  sregs : Vector Word 32
  aregs : Vector Word 16
  bank0 : Bank
  bank1 : Bank
  level0 : SeqLevel
  level1 : SeqLevel
  tl : Bool
  chk : Bool
  clause : Clause
  trapRegs : TrapRegs
  factor : FactorRegs
  sys : SysRegs
  seq : SeqState
  queues : CoreQueues
  ports : Vector Port 8
  bufs : Vector CircBuf 16
  bindings : List (Nat × Binding)
  arrays : CoreArrays
  caches : CoreCaches
  units : UnitTimes
  faults : List PendingFault
  channels : List (Nat × Channel)
  overwritten : List Overwritten
  rows : List RowCmd
  rowFifo : List DoneElem
  phase : Option PhaseRec
  cancels : Nat × Nat
  fills : List SlotFill
  refetch : List SlotFill
  damage : List CoreMark
  prq : Bool
  irq : Bool
  prqSince : Nat
  mailbox : BitVec 1024
  deriving DecidableEq, Repr

/-- A Sluice queue (R38): `fired` holds each fired command with the tail at its firing (R49), `headSince` the nanoseconds
the head has stood ready without starting, `aged` the priority steps this has given (R46), and `starting` the command that
has begun and lets nothing of the queue start yet (R45); `flagged` says that the use of an out-of-range LOGSIZE has been logged (R14). -/
structure SluiceQueue where
  base : Word
  ctl : Word
  root : Word
  head : BitVec 32
  tail : BitVec 32
  qdone : Word
  error : Bool
  errcode : BitVec 4
  fired : List (Command × BitVec 32)
  headSince : Nat
  aged : Nat
  starting : Option Nat
  flagged : Bool
  deriving DecidableEq, Repr

/-- How a started command waits (R43). -/
inductive CmdWait where
  | items | gts | word | qevent | fence (ids : List Nat) | collective | access | completing (status detail : Nat)
  deriving DecidableEq, Repr

/-- A command that has been started and has not completed (R43 to R45). `tags` lists FRESH tags the walker has yet to see
retired, `ends` the items that have ended: L,
status, detail. -/
structure ActiveCmd where
  id : Nat
  queue : Nat
  cmd : Command
  wait : CmdWait
  left : Nat
  tags : List Nat
  ends : List (Nat × Byte × Byte)
  started : Bool
  deriving DecidableEq, Repr

/-- The LAUNCH that the walker serves (R55 to R65): its record, the number of the item to dispatch next in enumeration order
and of items in all, the phase being dispatched and its items that have been placed and not ended, the FRESH tags allocated
for the items to come and whether one is asked for, and the waiting items for which a pre-emption has been requested. `replay` is
REPLAY at the command's start (R389). -/
structure WalkerJob where
  command : Nat
  queue : Nat
  record : BitVec 1024
  root : Nat
  tset : BitVec 96
  dev : Nat
  prio : Nat
  next : Nat
  total : Nat
  phase : Nat
  live : Nat
  got : List Tag
  asked : Bool
  pressed : List Nat
  replay : Bool
  deriving DecidableEq, Repr

/-- An armed Weir entry (R47, R48); `serial` tells the armings of one entry apart. -/
structure WeirEntry where
  index : Nat
  rearm : Bool
  cmp : BitVec 3
  tq : Nat
  value : Word
  mask : Word
  addr : Nat
  bound : Command
  serial : Nat
  deriving DecidableEq, Repr

/-- How far a firing has come (R49, R388): a write has satisfied the compare; the command is on its way to the FIFO, where it arrives on
the cycle named; it has found the FIFO full, and the entry holds it as its one pending firing; replay holds it. -/
inductive FiringStage where
  | raised
  | flying (due : Nat)
  | pending
  | held
  deriving DecidableEq, Repr

/-- A firing that has happened and has not entered its FIFO (R48, R49): the entry and the arming it is a firing of, and its own number. -/
structure Firing where
  id : Nat
  entry : Nat
  serial : Nat
  tq : Nat
  bound : Command
  stage : FiringStage
  deriving DecidableEq, Repr

/-- Sluice, walker and Weir (R38 to R65). `firings` lists the Weir's firings, oldest first, and `weirCount` numbers armings and firings;
`spent` lists entries that have been armed and are free again (R390). -/
structure ControlPlane where
  queues : Vector SluiceQueue 16
  commands : List ActiveCmd
  nextCmd : Nat
  lastServed : List (Nat × Nat)
  job : Option WalkerJob
  requeued : List Item
  pointer : Nat
  weir : List WeirEntry
  firings : List Firing
  weirCount : Nat
  spent : List Nat
  cpool : BitVec 96
  nextGroup : Nat
  deriving DecidableEq, Repr

/-- A state of a tag that is not FREE (R260). -/
inductive TagState where
  | live | retiring
  deriving DecidableEq, Repr

/-- A request that waits for a tag (R260): a core's `tagnew`, or the walker. -/
inductive TagWaiter where
  | core (c : Nat) | walker
  deriving DecidableEq, Repr

/-- A request that has reached the allocator on this cycle (R260): its source number, and whether it may wait. -/
structure TagAsk where
  source : Nat
  waits : Bool
  deriving DecidableEq, Repr

/-- An access that goes through under a tag even if it retires meanwhile (R269): the unit of the core that makes it. -/
structure Owed where
  unit : Actor
  req : FaultReq
  deriving DecidableEq, Repr

/-- The tag allocator, the tag directory and the materialisation pools (R256 to R261); `killed` lists the tags the walker
holds back (R371), `owed` the accesses that have been translated under a tag and not been performed (R269). `granted` holds, by core, the
tag a request has been given, 0 for none. -/
structure TagUnit where
  tags : List (Nat × TagState)
  arrived : List TagAsk
  waiters : List TagWaiter
  granted : List (Nat × Tag)
  dir : List ((Nat × Nat) × Nat)
  retiredPages : List Nat
  killed : List Nat
  mpbase : Vector Word 8
  mpcnt : Vector Word 8
  used : List Nat
  owed : List Owed
  deriving DecidableEq, Repr

/-- A line of a home L2 slice (R277), with the dies that hold a copy. -/
structure L2Line where
  key : Nat
  data : BitVec 512
  dirty : Bool
  copies : BitVec 4
  deriving DecidableEq, Repr

/-- A line of the Cistern (R279). -/
structure CisternLine where
  key : Nat
  data : BitVec 512
  dirty : Bool
  owner : Tag
  dir : BitVec 4
  deriving DecidableEq, Repr

/-- An error in a protected word (R116, R367): the array (0 Cistern, 1 L2, 2 DRAM, 3 scratchpad, 4 VRF, 5 walk cache, 6 die copy), the core for its
own arrays (for the copy of a line in another die's L2, the die), the line or word, which of its data bits 0 and 1 are flipped, whether that is
uncorrectable, whether `inj` planted it, and the array in whose storage it arose: another one where a move has carried it here (R368). -/
structure ErrMark where
  place : Nat
  core : Nat
  key : Nat
  bits : BitVec 2
  double : Bool
  injected : Bool
  origin : Nat
  deriving DecidableEq, Repr

/-- A request on the calendar (R281, R282): the core whose misses it coalesces, the site, the 1 KiB block, the lines
asked for, the cycle it became ready and, once issued, the cycle of its slot and the cycle its data arrives. -/
structure CalRequest where
  core : Nat
  site : Nat
  block : Nat
  lines : List Nat
  ready : Nat
  slot : Nat
  due : Option Nat
  deriving DecidableEq, Repr

/-- Memory behind the cores: DRAM, board tier and host memory by physical address, and the shared caches. -/
structure MemorySystem where
  dram : Memory
  l2 : List L2Line
  cistern : List CisternLine
  quarantine : List (Nat × Nat × Nat)
  l2Quarantine : List Nat
  walkCache : List (Nat × XlatEntry)
  heat : Sparse 8
  marks : List ErrMark
  boardCap : Vector Nat 4
  rootLinks : BitVec 4
  requests : List CalRequest
  tiroot : Word
  tiBusy : Bool
  inFlight : List Nat
  deriving DecidableEq, Repr

/-- An outstanding page request (R355). -/
structure PageReq where
  rid : Nat
  gen : BitVec 16
  req : FaultReq
  kind : BitVec 4
  waiters : List Nat
  deriving DecidableEq, Repr

/-- A page request that waits for room, with the GTS at which its fault was taken (R355). -/
structure PageWait where
  req : FaultReq
  kind : BitVec 4
  gts : Nat
  deriving DecidableEq, Repr

/-- The page-request unit (R355): requests outstanding and requests that wait for room; `failed` lists the engines whose
request the host has declined (R356). -/
structure PageUnit where
  base : Word
  prtail : BitVec 32
  prhead : BitVec 32
  outstanding : List PageReq
  waiting : List PageWait
  gens : Sparse 16
  failed : List Nat
  logged : Bool
  deriving DecidableEq, Repr

/-- The image of a compressed page in a store (R288): where it begins, the address of the entry that named it when it was stored, and
the page it stands for. -/
structure StoredImage where
  place : Nat
  pte : Nat
  page : List Byte
  deriving DecidableEq, Repr

/-- The tier unit of a site (R288): its registers and queue, and the images in its store. -/
structure TierUnit where
  csbase : Word
  cscnt : Word
  queue : List Nat
  terr : Bool
  images : List StoredImage
  deriving DecidableEq, Repr

/-- A row-intact region register of a site (R294), the patterns recorded for its pattern rows (R301), and the site's controller
state (R292, R293). -/
structure SiteUnit where
  region : Word
  patterns : List (Nat × Word)
  joined : Bool
  failed : Bool
  activations : Sparse 32
  alerting : List RowId
  refreshes : Nat
  lastHeartbeat : Nat
  takeover : Bool
  patrol : Nat
  deriving DecidableEq, Repr

/-- A part of an ACC run that is combined with its destination in one access (R313, R339): the physical runs of the destination, the number of
elements and their wire bytes. -/
structure LandUnit where
  segs : List (Nat × Nat)
  count : Nat
  bytes : List Byte
  deriving DecidableEq, Repr

/-- A run that is landing (R339, R343): what it was, and the pieces of 16-byte granules, by physical address, or the parts of an ACC run, still
to be written. -/
structure Landing where
  msg : RunMsg
  left : List (Nat × List Byte)
  parts : List LandUnit
  deriving DecidableEq, Repr

/-- A run that is being read (R338, R343): its transfer, the granules that have been read, the GTS of its start and the ports that its slot names
(R340), and whether it waits for the service of a fault. -/
structure OutRun where
  k : Nat
  got : List (Nat × List Byte)
  slot : Nat × List Nat
  waits : Bool
  deriving DecidableEq, Repr

/-- A collective the sequencer runs (R334 to R342): its record and member table as read at acceptance, its own signature
and whether SIG differs from it, the signatures received by rank, the step it is at and the transfer to issue next, the
runs sent to each rank in this step, the acknowledgements (step, k), the runs landed (step, sender rank, k) and the ENDs
(step, rank, runs announced). `replay` is REPLAY at the command's start (R389); `runs` lists the runs being read, `left` for each rank the GTS,
in sevenths of a nanosecond, at which the last run to it will have left, `landing` the runs that are landing, and `arrived` those that have
arrived, oldest first, as (step, sender rank, k). -/
structure Collective where
  command : Nat
  queue : Nat
  root : Nat
  unit : Nat
  record : BitVec 1024
  steps : List (BitVec 1024)
  members : List Nat
  own : Word
  bad : Bool
  sigs : List (Nat × Word × Bool)
  step : Nat
  next : Nat
  sent : List (Nat × Nat)
  acked : List (Nat × Nat)
  landed : List (Nat × Nat × Nat)
  ends : List (Nat × Nat × Nat)
  replay : Bool
  runs : List OutRun
  left : List (Nat × Nat)
  landing : List Landing
  arrived : List (Nat × Nat × Nat)
  deriving DecidableEq, Repr

/-- A message the device has sent on the fabric (R333, R337, R338, R341): the ports its flits left by, the destination device and its
contents. `kind` is 1 signature, 2 run, 3 acknowledgement, 4 END, 5 LOST, 6 ABORT; step and k are those of a run or an
acknowledgement, and `hops` the ports that the slot table names for a run. -/
structure OutMsg where
  gts : Nat
  ports : List Nat
  dest : Nat
  kind : Nat
  coll : BitVec 16
  step : Nat
  k : Nat
  hops : List Nat
  body : List Byte
  deriving DecidableEq, Repr

/-- The fabric (R332, R333). `drains` is, for each port, the GTS in sevenths of a nanosecond at which the last flit queued there will
have left; `flagged` the candidates, as 4 d + i, whose out-of-range port value has been logged (R14); `ended` the COLLIDs of the collectives that
have ended here (R341). -/
structure Fabric where
  regs : Sparse 64
  portsUp : BitVec 24
  portsFailed : BitVec 24
  colls : List Collective
  outbox : List OutMsg
  forwarded : Nat
  drains : Vector Nat 24
  flagged : List Nat
  ended : List (BitVec 16)
  deriving DecidableEq, Repr

/-- An error record (R372), as its 256 bits. -/
abbrev ErrRecord := BitVec 256

/-- The order log (R385 to R390): its registers, the entries of the replay log that have been consumed, the objects that
have left replay and the requesters it holds. `recent` holds the entries written at the last GTS that gave any, the last ones in the
buffer (R386). -/
structure OrderLog where
  base : Word
  tail : BitVec 32
  replayBase : Word
  replayCount : BitVec 32
  replay : Bool
  weir : Bool
  ovf : Bool
  diverged : Bool
  recent : List (BitVec 128)
  consumed : List Nat
  left : List (Nat × Nat)
  waiting : List HeldChoice
  deriving DecidableEq, Repr

/-- The stages of R395. -/
inductive Stage where
  | stage0 | stage1 | stage2
  deriving DecidableEq, Repr

/-- The management plane (R394 to R400); `flash` lists the pages that have been added to the retirement list since the
device came up (R371). -/
structure Management where
  stage : Stage
  regs : Sparse 64
  flash : List Nat
  internalLog : List ErrRecord
  interrupts : List Nat
  idle : Nat
  idleSince : Nat
  tol : BitVec 32
  powerLimit : Nat
  limitHertz : Nat
  reports : List (Nat × List Byte)
  rasMode : BitVec 96
  deriving DecidableEq, Repr

/-- The clock: core cycles, the cycle of entry to stage 1 (R281), GTS (R6), the part of a nanosecond not yet counted and the
clock in force (R8). -/
structure Clock where
  cycle : Nat
  calZero : Nat
  gts : Nat
  frac : Nat
  hertz : Nat
  deriving DecidableEq, Repr

/-- What the next call of `exec` speaks for: a core and its unit, a site, a Sluice queue, a fabric or root port, a
block-transfer channel, a Weir entry, a collective. -/
structure Focus where
  core : Fin 96
  actor : Actor
  site : Fin 8
  queue : Fin 16
  port : Fin 24
  chan : Fin 16
  entry : Fin 64
  coll : BitVec 16
  deriving DecidableEq, Repr

/-- An event that waits for its cycle. -/
structure Pending where
  due : Nat
  focus : Focus
  instr : Instr
  deriving DecidableEq, Repr

/-- One package. `focus` says which unit the next call of `exec` speaks for; `held` says that it could not proceed and
changed nothing; `blocked` that what it did would reach memory at a site that has not joined, or a row that takes no activation, so that the step
takes it back (R293, R397); `routed` that a sequencer has begun a word in the present cycle (R69); `agenda` holds the events to come, among them
what the outside world does; `free` counts the free values used. These six are the model's own. -/
structure State where
  cores : Vector Core 96
  focus : Focus
  held : Bool
  blocked : Bool
  routed : Bool
  free : Nat
  agenda : List Pending
  clock : Clock
  control : ControlPlane
  tags : TagUnit
  mem : MemorySystem
  pages : PageUnit
  tiers : Vector TierUnit 8
  sites : Vector SiteUnit 8
  fabric : Fabric
  order : OrderLog
  mgmt : Management
  deriving DecidableEq, Repr

/-- Why the machine stops with a fault. -/
inductive Fault where
  /-- Raised by `agentAccess` when an agent outside the cores names an address beyond the physical map of R273 and the host memory
  that is kept behind it, which does not exist. Safe: no such access can be made. -/
  | noSuchAddress
  deriving DecidableEq, Repr

/-- Why an instruction is refused. -/
inductive Refusal where
  /-- Raised only by an arm of `exec` for an instruction that has no meaning yet. Safe. -/
  | notModelled (mnemonic : String)
  deriving DecidableEq, Repr

/-! ### The state after reset (R10, R54, R396) -/

def Tokens.zero : Tokens := ⟨0, 0, 0, 0, [], []⟩

def LoopLevel.zero : LoopLevel := ⟨0, 0, 0⟩

def SeqLevel.empty : SeqLevel := { loops := Vector.replicate 4 LoopLevel.zero, ldepth := 0, rs := [] }

def Bank.empty : Bank := { resq := Vector.replicate 16 0, loads := [], tok := Tokens.zero }

def Port.unset : Port := { set := false, desc := 0, index := 0, slot := none }

def CircBuf.unset : CircBuf := { set := false, desc := 0, filled := 0, free := 0, pptr := 0, cptr := 0 }

def Clause.empty : Clause := { buf := 0, valid := false, tmpl := 0 }

def FactorRegs.zero : FactorRegs := ⟨0, 0, 0, 0, 0, 0⟩

def TrapRegs.zero : TrapRegs := ⟨0, 0, 0, 0, 0⟩

def SysRegs.zero : SysRegs := ⟨0, 0, 0, 0, 0, 0, 0⟩

def CoreArrays.empty : CoreArrays :=
  { imem := [], vrf := [], sp := [], acc0 := [], acc1 := [], feedA := [], feedB := [], templates := [], tvalid := 0,
    livemaps := [] }

def CoreCaches.empty : CoreCaches := { l1 := [], ro := [], tlb := [], stores := [] }

def CoreQueues.empty : CoreQueues :=
  { lq := [], cq := [], sq := [], windows := [], guarded := [], unplaced := [], parkL := [], parkC := [], parkS := [], order := 0,
    sqDone := 0, lqKnows := 0, lqSeen := 0, cqKnows := 0, released := [] }

def SeqState.zero : SeqState :=
  { mode := .run, ready := 0, waiting := false, start := 0, frozen := 0, wired := false, trap := none }

def UnitTimes.zero : UnitTimes := ⟨0, 0, 0, 0, 0, 0, 0⟩

/-- A core after reset: no item, every register zero. -/
def Core.reset : Core :=
  { status := .idle, item := none, image := none, resident := none, lastOwner := none, lstat := 0, pc := 0,
    sregs := Vector.replicate 32 0, aregs := Vector.replicate 16 0, bank0 := Bank.empty, bank1 := Bank.empty,
    level0 := SeqLevel.empty, level1 := SeqLevel.empty, tl := false, chk := false, clause := Clause.empty,
    trapRegs := TrapRegs.zero, factor := FactorRegs.zero, sys := SysRegs.zero, seq := SeqState.zero,
    queues := CoreQueues.empty, ports := Vector.replicate 8 Port.unset, bufs := Vector.replicate 16 CircBuf.unset,
    bindings := [], arrays := CoreArrays.empty, caches := CoreCaches.empty, units := UnitTimes.zero, faults := [],
    channels := [], overwritten := [], rows := [], rowFifo := [], phase := none, cancels := (0, 0), fills := [], refetch := [], damage := [], prq := false,
    irq := false, prqSince := 0, mailbox := 0 }

def SluiceQueue.reset : SluiceQueue :=
  { base := 0, ctl := 0, root := 0, head := 0, tail := 0, qdone := 0, error := false, errcode := 0, fired := [],
    headSince := 0, aged := 0, starting := none, flagged := false }

def ControlPlane.reset : ControlPlane :=
  { queues := Vector.replicate 16 SluiceQueue.reset, commands := [], nextCmd := 0, lastServed := [], job := none,
    requeued := [], pointer := 0, weir := [], firings := [], weirCount := 0, spent := [], cpool := BitVec.allOnes 96, nextGroup := 0 }

def TagUnit.reset : TagUnit :=
  { tags := [], arrived := [], waiters := [], granted := [], dir := [], retiredPages := [], killed := [], mpbase := Vector.replicate 8 0,
    mpcnt := Vector.replicate 8 0, used := [], owed := [] }

def MemorySystem.reset : MemorySystem :=
  { dram := [], l2 := [], cistern := [], quarantine := [], l2Quarantine := [], walkCache := [], heat := [], marks := [],
    boardCap := Vector.replicate 4 0, rootLinks := 0, requests := [], tiroot := 0, tiBusy := false,
    inFlight := [] }

def PageUnit.reset : PageUnit :=
  { base := 0, prtail := 0, prhead := 0, outstanding := [], waiting := [], gens := [], failed := [],
    logged := false }

def TierUnit.reset : TierUnit := { csbase := 0, cscnt := 0, queue := [], terr := false, images := [] }

def SiteUnit.reset : SiteUnit :=
  { region := 0, patterns := [], joined := false, failed := false, activations := [], alerting := [], refreshes := 0, lastHeartbeat := 0,
    takeover := false, patrol := 0 }

def Fabric.reset : Fabric :=
  { regs := if blobDevId = 0 then [] else [(0x32000, blobDevId.zeroExtend 64)], portsUp := 0, portsFailed := 0, colls := [], outbox := [],
    forwarded := 0, drains := Vector.replicate 24 0, flagged := [], ended := [] }

def OrderLog.reset : OrderLog :=
  { base := 0, tail := 0, replayBase := 0, replayCount := 0, replay := false, weir := false, ovf := false,
    diverged := false, recent := [], consumed := [], left := [], waiting := [] }

/-- The management plane at reset. The power limit in force until the first one is set is the greatest that R8 allows, 8,000 W, and it cuts no
clock: no rule gives it (DESIGN CHOICE, log entry 29). -/
def Management.reset : Management :=
  { stage := .stage0, regs := [], flash := [], internalLog := [], interrupts := [], idle := 0,
    idleSince := 0, tol := 0, powerLimit := 8000000, limitHertz := Config.fullClock, reports := [], rasMode := 0 }

/-- The clock at reset: that of stage 0, for which no rule gives one (DESIGN CHOICE, log entry 29). -/
def Clock.reset : Clock := { cycle := 0, calZero := 0, gts := 0, frac := 0, hertz := Config.fullClock / 2 }

def Focus.zero : Focus :=
  { core := 0, actor := .seq, site := 0, queue := 0, port := 0, chan := 0, entry := 0, coll := 0 }

/-- The machine right after reset: stage 0, every core idle, memory with nothing listed. -/
def State.reset : State :=
  { cores := Vector.replicate 96 Core.reset, focus := Focus.zero, held := false, blocked := false, routed := false, free := 0, agenda := [],
    clock := Clock.reset, control := ControlPlane.reset, tags := TagUnit.reset, mem := MemorySystem.reset,
    pages := PageUnit.reset, tiers := Vector.replicate 8 TierUnit.reset, sites := Vector.replicate 8 SiteUnit.reset,
    fabric := Fabric.reset, order := OrderLog.reset, mgmt := Management.reset }

end Sys2Proof.Machine
end

