-- ==== Sys2Proof/Machine/Mem.lean ====
section
/-! DEFINITION. The named operations over sparse stores in their canonical form, and the readings of bits as numbers
(R9, R10). -/

namespace Sys2Proof.Machine

/-- The value at a key: 0 where nothing is listed. -/
def peek {w : Nat} : Sparse w → Nat → BitVec w
  | [], _ => 0
  | (a, v) :: t, k => if k < a then 0 else if k = a then v else peek t k

/-- Writes one value; writing 0 removes the entry. -/
def poke {w : Nat} : Sparse w → Nat → BitVec w → Sparse w
  | [], k, v => if v = 0 then [] else [(k, v)]
  | (a, x) :: t, k, v =>
    if k < a then (if v = 0 then (a, x) :: t else (k, v) :: (a, x) :: t)
    else if k = a then (if v = 0 then t else (k, v) :: t)
    else (a, x) :: poke t k v

/-- The entries from key `k` on. -/
def dropTo {w : Nat} : Sparse w → Nat → Sparse w
  | [], _ => []
  | (a, v) :: t, k => if k ≤ a then (a, v) :: t else dropTo t k

/-- The entries below key `k`. -/
def keepBelow {w : Nat} : Sparse w → Nat → Sparse w
  | [], _ => []
  | (a, v) :: t, k => if k ≤ a then [] else (a, v) :: keepBelow t k

/-- The `n` values from key `k` on, in a list that starts at or above `k`. -/
def scan {w : Nat} : Nat → Nat → Sparse w → List (BitVec w)
  | 0, _, _ => []
  | n + 1, k, [] => 0 :: scan n (k + 1) []
  | n + 1, k, (a, v) :: t => if a = k then v :: scan n (k + 1) t else 0 :: scan n (k + 1) ((a, v) :: t)

/-- The `n` values from key `k` on. -/
def peekN {w : Nat} (m : Sparse w) (k n : Nat) : List (BitVec w) := scan n k (dropTo m k)

/-- The entries that a run of values from key `k` on stands for. -/
def entries {w : Nat} : Nat → List (BitVec w) → Sparse w
  | _, [] => []
  | k, v :: vs => if v = 0 then entries (k + 1) vs else (k, v) :: entries (k + 1) vs

/-- Writes a run of values from key `k` on. -/
def pokeN {w : Nat} (m : Sparse w) (k : Nat) (vs : List (BitVec w)) : Sparse w :=
  keepBelow m k ++ entries k vs ++ dropTo m (k + vs.length)

/-- Keys strictly rising from a bound, and no entry zero. -/
def Sparse.wfFrom {w : Nat} : Nat → Sparse w → Bool
  | _, [] => true
  | b, (a, v) :: t => decide (b ≤ a) && v != 0 && Sparse.wfFrom (a + 1) t

/-- The canonical form of a sparse store. -/
def Sparse.wf {w : Nat} (m : Sparse w) : Bool := Sparse.wfFrom 0 m

/-- The canonical form of a byte store. -/
def Memory.wf (m : Memory) : Bool := Sparse.wf (w := 8) m

/-- The bits `lo` and up of a vector, `n` of them, as a number. -/
def bitsAt {w : Nat} (x : BitVec w) (lo n : Nat) : Nat := (x.toNat >>> lo) % 2 ^ n

/-- A vector with `n` bits from `lo` on replaced. -/
def putBits {w : Nat} (x : BitVec w) (lo n v : Nat) : BitVec w :=
  BitVec.ofNat w (x.toNat - (bitsAt x lo n <<< lo) + ((v % 2 ^ n) <<< lo))

/-- The bytes of a vector, least significant first. -/
def vecBytes {w : Nat} (x : BitVec w) : List Byte := leBytes (w / 8) x.toNat

/-- The value of a key in a list of pairs. -/
def lookupD {α : Type} (d : α) : List (Nat × α) → Nat → α
  | [], _ => d
  | (a, v) :: t, k => if a = k then v else lookupD d t k

/-- Replaces or adds the value of a key; keys stay in rising order. -/
def assign {α : Type} : List (Nat × α) → Nat → α → List (Nat × α)
  | [], k, v => [(k, v)]
  | (a, x) :: t, k, v => if k < a then (k, v) :: (a, x) :: t else if k = a then (k, v) :: t else (a, x) :: assign t k v

/-- Removes a key. -/
def unassign {α : Type} : List (Nat × α) → Nat → List (Nat × α)
  | [], _ => []
  | (a, x) :: t, k => if a = k then t else (a, x) :: unassign t k

end Sys2Proof.Machine
end

