-- ==== Sys2Proof/Machine/Num.lean ====
section
/-! DEFINITION. Number formats, rounding and exact arithmetic (R117 to R131): every value is decoded to an exact dyadic
number, computed with exactly, and rounded once. -/

namespace Sys2Proof.Machine

/-- An exact value: NaN, an infinity, or ± m × 2^e; a zero keeps its sign. -/
inductive Num where
  | nan
  | inf (neg : Bool)
  | fin (neg : Bool) (m : Nat) (e : Int)
  deriving DecidableEq, Repr

/-- A floating-point format (R118): exponent and fraction widths, bias, and whether it has infinities. -/
structure FFmt where
  eb : Nat
  fb : Nat
  bias : Nat
  hasInf : Bool
  deriving DecidableEq, Repr

def fp32 : FFmt := ⟨8, 23, 127, true⟩
def bf16 : FFmt := ⟨8, 7, 127, true⟩
def fp16 : FFmt := ⟨5, 10, 15, true⟩
def e4m3 : FFmt := ⟨4, 3, 7, false⟩
def e5m2 : FFmt := ⟨5, 2, 15, true⟩
def xf40 : FFmt := ⟨11, 28, 1023, true⟩

/-- The precision of R118. -/
def FFmt.p (f : FFmt) : Nat := f.fb + 1

/-- The exponent of the smallest subnormal. -/
def FFmt.qmin (f : FFmt) : Int := 1 - (f.bias : Int) - f.fb

/-- The width of an encoding. -/
def FFmt.width (f : FFmt) : Nat := 1 + f.eb + f.fb

/-- The exponent of the grid on which the largest finite values lie. -/
def FFmt.qmax (f : FFmt) : Int :=
  (if f.hasInf then (2 ^ f.eb : Nat) - 2 else (2 ^ f.eb : Nat) - 1 : Int) - f.bias - f.fb

/-- The largest finite magnitude in units of `qmax` (R118, R128). -/
def FFmt.maxUnits (f : FFmt) : Nat := if f.hasInf then 2 ^ f.p - 1 else 2 ^ f.p - 2

/-- The canonical NaN (R119). -/
def FFmt.nanBits (f : FFmt) : Nat :=
  if f.hasInf then (2 ^ f.eb - 1) * 2 ^ f.fb + 2 ^ (f.fb - 1) else 2 ^ (f.eb + f.fb) - 1

/-- The encoding of a finite magnitude of `m` units of 2^q, where the number lies on the format's grid. -/
def FFmt.encFin (f : FFmt) (neg : Bool) (m : Nat) (q : Int) : Nat :=
  let s := natOfBool neg * 2 ^ (f.eb + f.fb)
  if m < 2 ^ f.fb then s + m
  else if m < 2 ^ f.p then s + (q + f.fb + f.bias).toNat * 2 ^ f.fb + (m - 2 ^ f.fb)
  else s + (q + 1 + f.fb + f.bias).toNat * 2 ^ f.fb + (m / 2 - 2 ^ f.fb)

/-- The encoding of an infinity. -/
def FFmt.infBits (f : FFmt) (neg : Bool) : Nat :=
  natOfBool neg * 2 ^ (f.eb + f.fb) + (2 ^ f.eb - 1) * 2 ^ f.fb

/-- The encoding of the largest finite value. -/
def FFmt.maxBits (f : FFmt) (neg : Bool) : Nat := f.encFin neg f.maxUnits f.qmax

/-- Decodes an encoding exactly (R118). -/
def FFmt.decode (f : FFmt) (x : Nat) : Num :=
  let neg := bitOf x (f.eb + f.fb)
  let e := bitsOf x (f.eb + f.fb - 1) f.fb
  let m := x % 2 ^ f.fb
  if e = 0 then .fin neg m f.qmin
  else if e = 2 ^ f.eb - 1 ∧ f.hasInf then (if m = 0 then .inf neg else .nan)
  else if e = 2 ^ f.eb - 1 ∧ m = 2 ^ f.fb - 1 then .nan
  else .fin neg (2 ^ f.fb + m) ((e : Int) - f.bias - f.fb)

/-! ### Exact arithmetic -/

/-- ± m × 2^e as an integer number of units 2^q, for q ≤ e. -/
def unitsOf (neg : Bool) (m : Nat) (e q : Int) : Int :=
  let v : Int := (m * 2 ^ (e - q).toNat : Nat)
  if neg then -v else v

/-- An integer number of units 2^q as a number; a zero takes the sign given. -/
def numOfUnits (zeroNeg : Bool) (v q : Int) : Num :=
  if v = 0 then .fin zeroNeg 0 q else .fin (decide (v < 0)) v.natAbs q

/-- The exact sum (R131, R150): an exact zero of operands of opposite sign is +0, or −0 under RDN. -/
def Num.add (rdn : Bool) : Num → Num → Num
  | .nan, _ => .nan
  | _, .nan => .nan
  | .inf a, .inf b => if a = b then .inf a else .nan
  | .inf a, .fin .. => .inf a
  | .fin .., .inf b => .inf b
  | .fin na ma ea, .fin nb mb eb =>
    let q := if ea ≤ eb then ea else eb
    numOfUnits (if na = nb then na else rdn) (unitsOf na ma ea q + unitsOf nb mb eb q) q

/-- The negation. -/
def Num.neg : Num → Num
  | .nan => .nan
  | .inf s => .inf (!s)
  | .fin s m e => .fin (!s) m e

/-- The magnitude. -/
def Num.abs : Num → Num
  | .nan => .nan
  | .inf _ => .inf false
  | .fin _ m e => .fin false m e

/-- The exact product: 0 × ∞ is NaN. -/
def Num.mul : Num → Num → Num
  | .nan, _ => .nan
  | _, .nan => .nan
  | .inf a, .inf b => .inf (a != b)
  | .inf a, .fin b m _ => if m = 0 then .nan else .inf (a != b)
  | .fin a m _, .inf b => if m = 0 then .nan else .inf (a != b)
  | .fin a ma ea, .fin b mb eb => .fin (a != b) (ma * mb) (ea + eb)

def Num.isNaN : Num → Bool
  | .nan => true
  | _ => false

def Num.isZero : Num → Bool
  | .fin _ m _ => m == 0
  | _ => false

def Num.isInf : Num → Bool
  | .inf _ => true
  | _ => false

def Num.negative : Num → Bool
  | .nan => false
  | .inf s => s
  | .fin s _ _ => s

/-- Numerical order of two values that are not NaN; the zeros are equal. -/
def Num.lt : Num → Num → Bool
  | .inf a, .inf b => a && !b
  | .inf a, .fin .. => a
  | .fin .., .inf b => !b
  | .fin na ma ea, .fin nb mb eb =>
    let q := if ea ≤ eb then ea else eb
    decide (unitsOf na ma ea q < unitsOf nb mb eb q)
  | _, _ => false

def Num.eqv (a b : Num) : Bool := !a.isNaN && !b.isNaN && !a.lt b && !b.lt a

/-- The smaller, with −0 < +0; one NaN gives the other (R102, R149). -/
def Num.min (a b : Num) : Num :=
  if a.isNaN then b else if b.isNaN then a
  else if a.lt b then a else if b.lt a then b else if a.negative then a else b

/-- The larger, with the same rules. -/
def Num.max (a b : Num) : Num :=
  if a.isNaN then b else if b.isNaN then a
  else if a.lt b then b else if b.lt a then a else if a.negative then b else a

/-- The exact quotient of finite magnitudes to at least 80 significant bits, its last bit standing for all that is cut off:
no representable value nor midpoint of a format of this spec lies between the result and the quotient. -/
def quotient (ma : Nat) (ea : Int) (mb : Nat) (eb : Int) : Nat × Int :=
  let sh := 80 + mb.log2
  let q := (ma <<< sh) / mb
  let r := (ma <<< sh) % mb
  (2 * q + (if r = 0 then 0 else 1), ea - eb - sh - 1)

/-- Division (R102): x / 0 and 0 / 0 are left to the caller's flags. -/
def Num.div : Num → Num → Num
  | .nan, _ => .nan
  | _, .nan => .nan
  | .inf _, .inf _ => .nan
  | .inf a, .fin b _ _ => .inf (a != b)
  | .fin a _ e, .inf b => .fin (a != b) 0 e
  | .fin a ma ea, .fin b mb eb =>
    if mb = 0 then (if ma = 0 then .nan else .inf (a != b))
    else .fin (a != b) (quotient ma ea mb eb).1 (quotient ma ea mb eb).2

/-- The integer square root by bits from `k` down. -/
def isqrtFrom (n : Nat) : Nat → Nat → Nat
  | 0, r => r
  | k + 1, r => isqrtFrom n k (if (r + 2 ^ k) * (r + 2 ^ k) ≤ n then r + 2 ^ k else r)

def isqrt (n : Nat) : Nat := isqrtFrom n (n.log2 / 2 + 1) 0

/-- The square root of a magnitude to at least 40 significant bits, its last bit standing for all that is cut off. -/
def rootOf (m : Nat) (e : Int) : Nat × Int :=
  let sh := if (e - 160) % 2 = 0 then 160 else 161
  let n := m <<< sh
  let r := isqrt n
  (2 * r + (if r * r = n then 0 else 1), (e - sh) / 2 - 1)

/-- √x, with √(−0) = −0 and NaN below zero. -/
def Num.sqrt : Num → Num
  | .nan => .nan
  | .inf s => if s then .nan else .inf false
  | .fin s m e =>
    if m = 0 then .fin s 0 e else if s then .nan else .fin false (rootOf m e).1 (rootOf m e).2

/-! ### Rounding (R126 to R128) -/

/-- The codes of R126. -/
def rcRNE : Nat := 0
def rcRTZ : Nat := 1
def rcRUP : Nat := 2
def rcRDN : Nat := 3
def rcRNA : Nat := 4
def rcODD : Nat := 5
def rcSR : Nat := 6

/-- Whether a magnitude `lo + r/d` (0 < r < d) goes up to the next grid value; `odd` is bit 0 of lo's encoding; `u` of `n`
bits serves SR (R126, R127). -/
def goesUp (rc : Nat) (neg odd : Bool) (r d u n : Nat) : Bool :=
  match rc with
  | 0 => decide (d < 2 * r) || (decide (2 * r = d) && odd)
  | 1 => false
  | 2 => !neg
  | 3 => neg
  | 4 => decide (d ≤ 2 * r)
  | 5 => !odd
  | 6 => decide (d * 2 ^ n ≤ r * 2 ^ n + u * d)
  | _ => false

/-- Whether a magnitude at or above "beyond" overflows (R128), or stays at the largest finite value. SR overflows whatever u is, as R128 lists
it, though R151 says that SR with u = 0 rounds as RTZ (DESIGN CHOICE, log entry 54). -/
def beyondUp (rc : Nat) (neg : Bool) : Bool :=
  match rc with
  | 1 => false
  | 2 => !neg
  | 3 => neg
  | _ => true

/-- What a rounding gives: a number on the grid (m units of 2^q) or an overflow. -/
inductive Rounded where
  | nan
  | inf (neg : Bool)
  | over (neg : Bool)
  | fin (neg : Bool) (m : Nat) (q : Int)
  deriving DecidableEq, Repr

/-- A magnitude m × 2^e (m > 0) on the grid 2^q: whole units, rest, and the rest's denominator. -/
def onGrid (m : Nat) (e q : Int) : Nat × Nat × Nat :=
  if q ≤ e then (m * 2 ^ (e - q).toNat, 0, 1)
  else (m / 2 ^ (q - e).toNat, m % 2 ^ (q - e).toNat, 2 ^ (q - e).toNat)

/-- Round (R31, R126, R128), before saturation. -/
def FFmt.round (f : FFmt) (rc u n : Nat) : Num → Rounded
  | .nan => .nan
  | .inf s => .inf s
  | .fin s m e =>
    if m = 0 then .fin s 0 f.qmin
    else
      let top : Int := (m.log2 : Int) + e - f.fb
      let q := if top < f.qmin then f.qmin else top
      let g := onGrid m e q
      if f.qmax < q ∨ (q = f.qmax ∧ f.maxUnits + 1 ≤ g.1) then
        (if beyondUp rc s then .over s else .fin s f.maxUnits f.qmax)
      else
        let k := if g.2.1 ≠ 0 ∧ goesUp rc s (g.1 % 2 == 1) g.2.1 g.2.2 u n then g.1 + 1 else g.1
        if q = f.qmax ∧ f.maxUnits + 1 ≤ k then .over s else .fin s k q

/-- Saturate (R31, R128) and the encoding of the outcome. -/
def FFmt.encode (f : FFmt) (sat : Bool) : Rounded → Nat
  | .nan => f.nanBits
  | .inf s => if sat then f.maxBits s else if f.hasInf then f.infBits s else f.nanBits
  | .over s => if sat then f.maxBits s else if f.hasInf then f.infBits s else f.nanBits
  | .fin s m q => f.encFin s m q

/-- Rounds and encodes. -/
def FFmt.put (f : FFmt) (rc u n : Nat) (sat : Bool) (x : Num) : Nat := f.encode sat (f.round rc u n x)

/-- The value a rounding stands for. -/
def Rounded.num : Rounded → Num
  | .nan => .nan
  | .inf s => .inf s
  | .over s => .inf s
  | .fin s m q => .fin s m q

/-- RoundToOdd to XF40 of an exact value, as a value (R131). -/
def toXf40 (x : Num) : Num := (xf40.round rcODD 0 0 x).num

/-- The integer a value rounds to under a code (R126); NaN and the infinities give none. -/
def roundInt (rc u n : Nat) : Num → Option Int
  | .nan => none
  | .inf _ => none
  | .fin s m e =>
    let g := onGrid m e 0
    let k := if g.2.1 ≠ 0 ∧ goesUp rc s (g.1 % 2 == 1) g.2.1 g.2.2 u n then g.1 + 1 else g.1
    some (if s then -(k : Int) else k)

/-- Clamps into lo … hi. -/
def clampInt (lo hi x : Int) : Int := if x < lo then lo else if hi < x then hi else x

/-- The integer formats of R121: width and signedness. -/
structure IFmt where
  width : Nat
  signed : Bool
  deriving DecidableEq, Repr

def IFmt.lo (f : IFmt) : Int := if f.signed then -((2 ^ (f.width - 1) : Nat) : Int) else 0
def IFmt.hi (f : IFmt) : Int := (if f.signed then (2 ^ (f.width - 1) : Nat) else (2 ^ f.width : Nat) : Int) - 1

def IFmt.decode (f : IFmt) (x : Nat) : Int := if f.signed then signedOf f.width x else ((x % 2 ^ f.width : Nat) : Int)

/-- Integer arithmetic into a format (R129). -/
def IFmt.put (f : IFmt) (sat : Bool) (x : Int) : Nat :=
  wrapNat f.width (if sat then clampInt f.lo f.hi x else x)

/-- A conversion into an integer format (R129): always clamped; NaN gives 0 and an infinity its side's end. -/
def IFmt.convert (f : IFmt) (rc u n : Nat) (x : Num) : Nat :=
  match x with
  | .nan => 0
  | .inf s => wrapNat f.width (if s then f.lo else f.hi)
  | x => match roundInt rc u n x with
    | some k => wrapNat f.width (clampInt f.lo f.hi k)
    | none => 0

/-- The exact value of an integer. -/
def numOfInt (x : Int) : Num := .fin (decide (x < 0)) x.natAbs 0

/-! ### Element formats by code (R117) -/

inductive Elem where
  | flt (f : FFmt)
  | int (f : IFmt)
  | q4
  deriving DecidableEq, Repr

/-- The format of a code (R117); codes above 10 are reserved. -/
def elemOf (code : Nat) : Option Elem :=
  match code with
  | 0 => some (.flt fp32)
  | 1 => some (.flt bf16)
  | 2 => some (.flt fp16)
  | 3 => some (.flt e4m3)
  | 4 => some (.flt e5m2)
  | 5 => some .q4
  | 6 => some (.int ⟨32, true⟩)
  | 7 => some (.int ⟨16, true⟩)
  | 8 => some (.int ⟨8, true⟩)
  | 9 => some (.int ⟨8, false⟩)
  | 10 => some (.int ⟨32, false⟩)
  | _ => none

/-- The bits of an element. -/
def Elem.width : Elem → Nat
  | .flt f => f.width
  | .int f => f.width
  | .q4 => 4

/-- The exact value of a lane. -/
def Elem.value : Elem → Nat → Num
  | .flt f, x => f.decode x
  | .int f, x => numOfInt (f.decode x)
  | .q4, _ => .fin false 0 0

/-- The random bits SR uses for a destination (R127). -/
def Elem.srBits : Elem → Nat
  | .flt f => if f.width = 8 then 8 else 16
  | .int _ => 8
  | .q4 => 8

/-! ### Q4 (R122, R123) -/

/-- The magnitudes of a type, in eighths, by code [2:0]. -/
def q4Mag : Nat → List Nat
  | 1 => [0, 4, 8, 12, 16, 24, 32, 48]
  | 2 => [0, 1, 2, 4, 8, 16, 32, 64]
  | 3 => [0, 8, 16, 24, 32, 48, 64, 96]
  | _ => [0, 8, 16, 24, 32, 40, 48, 56]

/-- The value of a code under a scale byte (R122). -/
def q4Value (scale code : Nat) : Num :=
  if scale % 64 = 63 then .nan
  else
    let e : Int := (scale % 64 : Nat) - 31
    if scale / 64 % 4 = 0 then
      let v := signedOf 4 code
      .fin (decide (v < 0)) v.natAbs e
    else .fin (bitOf code 3) ((q4Mag (scale / 64 % 4)).getD (code % 8) 0) (e - 3)

/-- The magnitudes of a type in eighths for one sign, with 8 for a negative uniform integer (R126). -/
def q4Grid (type : Nat) (neg : Bool) : List Nat :=
  if type = 0 ∧ neg then q4Mag 0 ++ [64] else q4Mag type

/-- The code index a magnitude rounds to, in a rising grid of eighths: the value is m × 2^e eighths. -/
def q4Index (rc u : Nat) (neg : Bool) (m : Nat) (e : Int) : Nat → List Nat → Nat
  | i, [] => i - 1
  | i, [_] => i
  | i, a :: b :: rest =>
    let q : Int := if e < 0 then e else 0
    let x : Int := unitsOf false m e q
    let lo : Int := unitsOf false a 0 q
    let hi : Int := unitsOf false b 0 q
    if x = lo then i
    else if x < hi then
      (if goesUp rc neg (i % 2 == 1) (x - lo).toNat (hi - lo).toNat u 8 then i + 1 else i)
    else q4Index rc u neg m e (i + 1) (b :: rest)

/-- The code of a value under a type and block exponent: one rounding among the type's magnitudes, clamped to the largest
of its sign (R126, R128, R159). -/
def q4Code (type e rc u : Nat) (x : Num) : Nat :=
  let top (s : Bool) : Nat := if type = 0 then (if s then 8 else 7) else natOfBool s * 8 + 7
  match x with
  | .nan => 0
  | .inf s => top s
  | .fin s m ex =>
    let i := q4Index rc u s m (ex - ((e : Int) - 31) + 3) 0 (q4Grid type s)
    if type = 0 then (if s then (16 - i) % 16 else i) else natOfBool s * 8 + i

/-! ### Transcendental functions (R149): the value is enclosed between two dyadic numbers and the enclosure is narrowed
until both ends round to one value -/

/-- Σ 1/(k 2^k), which is ln 2, in units of 2^−P: `k` runs from 1 on. -/
def ln2Sum (pr : Nat) : Nat → Nat → Nat
  | 0, acc => acc
  | n + 1, acc => ln2Sum pr n (acc + (2 ^ pr / 2 ^ (n + 1)) / (n + 1))

/-- ln 2 in units of 2^−P. -/
def ln2Fix (pr : Nat) : Nat := ln2Sum pr (pr + 2) 0

/-- Σ y^k/k! from the term `t` at `k`, in units of 2^−P. -/
def expSum (pr y : Nat) : Nat → Nat → Nat → Nat → Nat
  | 0, _, _, acc => acc
  | n + 1, k, t, acc => expSum pr y n (k + 1) (t * y / 2 ^ pr / k) (acc + t * y / 2 ^ pr / k)

/-- e^y for 0 ≤ y < 1, in units of 2^−P. -/
def expFix (pr y : Nat) : Nat := expSum pr y (pr / 2 + 40) 1 (2 ^ pr) (2 ^ pr)

/-- Σ z^(2i+1)/(2i+1) in units of 2^−P. -/
def atanhSum (pr z2 : Nat) : Nat → Nat → Nat → Nat → Nat
  | 0, _, _, acc => acc
  | n + 1, k, t, acc => atanhSum pr z2 n (k + 2) (t * z2 / 2 ^ pr) (acc + t / k)

/-- ln(a/b) for b ≤ a < 2b, in units of 2^−P. -/
def lnFix (pr a b : Nat) : Nat :=
  let z := (a - b) * 2 ^ pr / (a + b)
  2 * atanhSum pr (z * z / 2 ^ pr) (pr / 3 + 10) 1 z 0

/-- How far, in units of 2^−P, the sums above may lie from their values. -/
def slack (pr : Nat) : Nat := 64 * pr + 4096

/-- An enclosure: a sign and two magnitudes in units of 2^e. -/
structure Encl where
  neg : Bool
  lo : Nat
  hi : Nat
  e : Int
  deriving DecidableEq, Repr

/-- 2^x for finite x. -/
def exp2Encl (pr : Nat) (neg : Bool) (m : Nat) (e : Int) : Encl :=
  -- x in units of 2^−P, rounded down, with n its whole part
  let v : Int := if 0 ≤ e then unitsOf neg m e (-(pr : Int)) else
    (if neg then -(((m <<< pr) / 2 ^ (-e).toNat + 1 : Nat) : Int) else ((m <<< pr) / 2 ^ (-e).toNat : Nat))
  let n := v.fdiv (2 ^ pr : Nat)
  let f := (v - n * (2 ^ pr : Nat)).toNat
  let y := f * ln2Fix pr / 2 ^ pr
  let r := expFix pr y
  ⟨false, r - slack pr, r + slack pr, n - pr⟩

/-- log₂ x for x = m × 2^e, m > 0. -/
def log2Encl (pr : Nat) (m : Nat) (e : Int) : Encl :=
  let k := m.log2
  let l := lnFix pr m (2 ^ k)
  let fr := l * 2 ^ pr / ln2Fix pr
  let v : Int := ((k : Int) + e) * (2 ^ pr : Nat) + fr
  let w := v.natAbs
  ⟨decide (v < 0), w - slack pr, w + slack pr, -(pr : Int)⟩

/-- tanh |x| for |x| < 32. -/
def tanhEncl (pr : Nat) (neg : Bool) (m : Nat) (e : Int) : Encl :=
  let a := if 0 ≤ e then (m * 2 ^ e.toNat) <<< pr else (m <<< pr) / 2 ^ (-e).toNat
  let w := 2 * a * 2 ^ pr / ln2Fix pr
  let n := w / 2 ^ pr
  let y := (w % 2 ^ pr) * ln2Fix pr / 2 ^ pr
  let E := (2 ^ pr * 2 ^ pr / expFix pr y) / 2 ^ n
  let t := (2 ^ pr - E) * 2 ^ pr / (2 ^ pr + E)
  ⟨neg, t - 64 * slack pr, t + 64 * slack pr, -(pr : Int)⟩

/-- Rounds an enclosure: the encoding both ends give, if they give one, and no end is zero. -/
def Encl.settle (k : Encl) (f : FFmt) (rc : Nat) (sat : Bool) : Option Nat :=
  if k.lo = 0 then none
  else
    let a := f.put rc 0 16 sat (.fin k.neg k.lo k.e)
    let b := f.put rc 0 16 sat (.fin k.neg k.hi k.e)
    if a = b then some a else none

/-- The first of the precisions at which an enclosure settles. -/
def settleAt (enc : Nat → Encl) (f : FFmt) (rc : Nat) (sat : Bool) (dflt : Nat) : List Nat → Nat
  | [] => dflt
  | pr :: rest => match (enc pr).settle f rc sat with
    | some v => v
    | none => settleAt enc f rc sat dflt rest

/-- The precisions tried. -/
def precisions : List Nat := [80, 200, 720, 1400]

/-- A positive value below every rounding boundary of every format. -/
def tinyNum (neg : Bool) : Num := .fin neg 1 (-9000)

/-- 2^x rounded into a format (R149, R150). -/
def putExp2 (f : FFmt) (rc : Nat) (sat : Bool) (x : Num) : Nat :=
  match x with
  | .nan => f.nanBits
  | .inf s => if s then f.put rc 0 16 sat (.fin false 0 0) else f.put rc 0 16 sat (.inf false)
  | .fin s m e =>
    if m = 0 then f.put rc 0 16 sat (.fin false 1 0)
    else if 0 < (m.log2 : Int) + e - 12 then
      f.put rc 0 16 sat (if s then tinyNum false else .fin false 1 9000)
    else match onGrid m e 0 with
      | (k, 0, _) => f.put rc 0 16 sat (.fin false 1 (if s then -(k : Int) else k))
      | _ => settleAt (fun pr => exp2Encl pr s m e) f rc sat (Config.transcendental 1 (f.put 0 0 16 false x) f.width rc)
          precisions

/-- log₂ x rounded into a format (R149, R150). -/
def putLog2 (f : FFmt) (rc : Nat) (sat : Bool) (x : Num) : Nat :=
  match x with
  | .nan => f.nanBits
  | .inf s => if s then f.nanBits else f.put rc 0 16 sat (.inf false)
  | .fin s m e =>
    if m = 0 then f.put rc 0 16 sat (.inf true)
    else if s then f.nanBits
    else if m = 2 ^ m.log2 then
      let k : Int := (m.log2 : Int) + e
      f.put rc 0 16 sat (.fin (decide (k < 0)) k.natAbs 0)
    else settleAt (fun pr => log2Encl pr m e) f rc sat (Config.transcendental 2 (f.put 0 0 16 false x) f.width rc)
      precisions

/-- tanh x rounded into a format (R149, R150). -/
def putTanh (f : FFmt) (rc : Nat) (sat : Bool) (x : Num) : Nat :=
  match x with
  | .nan => f.nanBits
  | .inf s => f.put rc 0 16 sat (.fin s 1 0)
  | .fin s m e =>
    if m = 0 then f.put rc 0 16 sat x
    else if 5 ≤ (m.log2 : Int) + e then f.put rc 0 16 sat (.fin s (2 ^ 2000 - 1) (-2000))
    else settleAt (fun pr => tanhEncl pr s m e) f rc sat (Config.transcendental 3 (f.put 0 0 16 false x) f.width rc)
      precisions

end Sys2Proof.Machine
end

