-- ==== Sys2Proof/Decode.lean ====
section
/-! DEFINITION. The decoder of instruction words (R71 to R77), total on any bytes and rejecting by name, the reading of
a wide-operation record as its operation (R84), and the encoder, written from the same tables. -/

namespace Sys2Proof

/-- Why a word is not an instruction (R77). -/
inductive DecodeError where
  | tooShort | reservedMajor | reservedFunction | reservedField | reservedOperand | badDestination
  | badToken | badBlock | badCount | badScope | badCondition
  deriving DecidableEq, Repr

/-- The `n` bits of a word from bit `lo` up. -/
def fld (w : IWord) (lo n : Nat) : BitVec n := w.extractLsb' lo n

/-- One bit of a word. -/
def flag (w : IWord) (i : Nat) : Bool := w.getLsbD i

/-- Format SR with two sources (R95, R101). -/
def decSR3 (w : IWord) (mk : OpCode → OpCode → OpCode → Instr) : Except DecodeError Instr :=
  if !okDst (fld w 20 6) then .error .badDestination
  else if !okSrc (fld w 14 6) || !okSrc (fld w 8 6) then .error .reservedOperand
  else .ok (mk (fld w 20 6) (fld w 14 6) (fld w 8 6))

/-- Format SR with one source, its b field reserved (R95, R101). -/
def decSR2 (w : IWord) (mk : OpCode → OpCode → Instr) : Except DecodeError Instr :=
  if fld w 8 6 != 0 then .error .reservedField
  else if !okDst (fld w 20 6) then .error .badDestination
  else if !okSrc (fld w 14 6) then .error .reservedOperand
  else .ok (mk (fld w 20 6) (fld w 14 6))

/-- Format SI (R99). -/
def decSI (w : IWord) (mk : OpCode → OpCode → BitVec 14 → Instr) : Except DecodeError Instr :=
  if !okDst (fld w 20 6) then .error .badDestination
  else if !okSrc (fld w 14 6) then .error .reservedOperand
  else .ok (mk (fld w 20 6) (fld w 14 6) (fld w 0 14))

/-- Format SI of a shift: the amount has 6 bits and the rest of imm14 is reserved (R99). -/
def decShift (w : IWord) (mk : OpCode → OpCode → BitVec 6 → Instr) : Except DecodeError Instr :=
  if fld w 6 8 != 0 then .error .reservedField
  else if !okDst (fld w 20 6) then .error .badDestination
  else if !okSrc (fld w 14 6) then .error .reservedOperand
  else .ok (mk (fld w 20 6) (fld w 14 6) (fld w 0 6))

/-- The ialu group (R95). -/
def decIalu (w : IWord) : Except DecodeError Instr :=
  match (fld w 0 8).toNat with
  | 0 => decSR3 w .add
  | 1 => decSR3 w .sub
  | 2 => decSR3 w .mul
  | 3 => decSR3 w .mulh
  | 4 => decSR3 w .mulhu
  | 5 => decSR3 w .div
  | 6 => decSR3 w .divu
  | 7 => decSR3 w .rem
  | 8 => decSR3 w .remu
  | 9 => decSR3 w .and_
  | 10 => decSR3 w .or_
  | 11 => decSR3 w .xor_
  | 12 => decSR3 w .andn
  | 13 => decSR3 w .shl
  | 14 => decSR3 w .shr
  | 15 => decSR3 w .sar
  | 16 => decSR3 w .min_
  | 17 => decSR3 w .max_
  | 18 => decSR3 w .minu
  | 19 => decSR3 w .maxu
  | 20 => decSR3 w .seq
  | 21 => decSR3 w .sne
  | 22 => decSR3 w .slt
  | 23 => decSR3 w .sle
  | 24 => decSR3 w .sltu
  | 25 => decSR3 w .sleu
  | 26 => decSR2 w .clz
  | 27 => decSR2 w .popc
  | 28 => decSR2 w .mov
  | 29 => decSR3 w .bfx
  | _ => .error .reservedFunction

/-- The falu group (R101). -/
def decFalu (w : IWord) : Except DecodeError Instr :=
  match (fld w 0 8).toNat with
  | 0 => decSR3 w .fadd
  | 1 => decSR3 w .fsub
  | 2 => decSR3 w .fmul
  | 3 => decSR3 w .fdiv
  | 4 => decSR2 w .fsqrt
  | 5 => decSR3 w .fmin
  | 6 => decSR3 w .fmax
  | 7 => decSR2 w .fabs
  | 8 => decSR2 w .fneg
  | 9 => decSR3 w .feq
  | 10 => decSR3 w .flt
  | 11 => decSR3 w .fle
  | 12 => decSR2 w .fcvtfi
  | 13 => decSR2 w .fcvtif
  | _ => .error .reservedFunction

/-- `b` and `bc` (R103). -/
def decBranch (w : IWord) : Except DecodeError Instr :=
  if (fld w 22 4).toNat = 0 then
    (if fld w 16 6 != 0 then .error .reservedField else .ok (.branch (fld w 0 16)))
  else if 6 < (fld w 22 4).toNat then .error .badCondition
  else if !okSrc (fld w 16 6) then .error .reservedOperand
  else .ok (.branchCond (fld w 22 4) (fld w 16 6) (fld w 0 16))

/-- `jr` and `ret` (R104). -/
def decJump (w : IWord) : Except DecodeError Instr :=
  if fld w 20 6 != 0 || fld w 8 6 != 0 then .error .reservedField
  else match (fld w 0 8).toNat with
  | 0 => if !okSrc (fld w 14 6) then .error .reservedOperand else .ok (.jr (fld w 14 6))
  | 1 => if fld w 14 6 != 0 then .error .reservedField else .ok .ret
  | _ => .error .reservedFunction

/-- `loop` (R105). -/
def decLoop (w : IWord) : Except DecodeError Instr :=
  if fld w 0 8 != 0 || fld w 8 10 == 0 then .error .reservedField
  else if !okSrc (fld w 18 6) then .error .reservedOperand
  else .ok (.loop (fld w 24 2) (fld w 18 6) (fld w 8 10))

/-- A control word without an operand and without imm14 (R109). -/
def decCtl0 (w : IWord) (i : Instr) : Except DecodeError Instr :=
  if fld w 0 20 != 0 then .error .reservedField else .ok i

/-- The control group (R109). -/
def decCtl (w : IWord) : Except DecodeError Instr :=
  match (fld w 20 6).toNat with
  | 0 => decCtl0 w .nop
  | 1 => decCtl0 w .done
  | 2 => if fld w 14 6 != 0 then .error .reservedField else .ok (.trap (fld w 0 14))
  | 3 => decCtl0 w .eret
  | 4 => if fld w 6 14 != 0 then .error .reservedField else .ok (.safept (fld w 0 6))
  | 5 => decCtl0 w .phb
  | 6 => decCtl0 w .phc
  | 7 => if !okSrc (fld w 14 6) then .error .reservedOperand else .ok (.waitsc (fld w 14 6) (fld w 0 14))
  | 8 => if fld w 14 6 != 0 then .error .reservedField else .ok (.brk (fld w 0 14))
  | 9 =>
    if fld w 6 8 != 0 || 1 < (fld w 4 2).toNat || 4 < (fld w 0 4).toNat then .error .reservedField
    else if !okSrc (fld w 14 6) then .error .reservedOperand
    else .ok (.inj (fld w 14 6) (fld w 4 2) (fld w 0 4))
  | _ => .error .reservedFunction

/-- The token bits of an LQ word: WP and SP point to a missing neighbour (R77, R79). -/
def lqTok (w : IWord) (k : Bool → Bool → Except DecodeError Instr) : Except DecodeError Instr :=
  if flag w 25 || flag w 23 then .error .badToken else k (flag w 24) (flag w 22)

/-- The token bits of an SQ word: WN and SN point to a missing neighbour (R77, R79). -/
def sqTok (w : IWord) (k : Bool → Bool → Except DecodeError Instr) : Except DecodeError Instr :=
  if flag w 24 || flag w 22 then .error .badToken else k (flag w 25) (flag w 23)

/-- The operand code in the s field of format EM, then the rest. -/
def emSrc (w : IWord) (k : OpCode → Except DecodeError Instr) : Except DecodeError Instr :=
  if !okSrc (fld w 8 6) then .error .reservedOperand else k (fld w 8 6)

/-- A reserved field of `n` bits from `lo`, then the rest. -/
def reserved (w : IWord) (lo n : Nat) (k : Except DecodeError Instr) : Except DecodeError Instr :=
  if fld w lo n != 0 then .error .reservedField else k

/-- The aop group (R203). -/
def decAop (w : IWord) : Except DecodeError Instr :=
  lqTok w fun wn sn =>
  match (fld w 18 4).toNat with
  | 0 => reserved w 0 8 (emSrc w fun s => .ok (.amov wn sn (fld w 14 4) s))
  | 1 => reserved w 0 8 (emSrc w fun s => .ok (.aadd wn sn (fld w 14 4) s))
  | 2 => .ok (.aaddi wn sn (fld w 14 4) (fld w 0 14))
  | 3 => reserved w 0 14 (.ok (.aget wn sn (fld w 14 4)))
  | _ => .error .reservedFunction

/-- The ld group (R204). -/
def decLd (w : IWord) : Except DecodeError Instr :=
  lqTok w fun wn sn => emSrc w fun s =>
  match (fld w 18 4).toNat with
  | 0 => .ok (.ldB wn sn (fld w 14 4) s (fld w 0 8))
  | 1 => .ok (.ldBu wn sn (fld w 14 4) s (fld w 0 8))
  | 2 => .ok (.ldH wn sn (fld w 14 4) s (fld w 0 8))
  | 3 => .ok (.ldHu wn sn (fld w 14 4) s (fld w 0 8))
  | 4 => .ok (.ldW wn sn (fld w 14 4) s (fld w 0 8))
  | 5 => .ok (.ldWu wn sn (fld w 14 4) s (fld w 0 8))
  | 6 => .ok (.ldD wn sn (fld w 14 4) s (fld w 0 8))
  | 7 => .ok (.ldroW wn sn (fld w 14 4) s (fld w 0 8))
  | 8 => .ok (.ldroD wn sn (fld w 14 4) s (fld w 0 8))
  | 9 => .ok (.ldxW wn sn (fld w 14 4) s (fld w 0 8))
  | 10 => .ok (.ldxD wn sn (fld w 14 4) s (fld w 0 8))
  | _ => .error .reservedFunction

/-- `lv` (R207). -/
def decLv (w : IWord) : Except DecodeError Instr :=
  lqTok w fun wn sn => reserved w 0 2 (
    if !okBlock (fld w 17 5) (fld w 12 5) (fld w 9 3) (fld w 6 3) then .error .badBlock
    else .ok (.lv wn sn (fld w 17 5) (fld w 12 5) (fld w 9 3) (fld w 6 3) (fld w 2 4)))

/-- `mld` (R165). -/
def decMld (w : IWord) : Except DecodeError Instr :=
  lqTok w fun wn sn => reserved w 0 10 (
    if 1 < (fld w 20 2).toNat then .error .reservedField
    else if !okSrc (fld w 10 6) then .error .reservedOperand
    else .ok (.mld wn sn (fld w 20 2) (fld w 16 4) (fld w 10 6)))

/-- The cfg group (R213, R215). -/
def decCfg (w : IWord) : Except DecodeError Instr :=
  lqTok w fun wn sn =>
  match (fld w 18 4).toNat with
  | 0 => reserved w 11 3 (.ok (.pset wn sn (fld w 14 4) (fld w 8 3) (fld w 0 8)))
  | 1 => reserved w 12 2 (.ok (.cbset wn sn (fld w 14 4) (fld w 8 4) (fld w 0 8)))
  | 2 => reserved w 14 4 (
      if (fld w 0 8).toNat = 0 || 64 < (fld w 8 6).toNat + (fld w 0 8).toNat then .error .badCount
      else .ok (.tdef wn sn (fld w 8 6) (fld w 0 8)))
  | 3 => .ok (.bind wn sn (fld w 14 4) (fld w 8 6) (fld w 0 8))
  | 4 => reserved w 14 4 (reserved w 0 8 (.ok (.unbind wn sn (fld w 8 6))))
  | _ => .error .reservedFunction

/-- The sync group (R218). -/
def decSync (w : IWord) : Except DecodeError Instr :=
  lqTok w fun wn sn =>
  match (fld w 18 4).toNat with
  | 0 => reserved w 3 15 (.ok (.fence wn sn (flag w 2) (fld w 0 2)))
  | 1 => reserved w 1 7 (
      if flag w 0 then emSrc w fun s => .ok (.roinvRange wn sn (fld w 14 4) s)
      else reserved w 8 10 (.ok (.roinv wn sn)))
  | 2 => reserved w 2 6 (emSrc w fun s => .ok (.acq wn sn (fld w 14 4) s (fld w 0 2)))
  | 3 => reserved w 2 6 (
      if (fld w 0 2).toNat < 2 then .error .badScope
      else emSrc w fun s => .ok (.clean wn sn (fld w 14 4) s (fld w 0 2)))
  | 4 => reserved w 2 6 (emSrc w fun s => .ok (.pf wn sn (fld w 14 4) s (fld w 0 2)))
  | _ => .error .reservedFunction

/-- The tb group (R249). -/
def decTb (w : IWord) : Except DecodeError Instr :=
  lqTok w fun wn sn =>
  match (fld w 18 4).toNat with
  | 0 => emSrc w fun s => .ok (.tbinit wn sn (fld w 14 4) s (fld w 0 8))
  | 1 => reserved w 8 6 (.ok (.tbarr wn sn (fld w 14 4) (fld w 0 8)))
  | 2 => emSrc w fun s => .ok (.tbexp wn sn (fld w 14 4) s (fld w 0 8))
  | 3 => emSrc w fun s => .ok (.tbarrexp wn sn (fld w 14 4) s (fld w 0 8))
  | 4 => emSrc w fun s => .ok (.tbwait wn sn (fld w 14 4) s (fld w 0 8))
  | 5 => reserved w 8 6 (.ok (.tbtest wn sn (fld w 14 4) (fld w 0 8)))
  | _ => .error .reservedFunction

/-- The size bit of `fadd`, `fmin` and `fmax` must be 0 (R224). -/
def noSize (w : IWord) (k : Except DecodeError Instr) : Except DecodeError Instr :=
  if flag w 7 then .error .reservedField else k

/-- The amo group (R224). -/
def decAmo (w : IWord) : Except DecodeError Instr :=
  lqTok w fun wn sn => reserved w 0 2 (emSrc w fun s =>
    if flag w 2 && (fld w 5 2).toNat < 2 then .error .badScope
    else match (fld w 18 4).toNat with
    | 0 => .ok (.amoAdd wn sn (fld w 14 4) s (flag w 7) (fld w 5 2) (flag w 4) (flag w 3) (flag w 2))
    | 1 => .ok (.amoAnd wn sn (fld w 14 4) s (flag w 7) (fld w 5 2) (flag w 4) (flag w 3) (flag w 2))
    | 2 => .ok (.amoOr wn sn (fld w 14 4) s (flag w 7) (fld w 5 2) (flag w 4) (flag w 3) (flag w 2))
    | 3 => .ok (.amoXor wn sn (fld w 14 4) s (flag w 7) (fld w 5 2) (flag w 4) (flag w 3) (flag w 2))
    | 4 => .ok (.amoMin wn sn (fld w 14 4) s (flag w 7) (fld w 5 2) (flag w 4) (flag w 3) (flag w 2))
    | 5 => .ok (.amoMax wn sn (fld w 14 4) s (flag w 7) (fld w 5 2) (flag w 4) (flag w 3) (flag w 2))
    | 6 => .ok (.amoMinu wn sn (fld w 14 4) s (flag w 7) (fld w 5 2) (flag w 4) (flag w 3) (flag w 2))
    | 7 => .ok (.amoMaxu wn sn (fld w 14 4) s (flag w 7) (fld w 5 2) (flag w 4) (flag w 3) (flag w 2))
    | 8 => .ok (.amoSwap wn sn (fld w 14 4) s (flag w 7) (fld w 5 2) (flag w 4) (flag w 3) (flag w 2))
    | 9 => noSize w (.ok (.amoFadd wn sn (fld w 14 4) s (fld w 5 2) (flag w 4) (flag w 3) (flag w 2)))
    | 10 => noSize w (.ok (.amoFmin wn sn (fld w 14 4) s (fld w 5 2) (flag w 4) (flag w 3) (flag w 2)))
    | 11 => noSize w (.ok (.amoFmax wn sn (fld w 14 4) s (fld w 5 2) (flag w 4) (flag w 3) (flag w 2)))
    | _ => .error .reservedFunction)

/-- `cas` (R229). -/
def decCas (w : IWord) : Except DecodeError Instr :=
  lqTok w fun wn sn => reserved w 18 4 (reserved w 0 1 (emSrc w fun s =>
    if !okSrc (fld w 2 6) then .error .reservedOperand
    else .ok (.cas wn sn (fld w 14 4) s (fld w 2 6) (flag w 1))))

/-- The tag group (R262). -/
def decTag (w : IWord) : Except DecodeError Instr :=
  lqTok w fun wn sn =>
  match (fld w 18 4).toNat with
  | 0 => reserved w 0 18 (.ok (.tagnew wn sn))
  | 1 => reserved w 0 18 (.ok (.tagnewNb wn sn))
  | 2 => reserved w 14 4 (reserved w 1 7 (emSrc w fun s => .ok (.tagret wn sn s (flag w 0))))
  | 3 => reserved w 14 4 (reserved w 0 8 (emSrc w fun s => .ok (.ctxset wn sn s)))
  | 4 => reserved w 14 4 (reserved w 0 8 (emSrc w fun s => .ok (.xtagset wn sn s)))
  | _ => .error .reservedFunction

/-- The st group (R208, R209). -/
def decSt (w : IWord) : Except DecodeError Instr :=
  sqTok w fun wp sp => emSrc w fun s =>
  match (fld w 18 4).toNat with
  | 0 => .ok (.stB wp sp (fld w 14 4) s (fld w 0 8))
  | 1 => .ok (.stH wp sp (fld w 14 4) s (fld w 0 8))
  | 2 => .ok (.stW wp sp (fld w 14 4) s (fld w 0 8))
  | 3 => .ok (.stD wp sp (fld w 14 4) s (fld w 0 8))
  | 4 => reserved w 2 6 (.ok (.relD wp sp (fld w 14 4) s (fld w 0 2)))
  | _ => .error .reservedFunction

/-- `sv` (R210). -/
def decSv (w : IWord) : Except DecodeError Instr :=
  sqTok w fun wp sp => reserved w 0 2 (
    if !okBlock (fld w 17 5) (fld w 12 5) (fld w 9 3) (fld w 6 3) then .error .badBlock
    else .ok (.sv wp sp (fld w 17 5) (fld w 12 5) (fld w 9 3) (fld w 6 3) (fld w 2 4)))

/-- The stx group (R266). -/
def decStx (w : IWord) : Except DecodeError Instr :=
  sqTok w fun wp sp => emSrc w fun s =>
  match (fld w 18 4).toNat with
  | 0 => .ok (.stxW wp sp (fld w 14 4) s (fld w 0 8))
  | 1 => .ok (.stxD wp sp (fld w 14 4) s (fld w 0 8))
  | _ => .error .reservedFunction

/-- The row group (R297). -/
def decRow (w : IWord) : Except DecodeError Instr :=
  sqTok w fun wp sp => reserved w 8 6 (
  match (fld w 18 4).toNat with
  | 0 => .ok (.rowcopy wp sp (fld w 14 4) (fld w 0 8))
  | 1 => .ok (.rowfill wp sp (fld w 14 4) (fld w 0 8))
  | 2 => .ok (.rowand wp sp (fld w 14 4) (fld w 0 8))
  | 3 => .ok (.rowor wp sp (fld w 14 4) (fld w 0 8))
  | 4 => .ok (.rowxor wp sp (fld w 14 4) (fld w 0 8))
  | 5 => .ok (.rownot wp sp (fld w 14 4) (fld w 0 8))
  | 6 => .ok (.rowmaj wp sp (fld w 14 4) (fld w 0 8))
  | _ => .error .reservedFunction)

/-- The decoder of one word: the major opcode selects the format (R71, R75). -/
def decodeWord (w : IWord) : Except DecodeError Instr :=
  match (fld w 26 6).toNat with
  | 0x00 => decIalu w
  | 0x01 => decSI w .addi
  | 0x02 => decSI w .andi
  | 0x03 => decSI w .ori
  | 0x04 => decSI w .xori
  | 0x05 => decShift w .shli
  | 0x06 => decShift w .shri
  | 0x07 => decShift w .sari
  | 0x08 => decSI w .slti
  | 0x09 => decSI w .sltiu
  | 0x0A => if !okDst (fld w 20 6) then .error .badDestination else .ok (.lui (fld w 20 6) (fld w 0 20))
  | 0x0C => decFalu w
  | 0x10 => decBranch w
  | 0x11 => reserved w 20 6 (.ok (.call (fld w 0 20)))
  | 0x12 => decJump w
  | 0x13 => decLoop w
  | 0x14 => reserved w 14 6 (
      if !okDst (fld w 20 6) then .error .badDestination else .ok (.srr (fld w 20 6) (fld w 0 14)))
  | 0x15 => reserved w 20 6 (
      if !okSrc (fld w 14 6) then .error .reservedOperand else .ok (.srw (fld w 14 6) (fld w 0 14)))
  | 0x16 => decCtl w
  | 0x20 => decAop w
  | 0x21 => decLd w
  | 0x22 => decLv w
  | 0x23 => decMld w
  | 0x24 => decCfg w
  | 0x25 => decSync w
  | 0x26 => decTb w
  | 0x27 => decAmo w
  | 0x28 => decCas w
  | 0x29 => decTag w
  | 0x30 => decSt w
  | 0x31 => decSv w
  | 0x32 => decStx w
  | 0x33 => decRow w
  | 0x38 => .ok (.patch (fld w 20 6) (fld w 16 4) (fld w 0 16))
  | 0x39 => reserved w 0 8 (.ok (.tx (flag w 25) (flag w 24) (flag w 23) (flag w 22) (fld w 16 6) (fld w 8 8)))
  | _ => .error .reservedMajor

/-- Four bytes as a little-endian word (R9). -/
def wordOfBytes (b0 b1 b2 b3 : Byte) : IWord := b3 ++ b2 ++ b1 ++ b0

/-- The decoder on a list of bytes: the instruction and the bytes behind it. -/
def decodeBytes : List Byte → Except DecodeError (Instr × List Byte)
  | b0 :: b1 :: b2 :: b3 :: rest =>
    match decodeWord (wordOfBytes b0 b1 b2 b3) with
    | .ok i => .ok (i, rest)
    | .error e => .error e
  | _ => .error .tooShort

/-- The four bytes of a word, lowest address first (R9). -/
def bytesOfWord (w : IWord) : List Byte :=
  [w.extractLsb' 0 8, w.extractLsb' 8 8, w.extractLsb' 16 8, w.extractLsb' 24 8]

/-- What the decoder reads from the word whose bits are `w`, laid out as the hardware stores it. -/
def decodeTableWord (_nbits w : Nat) : Option Instr :=
  match decodeBytes (bytesOfWord (BitVec.ofNat 32 w)) with
  | .ok (i, _) => some i
  | .error _ => none

/-- The operation a record names (R84): the meaning of a CQ entry. -/
def decodeWide (op : WideOp) : Option Instr :=
  match op.wop with
  | 0x00 => some (.vadd op)
  | 0x01 => some (.vsub op)
  | 0x02 => some (.vmul op)
  | 0x03 => some (.vfma op)
  | 0x04 => some (.vfms op)
  | 0x05 => some (.vmin op)
  | 0x06 => some (.vmax op)
  | 0x07 => some (.vabs op)
  | 0x08 => some (.vneg op)
  | 0x09 => some (.vrcp op)
  | 0x0A => some (.vrsqrt op)
  | 0x0B => some (.vsqrt op)
  | 0x0C => some (.vexp2 op)
  | 0x0D => some (.vlog2 op)
  | 0x0E => some (.vtanh op)
  | 0x0F => some (.vscale op)
  | 0x20 => some (.viadd op)
  | 0x21 => some (.visub op)
  | 0x22 => some (.vimul op)
  | 0x23 => some (.vand op)
  | 0x24 => some (.vor op)
  | 0x25 => some (.vxor op)
  | 0x26 => some (.vnot op)
  | 0x27 => some (.vshl op)
  | 0x28 => some (.vshr op)
  | 0x29 => some (.vsar op)
  | 0x2A => some (.vimin op)
  | 0x2B => some (.vimax op)
  | 0x2C => some (.viminu op)
  | 0x2D => some (.vimaxu op)
  | 0x2E => some (.vcmp op)
  | 0x2F => some (.vsel op)
  | 0x40 => some (.vrsum op)
  | 0x41 => some (.vrmax op)
  | 0x42 => some (.vrmin op)
  | 0x43 => some (.vcsum op)
  | 0x44 => some (.vmov op)
  | 0x45 => some (.vbcast op)
  | 0x46 => some (.vext op)
  | 0x47 => some (.vins op)
  | 0x48 => some (.viota op)
  | 0x49 => some (.vperm op)
  | 0x4A => some (.vcompact op)
  | 0x4B => some (.vtrans op)
  | 0x4C => some (.vcvt op)
  | 0x4D => some (.vq4 op)
  | 0x4E => some (.vdq4 op)
  | 0x60 => some (.mzero op)
  | 0x61 => some (.mload op)
  | 0x62 => some (.mma op)
  | 0x63 => some (.mdrain op)
  | 0x64 => some (.mchol op)
  | 0x65 => some (.mlu op)
  | 0x66 => some (.mqr op)
  | 0x67 => some (.mtrs op)
  | 0x68 => some (.mshift op)
  | 0x69 => some (.mpiv op)
  | _ => none

/-- A bit as a field of width 1. -/
abbrev bit1 (b : Bool) : BitVec 1 := BitVec.ofBool b

/-- Format SR of R71. -/
def encSR (op d a b : BitVec 6) (fn : BitVec 8) : IWord := op ++ d ++ a ++ b ++ fn
/-- Format SI of R71; format SC has the same widths. -/
def encSI (op d a : BitVec 6) (imm : BitVec 14) : IWord := op ++ d ++ a ++ imm
/-- Format SU of R71. -/
def encSU (op d : BitVec 6) (imm : BitVec 20) : IWord := op ++ d ++ imm
/-- Format SB of R71. -/
def encSB (op : BitVec 6) (cond : BitVec 4) (a : BitVec 6) (disp : BitVec 16) : IWord := op ++ cond ++ a ++ disp
/-- Format SL of R71. -/
def encSL (op : BitVec 6) (level : BitVec 2) (count : BitVec 6) (body : BitVec 10) : IWord :=
  op ++ level ++ count ++ body ++ (0 : BitVec 8)
/-- Format EM of R71 for the LQ: WP and SP are 0. -/
def encLQ (op : BitVec 6) (wn sn : Bool) (fn a : BitVec 4) (s : BitVec 6) (imm : BitVec 8) : IWord :=
  op ++ bit1 false ++ bit1 wn ++ bit1 false ++ bit1 sn ++ fn ++ a ++ s ++ imm
/-- Format EM of R71 for the SQ: WN and SN are 0. -/
def encSQ (op : BitVec 6) (wp sp : Bool) (fn a : BitVec 4) (s : BitVec 6) (imm : BitVec 8) : IWord :=
  op ++ bit1 wp ++ bit1 false ++ bit1 sp ++ bit1 false ++ fn ++ a ++ s ++ imm
/-- Format V of R71. -/
def encV (op : BitVec 6) (wp wn sp sn : Bool) (row col : BitVec 5) (h1 w1 : BitVec 3) (a : BitVec 4) : IWord :=
  op ++ bit1 wp ++ bit1 wn ++ bit1 sp ++ bit1 sn ++ row ++ col ++ h1 ++ w1 ++ a ++ (0 : BitVec 2)
/-- Format AMO of R71. -/
def encAMO (wn sn : Bool) (fn a : BitVec 4) (s : BitVec 6) (size : Bool) (scope : BitVec 2) (acq rel ord : Bool) :
    IWord :=
  (0x27 : BitVec 6) ++ bit1 false ++ bit1 wn ++ bit1 false ++ bit1 sn ++ fn ++ a ++ s ++ bit1 size ++ scope ++
    bit1 acq ++ bit1 rel ++ bit1 ord ++ (0 : BitVec 2)
/-- Format CAS of R71. -/
def encCAS (wn sn : Bool) (a : BitVec 4) (s new : BitVec 6) (size : Bool) : IWord :=
  (0x28 : BitVec 6) ++ bit1 false ++ bit1 wn ++ bit1 false ++ bit1 sn ++ (0 : BitVec 4) ++ a ++ s ++ new ++
    bit1 size ++ (0 : BitVec 1)
/-- Format MLD of R71. -/
def encMLD (wn sn : Bool) (feed : BitVec 2) (a : BitVec 4) (s : BitVec 6) : IWord :=
  (0x23 : BitVec 6) ++ bit1 false ++ bit1 wn ++ bit1 false ++ bit1 sn ++ feed ++ a ++ s ++ (0 : BitVec 10)
/-- Format TX of R71. -/
def encTX (wp wn sp sn : Bool) (tmpl : BitVec 6) (rep1 : BitVec 8) : IWord :=
  (0x39 : BitVec 6) ++ bit1 wp ++ bit1 wn ++ bit1 sp ++ bit1 sn ++ tmpl ++ rep1 ++ (0 : BitVec 8)
/-- Format PATCH of R71. -/
def encPATCH (tmpl : BitVec 6) (field : BitVec 4) (value : BitVec 16) : IWord :=
  (0x38 : BitVec 6) ++ tmpl ++ field ++ value

/-- The word of an instruction; `none` for a row that has no word (a wide operation stands in a record, and an event is
no instruction word). -/
def encode : Instr → Option IWord
  | .add d a b => some (encSR 0 d a b 0)
  | .sub d a b => some (encSR 0 d a b 1)
  | .mul d a b => some (encSR 0 d a b 2)
  | .mulh d a b => some (encSR 0 d a b 3)
  | .mulhu d a b => some (encSR 0 d a b 4)
  | .div d a b => some (encSR 0 d a b 5)
  | .divu d a b => some (encSR 0 d a b 6)
  | .rem d a b => some (encSR 0 d a b 7)
  | .remu d a b => some (encSR 0 d a b 8)
  | .and_ d a b => some (encSR 0 d a b 9)
  | .or_ d a b => some (encSR 0 d a b 10)
  | .xor_ d a b => some (encSR 0 d a b 11)
  | .andn d a b => some (encSR 0 d a b 12)
  | .shl d a b => some (encSR 0 d a b 13)
  | .shr d a b => some (encSR 0 d a b 14)
  | .sar d a b => some (encSR 0 d a b 15)
  | .min_ d a b => some (encSR 0 d a b 16)
  | .max_ d a b => some (encSR 0 d a b 17)
  | .minu d a b => some (encSR 0 d a b 18)
  | .maxu d a b => some (encSR 0 d a b 19)
  | .seq d a b => some (encSR 0 d a b 20)
  | .sne d a b => some (encSR 0 d a b 21)
  | .slt d a b => some (encSR 0 d a b 22)
  | .sle d a b => some (encSR 0 d a b 23)
  | .sltu d a b => some (encSR 0 d a b 24)
  | .sleu d a b => some (encSR 0 d a b 25)
  | .clz d a => some (encSR 0 d a 0 26)
  | .popc d a => some (encSR 0 d a 0 27)
  | .mov d a => some (encSR 0 d a 0 28)
  | .bfx d a b => some (encSR 0 d a b 29)
  | .addi d a k => some (encSI 1 d a k)
  | .andi d a k => some (encSI 2 d a k)
  | .ori d a k => some (encSI 3 d a k)
  | .xori d a k => some (encSI 4 d a k)
  | .shli d a k => some (encSI 5 d a ((0 : BitVec 8) ++ k))
  | .shri d a k => some (encSI 6 d a ((0 : BitVec 8) ++ k))
  | .sari d a k => some (encSI 7 d a ((0 : BitVec 8) ++ k))
  | .slti d a k => some (encSI 8 d a k)
  | .sltiu d a k => some (encSI 9 d a k)
  | .lui d imm => some (encSU 0x0A d imm)
  | .fadd d a b => some (encSR 0x0C d a b 0)
  | .fsub d a b => some (encSR 0x0C d a b 1)
  | .fmul d a b => some (encSR 0x0C d a b 2)
  | .fdiv d a b => some (encSR 0x0C d a b 3)
  | .fsqrt d a => some (encSR 0x0C d a 0 4)
  | .fmin d a b => some (encSR 0x0C d a b 5)
  | .fmax d a b => some (encSR 0x0C d a b 6)
  | .fabs d a => some (encSR 0x0C d a 0 7)
  | .fneg d a => some (encSR 0x0C d a 0 8)
  | .feq d a b => some (encSR 0x0C d a b 9)
  | .flt d a b => some (encSR 0x0C d a b 10)
  | .fle d a b => some (encSR 0x0C d a b 11)
  | .fcvtfi d a => some (encSR 0x0C d a 0 12)
  | .fcvtif d a => some (encSR 0x0C d a 0 13)
  | .branch disp => some (encSB 0x10 0 0 disp)
  | .branchCond cond a disp => some (encSB 0x10 cond a disp)
  | .call disp => some (encSU 0x11 0 disp)
  | .jr a => some (encSR 0x12 0 a 0 0)
  | .ret => some (encSR 0x12 0 0 0 1)
  | .loop level count body => some (encSL 0x13 level count body)
  | .srr d reg => some (encSI 0x14 d 0 reg)
  | .srw a reg => some (encSI 0x15 0 a reg)
  | .nop => some (encSI 0x16 0 0 0)
  | .done => some (encSI 0x16 1 0 0)
  | .trap code => some (encSI 0x16 2 0 code)
  | .eret => some (encSI 0x16 3 0 0)
  | .safept n => some (encSI 0x16 4 0 ((0 : BitVec 8) ++ n))
  | .phb => some (encSI 0x16 5 0 0)
  | .phc => some (encSI 0x16 6 0 0)
  | .waitsc a k => some (encSI 0x16 7 a k)
  | .brk code => some (encSI 0x16 8 0 code)
  | .inj a kind target => some (encSI 0x16 9 a ((0 : BitVec 8) ++ kind ++ target))
  | .amov wn sn a s => some (encLQ 0x20 wn sn 0 a s 0)
  | .aadd wn sn a s => some (encLQ 0x20 wn sn 1 a s 0)
  | .aaddi wn sn a imm => some (encLQ 0x20 wn sn 2 a (imm.extractLsb' 8 6) (imm.extractLsb' 0 8))
  | .aget wn sn a => some (encLQ 0x20 wn sn 3 a 0 0)
  | .ldB wn sn a s imm => some (encLQ 0x21 wn sn 0 a s imm)
  | .ldBu wn sn a s imm => some (encLQ 0x21 wn sn 1 a s imm)
  | .ldH wn sn a s imm => some (encLQ 0x21 wn sn 2 a s imm)
  | .ldHu wn sn a s imm => some (encLQ 0x21 wn sn 3 a s imm)
  | .ldW wn sn a s imm => some (encLQ 0x21 wn sn 4 a s imm)
  | .ldWu wn sn a s imm => some (encLQ 0x21 wn sn 5 a s imm)
  | .ldD wn sn a s imm => some (encLQ 0x21 wn sn 6 a s imm)
  | .ldroW wn sn a s imm => some (encLQ 0x21 wn sn 7 a s imm)
  | .ldroD wn sn a s imm => some (encLQ 0x21 wn sn 8 a s imm)
  | .ldxW wn sn a s imm => some (encLQ 0x21 wn sn 9 a s imm)
  | .ldxD wn sn a s imm => some (encLQ 0x21 wn sn 10 a s imm)
  | .lv wn sn row col h1 w1 a => some (encV 0x22 false wn false sn row col h1 w1 a)
  | .mld wn sn feed a s => some (encMLD wn sn feed a s)
  | .pset wn sn a port imm => some (encLQ 0x24 wn sn 0 a ((0 : BitVec 3) ++ port) imm)
  | .cbset wn sn a buf imm => some (encLQ 0x24 wn sn 1 a ((0 : BitVec 2) ++ buf) imm)
  | .tdef wn sn tmpl count => some (encLQ 0x24 wn sn 2 0 tmpl count)
  | .bind wn sn a entry imm => some (encLQ 0x24 wn sn 3 a entry imm)
  | .unbind wn sn entry => some (encLQ 0x24 wn sn 4 0 entry 0)
  | .fence wn sn inv scope => some (encLQ 0x25 wn sn 0 0 0 ((0 : BitVec 5) ++ bit1 inv ++ scope))
  | .roinv wn sn => some (encLQ 0x25 wn sn 1 0 0 0)
  | .roinvRange wn sn a s => some (encLQ 0x25 wn sn 1 a s 1)
  | .acq wn sn a s scope => some (encLQ 0x25 wn sn 2 a s ((0 : BitVec 6) ++ scope))
  | .clean wn sn a s scope => some (encLQ 0x25 wn sn 3 a s ((0 : BitVec 6) ++ scope))
  | .pf wn sn a s target => some (encLQ 0x25 wn sn 4 a s ((0 : BitVec 6) ++ target))
  | .tbinit wn sn a s imm => some (encLQ 0x26 wn sn 0 a s imm)
  | .tbarr wn sn a imm => some (encLQ 0x26 wn sn 1 a 0 imm)
  | .tbexp wn sn a s imm => some (encLQ 0x26 wn sn 2 a s imm)
  | .tbarrexp wn sn a s imm => some (encLQ 0x26 wn sn 3 a s imm)
  | .tbwait wn sn a s imm => some (encLQ 0x26 wn sn 4 a s imm)
  | .tbtest wn sn a imm => some (encLQ 0x26 wn sn 5 a 0 imm)
  | .amoAdd wn sn a s size scope acq rel ord => some (encAMO wn sn 0 a s size scope acq rel ord)
  | .amoAnd wn sn a s size scope acq rel ord => some (encAMO wn sn 1 a s size scope acq rel ord)
  | .amoOr wn sn a s size scope acq rel ord => some (encAMO wn sn 2 a s size scope acq rel ord)
  | .amoXor wn sn a s size scope acq rel ord => some (encAMO wn sn 3 a s size scope acq rel ord)
  | .amoMin wn sn a s size scope acq rel ord => some (encAMO wn sn 4 a s size scope acq rel ord)
  | .amoMax wn sn a s size scope acq rel ord => some (encAMO wn sn 5 a s size scope acq rel ord)
  | .amoMinu wn sn a s size scope acq rel ord => some (encAMO wn sn 6 a s size scope acq rel ord)
  | .amoMaxu wn sn a s size scope acq rel ord => some (encAMO wn sn 7 a s size scope acq rel ord)
  | .amoSwap wn sn a s size scope acq rel ord => some (encAMO wn sn 8 a s size scope acq rel ord)
  | .amoFadd wn sn a s scope acq rel ord => some (encAMO wn sn 9 a s false scope acq rel ord)
  | .amoFmin wn sn a s scope acq rel ord => some (encAMO wn sn 10 a s false scope acq rel ord)
  | .amoFmax wn sn a s scope acq rel ord => some (encAMO wn sn 11 a s false scope acq rel ord)
  | .cas wn sn a s new size => some (encCAS wn sn a s new size)
  | .tagnew wn sn => some (encLQ 0x29 wn sn 0 0 0 0)
  | .tagnewNb wn sn => some (encLQ 0x29 wn sn 1 0 0 0)
  | .tagret wn sn s wait => some (encLQ 0x29 wn sn 2 0 s ((0 : BitVec 7) ++ bit1 wait))
  | .ctxset wn sn s => some (encLQ 0x29 wn sn 3 0 s 0)
  | .xtagset wn sn s => some (encLQ 0x29 wn sn 4 0 s 0)
  | .stB wp sp a s imm => some (encSQ 0x30 wp sp 0 a s imm)
  | .stH wp sp a s imm => some (encSQ 0x30 wp sp 1 a s imm)
  | .stW wp sp a s imm => some (encSQ 0x30 wp sp 2 a s imm)
  | .stD wp sp a s imm => some (encSQ 0x30 wp sp 3 a s imm)
  | .relD wp sp a s scope => some (encSQ 0x30 wp sp 4 a s ((0 : BitVec 6) ++ scope))
  | .sv wp sp row col h1 w1 a => some (encV 0x31 wp false sp false row col h1 w1 a)
  | .stxW wp sp a s imm => some (encSQ 0x32 wp sp 0 a s imm)
  | .stxD wp sp a s imm => some (encSQ 0x32 wp sp 1 a s imm)
  | .rowcopy wp sp a imm => some (encSQ 0x33 wp sp 0 a 0 imm)
  | .rowfill wp sp a imm => some (encSQ 0x33 wp sp 1 a 0 imm)
  | .rowand wp sp a imm => some (encSQ 0x33 wp sp 2 a 0 imm)
  | .rowor wp sp a imm => some (encSQ 0x33 wp sp 3 a 0 imm)
  | .rowxor wp sp a imm => some (encSQ 0x33 wp sp 4 a 0 imm)
  | .rownot wp sp a imm => some (encSQ 0x33 wp sp 5 a 0 imm)
  | .rowmaj wp sp a imm => some (encSQ 0x33 wp sp 6 a 0 imm)
  | .patch tmpl field value => some (encPATCH tmpl field value)
  | .tx wp wn sp sn tmpl rep1 => some (encTX wp wn sp sn tmpl rep1)
  | _ => none

end Sys2Proof
end

