-- ==== Sys2Proof/Machine/Ops.lean ====
section
/-! DEFINITION. The named operations over the state that the meanings share: the core that acts, result queue and
loops, pending events, free choices, error records, and taking a trap and returning from it (R348 to R353). -/

namespace Sys2Proof.Machine

/-! ### The acting core -/

/-- The number of the core that acts. -/
abbrev State.cur (s : State) : Fin 96 := s.focus.core

/-- The unit of the core that acts. -/
abbrev State.actor (s : State) : Actor := s.focus.actor

/-- The core that acts. -/
def State.core (s : State) : Core := s.cores[s.cur]

/-- Replaces the core that acts. -/
def State.withCore (s : State) (c : Core) : State := { s with cores := s.cores.set s.cur c }

/-- Turns the machine's attention elsewhere. -/
def State.at (s : State) (f : Focus) : State := { s with focus := f }

/-- Turns to a unit of a core. -/
def State.onUnit (s : State) (i : Fin 96) (a : Actor) : State :=
  { s with focus := { s.focus with core := i, actor := a } }

/-- Runs an operation that speaks for the core `i`, and turns back. -/
def State.onCore (s : State) (i : Fin 96) (f : State → State) : State :=
  { f (s.onUnit i s.actor) with focus := s.focus }

/-- A core by number. -/
def coreOf (i : Nat) : Fin 96 := ⟨i % 96, Nat.mod_lt _ (by decide)⟩

/-- The action cannot proceed: nothing changes. -/
def State.hold (s : State) : State := { s with held := true }

/-- The present core cycle. -/
def State.now (s : State) : Nat := s.clock.cycle

/-- The die of a core (R2). -/
def dieOf (i : Nat) : Nat := i / 24

/-- The cluster half of a core (R2). -/
def clusterOf (i : Nat) : Nat := i / 12 % 2

/-! ### Free values (R12) -/

/-- A free choice between two outcomes; no choice is drawn where they are the same. -/
def State.choose {α : Type} [DecidableEq α] (s : State) (a b : α) : α × State :=
  if a = b then (a, s)
  else (if Config.choice s.free then a else b, { s with free := s.free + 1 })

/-- A free index below `k`; none is drawn where there is one outcome. -/
def State.pickBelow (s : State) (k : Nat) : Nat × State :=
  if k ≤ 1 then (0, s) else (Config.pick s.free % k, { s with free := s.free + 1 })

/-- A free 64-bit value. -/
def State.anyWord (s : State) : Word × State := (Config.freeWord s.free, { s with free := s.free + 1 })

/-! ### Pending events -/

/-- Inserts an event behind those that are due no later. -/
def agendaAdd (l : List Pending) (p : Pending) : List Pending :=
  match l with
  | [] => [p]
  | q :: rest => if p.due < q.due then p :: q :: rest else q :: agendaAdd rest p

/-- Makes an event happen at a cycle, for the units a focus names. -/
def State.postFor (s : State) (f : Focus) (t : Nat) (i : Instr) : State :=
  { s with agenda := agendaAdd s.agenda ⟨t, f, i⟩ }

/-- Makes an event happen at a cycle, for the present units. -/
def State.postAt (s : State) (t : Nat) (i : Instr) : State := s.postFor s.focus t i

/-- Makes an event happen before anything else of this cycle. -/
def State.post (s : State) (i : Instr) : State := s.postAt s.now i

/-- As `post`, unless the same event for the same units is already pending. -/
def State.postOnce (s : State) (i : Instr) : State :=
  if s.agenda.any (fun e => e.instr == i && e.focus == s.focus) then s else s.post i

/-! ### Error records (R6, R372) -/

/-- Room for a record in the internal log of 4,096 records: the oldest CE record goes first, else the oldest (R394). -/
def dropForRoom (l : List ErrRecord) : List ErrRecord :=
  if l.length < 4096 then l
  else match l.findIdx? (fun r => bitsAt r 72 8 == 1) with
    | some i => l.eraseIdx i
    | none => l.drop 1

/-- Appends an error record and lets the management controller write it out. -/
def State.record (s : State) (r : ErrRecord) : State :=
  ({ s with mgmt := { s.mgmt with internalLog := dropForRoom s.mgmt.internalLog ++ [r] } }).post .errorRecord

/-- The record of R372. -/
def errRecord (gts src cls tag pa detail : Nat) (injected : Bool) : ErrRecord :=
  BitVec.ofNat 256 (gts % 2 ^ 64 + (src % 256) * 2 ^ 64 + (cls % 256) * 2 ^ 72 + natOfBool injected * 2 ^ 80 +
    (tag % 2 ^ 16) * 2 ^ 96 + (pa % 2 ^ 57) * 2 ^ 128 + (detail % 2 ^ 64) * 2 ^ 192)

/-- Classes whose DETAIL the spec lays down: CANCEL, STRIKE and TERM (R372), and KILL, which has 0 (R379). -/
def detailKnown (cls : Nat) : Bool := cls == 3 || cls == 4 || cls == 5 || cls == 7

/-- Logs an error event (R372). DETAIL of a class for which nothing is laid down is a free value. -/
def State.report (s : State) (src cls tag pa detail : Nat) (injected : Bool := false) : State :=
  if detailKnown cls then s.record (errRecord s.clock.gts src cls tag pa detail injected)
  else s.anyWord.2.record (errRecord s.clock.gts src cls tag pa s.anyWord.1.toNat injected)

/-- Logs a CONTROL event of the Sluice (R372, class 0x0B). -/
def State.control! (s : State) : State := s.report 108 0x0B 0 0 0

/-! ### Result queue, loops, the flow of the sequencer -/

/-- The result queue after a push: every entry moves up by one and the last falls out (R73). -/
def pushQueue (q : Vector Word 16) (v : Word) : Vector Word 16 :=
  Vector.ofFn fun i : Fin 16 => if i.val = 0 then v else q[i.val - 1]

/-- What the present trap level uses (R351). -/
def Core.bank (c : Core) : Bank := if c.tl then c.bank1 else c.bank0

def Core.setBank (c : Core) (b : Bank) : Core := if c.tl then { c with bank1 := b } else { c with bank0 := b }

/-- Loops and return stack of the present trap level (R107). -/
def Core.level (c : Core) : SeqLevel := if c.tl then c.level1 else c.level0

def Core.setLevel (c : Core) (l : SeqLevel) : Core :=
  if c.tl then { c with level1 := l } else { c with level0 := l }

/-- Pushes a value into the result queue of the present trap level. -/
def Core.pushResult (c : Core) (v : Word) : Core := c.setBank { c.bank with resq := pushQueue c.bank.resq v }

/-- Writes an s-register where the destination code names one (R73). -/
def Core.setSreg (c : Core) (d : OpCode) (v : Word) : Core :=
  if h : d.toNat < 32 then { c with sregs := c.sregs.set d.toNat v h } else c

/-- WriteResult (R31). -/
def Core.writeResult (c : Core) (d : OpCode) (v : Word) : Core := (c.pushResult v).setSreg d v

/-- A loop level of a trap level; levels are numbered 0 to 3. -/
def SeqLevel.loopAt (l : SeqLevel) (k : Nat) : LoopLevel := l.loops.toList.getD k LoopLevel.zero

def SeqLevel.setLoop (l : SeqLevel) (k : Nat) (x : LoopLevel) : SeqLevel :=
  if h : k < 4 then { l with loops := l.loops.set k x h } else l

/-- The end step of R105 for the word at `p`, with `k` levels still to look at, innermost first: where the flow goes on,
and the loop state after it. -/
def SeqLevel.finish (l : SeqLevel) (p : Nat) : Nat → Nat × SeqLevel
  | 0 => (p + 4, { l with ldepth := 0 })
  | k + 1 =>
    if p = (l.loopAt k).last then
      if 1 < (l.loopAt k).rem then
        ((l.loopAt k).first,
          ({ l with ldepth := k + 1 }).setLoop k { l.loopAt k with rem := (l.loopAt k).rem - 1 })
      else l.finish p k
    else (p + 4, { l with ldepth := k + 1 })

/-- The flow after the word at `p` finishes in sequential flow (R105). -/
def Core.finishAt (c : Core) (p : Nat) : Core :=
  let r := c.level.finish p c.level.ldepth
  { c.setLevel r.2 with pc := r.1 }

/-- A word of the sequencer has finished: the flow goes on and the next word may begin `cost` cycles later (R94). -/
def Core.finish (c : Core) (now cost : Nat) : Core :=
  let c := c.finishAt c.pc
  { c with seq := { c.seq with ready := now + cost, waiting := false } }

/-- The word at the pc stands last in the body of an active level (R106). -/
def Core.atLoopEnd (c : Core) : Bool :=
  (List.range c.level.ldepth).any fun k => (c.level.loopAt k).last == c.pc

/-- The depth of active loops after a transfer from `p` to `t` (R106): a level whose body holds `p` and not `t` ends with
every inner level. -/
def SeqLevel.leave (l : SeqLevel) (p t : Nat) : SeqLevel :=
  match (List.range l.ldepth).find? (fun k =>
    decide ((l.loopAt k).first ≤ p ∧ p ≤ (l.loopAt k).last) &&
    !decide ((l.loopAt k).first ≤ t ∧ t ≤ (l.loopAt k).last)) with
  | some k => { l with ldepth := k }
  | none => l

/-! ### Queues -/

/-- Nothing is routed and unfinished on the core. -/
def Core.queuesEmpty (c : Core) : Bool :=
  c.queues.lq.isEmpty && c.queues.cq.isEmpty && c.queues.sq.isEmpty && c.queues.windows.isEmpty &&
    c.queues.unplaced.isEmpty

/-- The CQ holds entries until they have completed (R78). -/
def Core.cqHeld (c : Core) : Nat := c.queues.cq.length + c.queues.windows.length

/-- SCHED (R67). -/
def State.sched (s : State) (c : Core) : Nat := s.now - c.seq.start - c.seq.frozen

/-- The word an instruction is encoded as; events have none. -/
def wordOf (i : Instr) : IWord := (encode i).getD 0

/-- TRAPINFO of an ILLEGAL (R347): the word and the bits [33:32]. -/
def illegalInfo (w : IWord) (kind : Nat) : Word := BitVec.ofNat 64 (w.toNat + kind * 2 ^ 32)

/-! ### Items, sync groups and the stall wire (R51, R66, R69, R70) -/

/-- An item flag (R51): bits [5:0] are RELOAD, KEEPTAG, PREEMPT, LOG, GANG, DET from the top. -/
def Item.flag (it : Item) (k : Nat) : Bool := it.flags.getLsbD k
def Item.gang (it : Item) : Bool := it.flag 1
def Item.log (it : Item) : Bool := it.flag 2
def Item.preempt (it : Item) : Bool := it.flag 3

/-- A flag of the running item; false where no item runs. -/
def Core.itemFlag (c : Core) (f : Item → Bool) : Bool :=
  match c.item with
  | some it => f it
  | none => false

/-- Two cores run items of one sync group (R66). -/
def Core.fellow (a b : Core) : Bool :=
  match a.item, b.item with
  | some x, some y => x.flag 1 && y.flag 1 && x.group == y.group
  | _, _ => false

/-- Cause code XLATE (R347). -/
def causeXlate : Nat := 4

/-- A core has a fault that waits for its service, or for its trap (R69), or it waits for its turn in replay (R389). -/
def State.unserved (s : State) (i : Fin 96) : Bool := !(s.cores[i]).faults.isEmpty || s.order.waiting.contains (.atomic i)

/-- A declined fault has raised XLATE, and its trap has not been taken: it counts as served when the trap is (R69). -/
def Core.xlatPending (c : Core) : Bool :=
  match c.seq.trap with
  | some t => t.cause == causeXlate && t.info == 0
  | none => false

/-- Some core of the acting core's sync group meets a test (R66). -/
def State.groupAny (s : State) (p : Fin 96 → Bool) : Bool :=
  p s.cur || (s.core.itemFlag Item.gang && (List.finRange 96).any fun i => s.core.fellow s.cores[i] && p i)

/-- The stall wire of the core's sync group is asserted (R69). -/
def State.wire (s : State) : Bool := s.groupAny fun i => s.unserved i || (s.cores[i]).xlatPending

/-- The stall wire keeps the core's units from starting anything. A core whose own declined fault has raised a trap goes on until its
queues are still (R348), unless another fault of the group is unserved. Held units continue on the cycle after the one on which the wire
drops (R70). -/
def State.wireHolds (s : State) : Bool := if s.core.xlatPending then s.groupAny s.unserved else s.wire || s.core.seq.wired

/-! ### Traps (R347 to R353) -/

/-- The other cause codes of R347. -/
def causeIllegal : Nat := 1
def causeHazard : Nat := 2
def causeBreakdown : Nat := 3
def causeAlign : Nat := 5
def causeStack : Nat := 6
def causeSoftware : Nat := 7
def causePreempt : Nat := 8

/-- TRAPCAUSE of a raised trap. -/
def TrapReq.causeWord (t : TrapReq) : Word := BitVec.ofNat 64 (t.cause + t.src * 256)

/-- The clause buffer as CLAUSE0 to CLAUSE3 (R87). -/
def Clause.saved (k : Clause) : BitVec 256 :=
  BitVec.ofNat 256 (k.buf.toNat % 2 ^ 240 + k.tmpl.toNat * 2 ^ 240 + natOfBool k.valid * 2 ^ 255)

/-- The clause buffer that CLAUSE0 to CLAUSE3 stand for (R87). -/
def Clause.restored (x : BitVec 256) : Clause :=
  { buf := BitVec.ofNat 256 (x.toNat % 2 ^ 240), valid := x.getLsbD 255, tmpl := x.extractLsb' 240 6 }

/-- An entry set aside by trap entry: it executes afresh later. Tokens it has taken stay taken. -/
def QEntry.afresh (e : QEntry) : QEntry :=
  match e.state with
  | .stopped b => { e with state := if b then .again else .waiting }
  | .begun => { e with state := .again }
  | _ => e

/-- The address at which the flow resumes after a trap (R351). -/
def TrapReq.resumeAt (t : TrapReq) (c : Core) : Nat :=
  match t.flow with
  | some f => f.1
  | none => t.pc.getD c.pc

/-- The word of a trap finishes as the trap is taken: its end step (R105, R111) and, for an interrupt, its request (R358). -/
def Core.settleTrap (c : Core) (t : TrapReq) : Core :=
  let c := match t.flow with
    | some f => c.setLevel f.2
    | none => c
  if t.cause = causePreempt then { c with irq := false } else c

/-- Trap entry (R351) of a core whose queues are still. -/
def Core.enterTrap (c : Core) (t : TrapReq) (trapvec : Nat) : Core :=
  let c := c.settleTrap t
  { c with
    queues := { c.queues with
      parkL := c.queues.lq.map QEntry.afresh, parkC := (c.queues.cq ++ c.queues.unplaced).map QEntry.afresh,
      parkS := c.queues.sq.map QEntry.afresh, lq := [], cq := [], sq := [], unplaced := [] }
    trapRegs := { cause := t.causeWord, info := t.info, pc := BitVec.ofNat 64 (t.resumeAt c % 2 ^ 18 / 4 * 4),
                  va := t.va.getD c.trapRegs.va, clause := c.clause.saved }
    clause := { c.clause with valid := false }
    bank1 := { c.bank1 with loads := [], tok := Tokens.zero }
    level1 := SeqLevel.empty
    tl := true
    pc := trapvec
    seq := { c.seq with trap := none, mode := .run, waiting := false } }

/-- The trap record of a TERM event (R372). -/
def termRecord (gts src : Nat) (t : TrapReq) (pc : Nat) (va : Word) (tag : Nat) : ErrRecord :=
  BitVec.ofNat 256 (gts % 2 ^ 64 + (src % 256) * 2 ^ 64 + 0x07 * 2 ^ 72 + (tag % 2 ^ 16) * 2 ^ 96 +
    va.toNat * 2 ^ 128 +
    (t.cause % 256 + (t.src % 8) * 2 ^ 8 + (pc / 4 % 2 ^ 16) * 2 ^ 12 + (t.info.toNat % 2 ^ 34) * 2 ^ 30) * 2 ^ 192)

/-- The cycle from which a word may begin where the one at the pc is given up: what a `waitsc` waited for counts no more (R94, R115). -/
def SeqState.free (q : SeqState) : Nat := if q.waiting then 0 else q.ready

/-- The acting core's atomic, set aside or abandoned, holds for no turn in replay (R351, R389). -/
def State.letGo (s : State) : State :=
  { s with order := { s.order with waiting := s.order.waiting.filter (· != .atomic s.cur) } }

/-- A trap is taken (R351), or ends the item where no handler can take it (R352). -/
def State.takeTrap (s : State) (t : TrapReq) : State :=
  let c := s.core
  match c.image with
  | some img =>
    if img.handler && !c.tl then
      (s.withCore { c.enterTrap t img.trapvec with
        seq := { (c.enterTrap t img.trapvec).seq with ready := max c.seq.free (s.now + 1) } }).letGo
    else
      ((s.withCore { c with seq := { c.seq with trap := none } }).record
        (termRecord s.clock.gts s.cur.val t (t.resumeAt c) (t.va.getD c.trapRegs.va) c.sys.ctx.toNat)).post
        (.termination s.cur 0x02 (if t.cause = causeXlate then 0x00 else 0x05))
  | none =>
    ((s.withCore { c with seq := { c.seq with trap := none } }).record
      (termRecord s.clock.gts s.cur.val t (t.resumeAt c) (t.va.getD c.trapRegs.va) c.sys.ctx.toNat)).post
      (.termination s.cur 0x02 (if t.cause = causeXlate then 0x00 else 0x05))

/-- A trap is raised by a word of the sequencer (R348): it is taken at once where nothing is in the queues and the stall wire is not
asserted, and otherwise as soon as they are still and the wire has dropped. -/
def State.raise (s : State) (t : TrapReq) : State :=
  if s.core.queuesEmpty && !s.wire then s.takeTrap t
  else s.withCore { s.core with seq := { s.core.seq with trap := some { t with wired := s.wire } } }

/-- A trap of the sequencer at the word at the pc. -/
def State.raiseSeq (s : State) (cause : Nat) (info : Word) : State :=
  s.raise { src := 0, cause := cause, info := info, va := none, pc := some s.core.pc, flow := none, order := s.core.queues.order,
            cycle := s.now }

/-- A trap raised by the head of a queue (R348): of traps raised on one cycle the one routed earlier is taken, before any
of the sequencer, whose word has changed nothing yet and begins again after `eret`; a trap raised later is not taken, and its
instruction stays unexecuted. -/
def State.raiseQueue (s : State) (t : TrapReq) : State :=
  let put (s : State) : State := s.withCore { s.core with seq := { s.core.seq with trap := some { t with wired := s.wire } } }
  match s.core.seq.trap with
  | none => put s
  | some u => if u.cycle = s.now ∧ (u.src = 0 ∨ u.src = 4 ∨ t.order < u.order) then put s else s

/-- ILLEGAL at the sequencer (R77). -/
def State.illegal (s : State) (i : Instr) : State := s.raiseSeq causeIllegal (illegalInfo (wordOf i) 0)

/-- Return from a trap (R353) of a core whose level-1 queues are empty. -/
def Core.leaveTrap (c : Core) : Core :=
  { c with
    clause := Clause.restored c.trapRegs.clause
    bank1 := { c.bank1 with loads := [] }
    tl := false
    queues := { c.queues with
      lq := c.queues.parkL.take Config.lqDepth, cq := c.queues.parkC.take Config.cqDepth,
      sq := c.queues.parkS.take Config.sqDepth, unplaced := c.queues.parkC.drop Config.cqDepth,
      parkL := [], parkC := [], parkS := [] }
    pc := bitsAt c.trapRegs.pc 2 16 * 4 }

end Sys2Proof.Machine
end

