-- ==== Sys2Proof/Machine/Damage.lean ====
section
/-! DEFINITION. Errors in a core's own structures with parity (R367): where one is found, how it goes, and what the core's consumption of an
error brings about (R369, R375). -/

namespace Sys2Proof.Machine

/-! ### Parity errors (R367)

L1 and RO lines and IMEM hold only what a miss would return again (R276), so that an error there changes no value: the model's reads of
the L1 and of the RO cache may find any line gone. -/

/-- Structures of a core: an accumulator cell by bank × 16,384 + cell, a feed word by feed × 8,192 + place, a queue entry by its place in
routing order, a template and a binding by number, the clause buffer, a load-return entry by trap level × 64 + place, a TLB entry by page. -/
def partAcc : Nat := 0
def partFeed : Nat := 1
def partQueue : Nat := 2
def partTemplate : Nat := 3
def partBinding : Nat := 4
def partClause : Nat := 5
def partLoads : Nat := 6
def partTlb : Nat := 7

/-- The error that a read of the entries `[lo, lo + n)` of a structure finds, and whether it was injected. -/
def Core.damageIn (c : Core) (part lo n : Nat) : Option Bool :=
  (c.damage.find? fun d => d.place == part && decide (lo ≤ d.key ∧ d.key < lo + n)).map (·.injected)

/-- A write of whole entries removes their errors. -/
def Core.mend (c : Core) (part lo n : Nat) : Core :=
  { c with damage := c.damage.filter fun d => !(d.place == part && decide (lo ≤ d.key ∧ d.key < lo + n)) }

/-- The first `n` entries from `lo` on leave a first-in, first-out structure of `size` entries, and those behind move up. -/
def Core.shiftDamage (c : Core) (part lo size n : Nat) : Core :=
  { c.mend part lo n with damage := (c.mend part lo n).damage.map fun d =>
      if d.place = part ∧ lo ≤ d.key ∧ d.key < lo + size then { d with key := d.key - n } else d }

/-- The first place of the load-return queue of the present trap level. -/
def Core.loadsBase (c : Core) : Nat := if c.tl then 64 else 0

/-- A value enters the load-return queue. -/
def Core.pushLoad (c : Core) (v : Word) : Core :=
  (c.mend partLoads (c.loadsBase + c.bank.loads.length) 1).setBank { c.bank with loads := c.bank.loads ++ [v] }

/-! ### Consumption (R369, R375) -/

/-- The head of a queue that has begun completes; everything else routed in the phase is discarded. -/
def keepBegun (l : List QEntry) : List QEntry := (l.take 1).filter fun e => e.state == .begun

/-- The open phase is cancelled: routing stops, and `phb` is executed again once what executes has completed. -/
def Core.cancelPhase (c : Core) : Core :=
  match c.phase with
  | none => c
  | some r =>
    { c with
      phase := some { r with cancelled := true }
      tl := false
      pc := r.restart
      seq := { c.seq with mode := .run, ready := c.seq.free, waiting := false, trap := none }
      queues := { c.queues with
        lq := keepBegun c.queues.lq, cq := [], sq := keepBegun c.queues.sq, unplaced := [], parkL := [], parkC := [],
        parkS := [] } }

/-- A termination has begun on the core (R381). -/
def Core.isEnding (c : Core) : Bool :=
  match c.seq.mode with
  | .ending _ _ => true
  | _ => false

/-- Whether a core's phase may be cancelled: one is open and not yet cancelled. -/
def Core.phaseOpen (c : Core) : Bool :=
  match c.phase with
  | some r => !r.cancelled
  | none => false

/-- Cancels the open phase of the core that acts and of its fellows in its sync group. -/
def State.cancelGroup (s : State) : State :=
  let me := s.core
  let s := s.withCore me.cancelPhase
  { s with cores := s.cores.map fun c => if me.fellow c && c.phaseOpen then c.cancelPhase else c }

/-- An uncorrectable error in a core's own array has been consumed (R369): at trap level 0 with a phase open the phase is
cancelled, for the third time with the end of the item; else the item ends with UE. An item that is ending already has its outcome (R381). -/
def State.consumed (s : State) (injected : Bool) : State :=
  let c := s.core
  let ends (s : State) : State :=
    (s.report s.cur.val 0x07 c.sys.ctx.toNat 0 0xFF injected).post (.termination s.cur 0x03 0)
  if c.isEnding then s
  else if c.phaseOpen && !c.tl then
    let n := c.cancels.2 + 1
    let s := (s.withCore { c with cancels := (c.cancels.1, n) }).report s.cur.val 0x03 c.sys.ctx.toNat 0 n injected
    if n < 3 then s.cancelGroup else ends s
  else if c.phase.isSome && !c.tl then s
  else ends s

end Sys2Proof.Machine
end

