-- ==== Sys2Proof/Machine/Operands.lean ====
section
/-! DEFINITION. The operand forms: operand codes (R72, R74), the shapes of sequencer words (R94, R95), and the capture
of operands of queue-class words. -/

namespace Sys2Proof.Machine

/-- What reading operands gives: values with the core after the pops of `%ld`, a stall on an empty load-return queue,
a reserved code (R31), or an error in the load-return queue (R367). -/
inductive Reads where
  | ok (vs : List Word) (c : Core)
  | stall
  | illegal
  | bad (injected : Bool)
  deriving DecidableEq, Repr

/-- ReadOperand (R31, R72) on the core `id`. -/
def Core.readOperand (c : Core) (id : Nat) (code : OpCode) : Reads :=
  if h : code.toNat < 32 then .ok [c.sregs[code.toNat]] c
  else if h2 : code.toNat < 48 then .ok [c.bank.resq[code.toNat - 32]] c
  else if code.toNat = 48 then
    match c.bank.loads with
    | [] => .stall
    | v :: rest =>
      match c.damageIn partLoads c.loadsBase 1 with
      | some inj => .bad inj
      | none => .ok [v] ((c.shiftDamage partLoads c.loadsBase 64 1).setBank { c.bank with loads := rest })
  else if code.toNat = 49 then .ok [0] c
  else if code.toNat = 50 then .ok [1] c
  else if code.toNat = 51 then .ok [BitVec.allOnes 64] c
  else if code.toNat = 52 then .ok [BitVec.ofNat 64 id] c
  else if code.toNat = 53 then .ok [BitVec.zeroExtend 64 c.sys.ctx] c
  else .illegal

/-- Reads the operand fields of one word in their order (R72). -/
def Core.readAll (c : Core) (id : Nat) : List OpCode → Reads
  | [] => .ok [] c
  | k :: ks =>
    match c.readOperand id k with
    | .ok vs c' =>
      match c'.readAll id ks with
      | .ok ws c'' => .ok (vs ++ ws) c''
      | r => r
    | r => r

/-- The first value read. -/
def arg0 (vs : List Word) : Word := vs.getD 0 0

/-- The second value read. -/
def arg1 (vs : List Word) : Word := vs.getD 1 0

/-- The value at place `n` among those read. -/
def argN (vs : List Word) (n : Nat) : Word := vs.getD n 0

/-- A sequencer word that reads the operands of `codes`, and where they can be read goes on with `f`. It stalls without
any effect while `%ld` is empty (R72), a reserved code traps ILLEGAL (R77), and an error in the load-return queue is consumed (R369). -/
def withOperands (s : State) (i : Instr) (codes : List OpCode) (f : List Word → Core → State) : State :=
  match s.core.readAll s.cur.val codes with
  | .ok vs c => f vs c
  | .stall => s.hold
  | .illegal => s.illegal i
  | .bad inj => s.consumed inj

/-- A word with a result (R73): a destination code of 32 to 62 traps ILLEGAL; else the result is pushed and written and
the flow goes on after `cost` cycles. -/
def resultWord (s : State) (i : Instr) (d : OpCode) (cost : Nat) (v : Word) (c : Core) : State :=
  if okDst d then s.withCore ((c.writeResult d v).finish s.now cost) else s.illegal i

/-- A two-operand function of the sequencer (R95, R96). -/
def alu2 (s : State) (i : Instr) (d a b : OpCode) (cost : Nat) (f : Word → Word → Word) :
    Host.Outcome State Fault Refusal :=
  .next (withOperands s i [a, b] fun vs c => resultWord s i d cost (f (arg0 vs) (arg1 vs)) c)

/-- A one-operand function of the sequencer. -/
def alu1 (s : State) (i : Instr) (d a : OpCode) (cost : Nat) (f : Word → Word) : Host.Outcome State Fault Refusal :=
  .next (withOperands s i [a] fun vs c => resultWord s i d cost (f (arg0 vs)) c)

/-- A word that produces nothing and flows on (R73). -/
def plainWord (s : State) (c : Core) (cost : Nat) : State := s.withCore (c.finish s.now cost)

/-- sext(x, n) of R31. -/
def sextN (n : Nat) (x : BitVec n) : Word := x.signExtend 64

end Sys2Proof.Machine
end

