-- ==== Sys2Proof/Machine/Flags.lean ====
section
/-! DEFINITION. The flag computations: the sticky IEEE flags of FSTAT (R101, R102, R181) and the scalar floating-point
functions that raise them. -/

namespace Sys2Proof.Machine

/-- The flags of FSTAT [4:0] (R181). -/
structure FpFlags where
  nv : Bool
  dz : Bool
  ovf : Bool
  unf : Bool
  nx : Bool
  deriving DecidableEq, Repr

def FpFlags.none : FpFlags := ⟨false, false, false, false, false⟩

def FpFlags.or (a b : FpFlags) : FpFlags := ⟨a.nv || b.nv, a.dz || b.dz, a.ovf || b.ovf, a.unf || b.unf, a.nx || b.nx⟩

/-- The flags as FSTAT [4:0]. -/
def FpFlags.bits (f : FpFlags) : Nat :=
  natOfBool f.nv + 2 * natOfBool f.dz + 4 * natOfBool f.ovf + 8 * natOfBool f.unf + 16 * natOfBool f.nx

/-- ORs flags into FSTAT (R101). -/
def Core.raiseFlags (c : Core) (f : FpFlags) : Core :=
  { c with factor := { c.factor with fstat := c.factor.fstat ||| BitVec.ofNat 64 f.bits } }

/-- A signalling NaN of binary32. -/
def isSignalling (x : Nat) : Bool := bitsOf x 30 23 == 255 && x % 2 ^ 23 != 0 && !bitOf x 22

/-- binary32 with its exponent range widened: the format in which tininess after rounding is judged (R101). -/
def fp32Wide : FFmt := ⟨12, 23, 2047, true⟩

/-- One RNE rounding to binary32 with its flags (R101). -/
def fp32Round (x : Num) : Nat × FpFlags :=
  let r := fp32.round rcRNE 0 0 x
  let inexact := match x, r with
    | .fin .., .over _ => true
    | .fin .., .fin s m q => !(Num.eqv x (.fin s m q))
    | _, _ => false
  let tooBig := match x, r with
    | .fin .., .over _ => true
    | _, _ => false
  let tiny := !x.isZero && ((fp32Wide.round rcRNE 0 0 x).num.abs).lt (.fin false 1 (-126))
  (fp32.encode false r, { FpFlags.none with nx := inexact, ovf := tooBig, unf := inexact && tiny })

/-- The 32 bits of an operand that the falu functions read (R101). -/
def low32 (x : Word) : Nat := x.toNat % 2 ^ 32

/-- A binary32 result, zero-extended (R101). -/
def fpWord (x : Nat) : Word := BitVec.ofNat 64 x

/-- The invalid flag of an arithmetic function: a signalling operand, or a NaN that no NaN operand caused. -/
def invalidOf (signal : Bool) (anyNaN : Bool) (r : Num) : Bool := signal || (r.isNaN && !anyNaN)

/-- fadd, fsub and fmul over an exact function. -/
def fpArith (f : Num → Num → Num) (x y : Word) : Word × FpFlags :=
  let a := fp32.decode (low32 x)
  let b := fp32.decode (low32 y)
  let r := f a b
  let out := fp32Round r
  (fpWord out.1, out.2.or { FpFlags.none with
    nv := invalidOf (isSignalling (low32 x) || isSignalling (low32 y)) (a.isNaN || b.isNaN) r })

/-- fdiv: a finite non-zero dividend over zero raises DZ (R102). -/
def fpDiv (x y : Word) : Word × FpFlags :=
  let a := fp32.decode (low32 x)
  let b := fp32.decode (low32 y)
  let out := fpArith Num.div x y
  (out.1, out.2.or { FpFlags.none with dz := !a.isNaN && !a.isInf && !a.isZero && b.isZero })

/-- fsqrt (R102). -/
def fpSqrt (x : Word) : Word × FpFlags :=
  let a := fp32.decode (low32 x)
  let out := fp32Round a.sqrt
  (fpWord out.1, out.2.or { FpFlags.none with nv := invalidOf (isSignalling (low32 x)) a.isNaN a.sqrt })

/-- fmin and fmax: the chosen operand's bits, or the canonical NaN when both are NaN (R102). -/
def fpPick (larger : Bool) (x y : Word) : Word × FpFlags :=
  let a := fp32.decode (low32 x)
  let b := fp32.decode (low32 y)
  let takeY := if a.isNaN then true else if b.isNaN then false
    else if larger then a.lt b || (!b.lt a && a.negative) else b.lt a || (!a.lt b && b.negative)
  let v := if a.isNaN && b.isNaN then fp32.nanBits else if takeY then low32 y else low32 x
  (fpWord v, { FpFlags.none with nv := isSignalling (low32 x) || isSignalling (low32 y) })

/-- feq, flt and fle (R102). -/
def fpCompare (quiet : Bool) (f : Num → Num → Bool) (x y : Word) : Word × FpFlags :=
  let a := fp32.decode (low32 x)
  let b := fp32.decode (low32 y)
  let unordered := a.isNaN || b.isNaN
  (wordOfBool (!unordered && f a b),
    { FpFlags.none with nv := if quiet then isSignalling (low32 x) || isSignalling (low32 y) else unordered })

/-- fcvtfi: RNE to INT64, clamped by sign; NaN gives 0 (R102). -/
def fpToInt (x : Word) : Word × FpFlags :=
  match fp32.decode (low32 x) with
  | .nan => (0, { FpFlags.none with nv := true })
  | .inf s => (wordOfInt (if s then -(2 ^ 63 : Nat) else (2 ^ 63 : Nat) - 1), { FpFlags.none with nv := true })
  | .fin s m e =>
    let k := (roundInt rcRNE 0 0 (.fin s m e)).getD 0
    if k < -((2 ^ 63 : Nat) : Int) then (wordOfInt (-((2 ^ 63 : Nat) : Int)), { FpFlags.none with nv := true })
    else if ((2 ^ 63 : Nat) : Int) - 1 < k then (wordOfInt ((2 ^ 63 : Nat) - 1), { FpFlags.none with nv := true })
    else (wordOfInt k, { FpFlags.none with nx := !Num.eqv (.fin s m e) (numOfInt k) })

/-- fcvtif: RNE of a signed 64-bit integer (R102). -/
def fpOfInt (x : Word) : Word × FpFlags :=
  let out := fp32Round (numOfInt x.toInt)
  (fpWord out.1, out.2)

/-- A two-operand falu word (R101): result, flags, and no trap. -/
def falu2 (s : State) (i : Instr) (d a b : OpCode) (cost : Nat) (f : Word → Word → Word × FpFlags) :
    Host.Outcome State Fault Refusal :=
  .next (withOperands s i [a, b] fun vs c =>
    resultWord s i d cost (f (arg0 vs) (arg1 vs)).1 (c.raiseFlags (f (arg0 vs) (arg1 vs)).2))

/-- A one-operand falu word. -/
def falu1 (s : State) (i : Instr) (d a : OpCode) (cost : Nat) (f : Word → Word × FpFlags) :
    Host.Outcome State Fault Refusal :=
  .next (withOperands s i [a] fun vs c =>
    resultWord s i d cost (f (arg0 vs)).1 (c.raiseFlags (f (arg0 vs)).2))

end Sys2Proof.Machine
end

