-- ==== Sys2Proof/Machine/Records.lean ====
section
/-! DEFINITION. Wide-operation records (R81 to R84, R88) and the checks that vector operations make on theirs (R134,
R135, R149, R152 to R160). -/

namespace Sys2Proof.Machine

/-! ### Fields (R81, R82) -/

abbrev Rec := BitVec 256

def Rec.wop (r : Rec) : Nat := bitsAt r 0 8
def Rec.lat (r : Rec) : Nat := if bitsAt r 8 8 = 0 then 256 else bitsAt r 8 8
/-- Descriptors by place: 0 D, 1 A, 2 B, 3 C. -/
def Rec.desc (r : Rec) (i : Nat) : Nat := bitsAt r (16 + 24 * i) 24
def Rec.h (r : Rec) : Nat := bitsAt r 112 5 + 1
def Rec.w (r : Rec) : Nat := bitsAt r 117 5 + 1
def Rec.fmtD (r : Rec) : Nat := bitsAt r 122 5
def Rec.fmtA (r : Rec) : Nat := bitsAt r 127 5
def Rec.fmtB (r : Rec) : Nat := bitsAt r 132 5
def Rec.rnd (r : Rec) : Nat := bitsAt r 137 3
def Rec.sat (r : Rec) : Bool := r.getLsbD 140
/-- Last-read marks by place: 1 A, 2 B, 3 C. -/
def Rec.last (r : Rec) (i : Nat) : Bool := r.getLsbD (140 + i)
def Rec.imm (r : Rec) : Nat := bitsAt r 144 32
def Rec.ops (r : Rec) : Nat := bitsAt r 176 64
def Rec.op (r : Rec) (lo n : Nat) : Nat := bitsAt r (176 + lo) n

/-- KIND of a descriptor: 0 VRF block, 1 port, 2 scalar broadcast, 3 none or immediate. -/
def descKind (d : Nat) : Nat := d / 2 ^ 22 % 4
def descRow (d : Nat) : Nat := d / 2 ^ 17 % 32
def descCol (d : Nat) : Nat := d / 2 ^ 12 % 32
def descPort (d : Nat) : Nat := d / 2 ^ 12 % 8
def descSel (d : Nat) : Nat := d % 64

/-- The number of registers of the extent. -/
def Rec.regs (r : Rec) : Nat := r.h * r.w

/-- VRF register numbers of a block of a given origin and extent, in block order (R133). -/
def blockRegs (row col h w : Nat) : List Nat := (List.range (h * w)).map fun k => (row + k / w) * 32 + col + k % w

/-- VRF register numbers of a descriptor of kind 00. -/
def Rec.block (r : Rec) (i : Nat) : List Nat := blockRegs (descRow (r.desc i)) (descCol (r.desc i)) r.h r.w

/-! ### Formats (R117) -/

def fmtFloat (c : Nat) : Bool := decide (c < 5)
def fmtInt (c : Nat) : Bool := decide (6 ≤ c ∧ c ≤ 10)
def fmtQ4 (c : Nat) : Bool := c == 5
/-- Element width in bits; 0 for a reserved code. -/
def fmtWidth (c : Nat) : Nat := match elemOf c with
  | some e => e.width
  | none => 0
/-- A format that is listed and not Q4. -/
def fmtPlain (c : Nat) : Bool := fmtFloat c || fmtInt c
/-- Lanes per register (R135). -/
def fmtLanes (c : Nat) : Nat := match fmtWidth c with
  | 32 => 1024
  | 16 => 2048
  | _ => 4096

/-! ### Checks common to every record (R82, R83, R88) -/

/-- The reserved bits of a descriptor are zero, and a scalar broadcast names a legal operand code. -/
def descOk (d : Nat) : Bool :=
  d / 64 % 64 == 0 &&
  match descKind d with
  | 0 => d % 64 == 0
  | 1 => d / 2 ^ 15 % 128 == 0 && d % 64 == 0
  | 2 => d / 2 ^ 12 % 1024 == 0 && decide (descSel d ≤ 53)
  | _ => d / 2 ^ 12 % 1024 == 0 && d / 2 % 32 == 0

/-- A block of kind 00 stays on the grid (R83). -/
def Rec.blockOk (r : Rec) (i : Nat) : Bool :=
  descKind (r.desc i) != 0 || decide (descRow (r.desc i) + r.h ≤ 32 ∧ descCol (r.desc i) + r.w ≤ 32)

/-- What every record meets (R88). -/
def Rec.commonOk (r : Rec) : Bool :=
  bitsAt r 240 16 == 0 && (List.range 4).all (fun i => descOk (r.desc i) && r.blockOk i) &&
    decide (r.h ≤ 8 ∧ r.w ≤ 8) && r.rnd != 7 &&
    [1, 2, 3].all fun i => !r.last i || decide (descKind (r.desc i) < 2)

/-- An operand that is not used is "none" (R134). -/
def Rec.noneAt (r : Rec) (i : Nat) : Bool := r.desc i == 3 * 2 ^ 22 && !r.last i

/-- A used source is given. -/
def Rec.given (r : Rec) (i : Nat) : Bool := !(descKind (r.desc i) == 3 && descSel (r.desc i) == 0)

/-- Whether each source is used as a vector operation says, and D is a block or a port (R134). -/
def Rec.uses (r : Rec) (a b c : Bool) : Bool :=
  decide (descKind (r.desc 0) < 2) && (if a then r.given 1 else r.noneAt 1 && r.fmtA == 0) &&
    (if b then r.given 2 else r.noneAt 2 && r.fmtB == 0) && (if c then r.given 3 else r.noneAt 3)

/-! ### Vector operations -/

/-- The one-source operations of block 0x00 (R149). -/
def fpUnary (w : Nat) : Bool := decide (7 ≤ w ∧ w ≤ 14)

/-- The ratio of lane counts of a conversion (R135). -/
def convRatio (a d : Nat) : Nat := max (fmtLanes a) (fmtLanes d) / min (fmtLanes a) (fmtLanes d)

/-- The checks of block 0x00 (R149). -/
def Rec.fpOk (r : Rec) : Bool :=
  let w := r.wop
  fmtFloat r.fmtD && fmtFloat r.fmtA && fmtWidth r.fmtA == fmtWidth r.fmtD && r.ops == 0 &&
    (if fpUnary w then r.uses true false false
     else fmtFloat r.fmtB && fmtWidth r.fmtB == fmtWidth r.fmtD && r.uses true true (w == 3 || w == 4))

/-- The checks of block 0x20 (R152). -/
def Rec.intOk (r : Rec) : Bool :=
  match r.wop with
  | 0x26 => fmtInt r.fmtD && fmtInt r.fmtA && fmtWidth r.fmtA == fmtWidth r.fmtD && r.ops == 0 && r.uses true false false
  | 0x2E => fmtInt r.fmtD && fmtPlain r.fmtA && r.fmtA == r.fmtB && fmtWidth r.fmtA == fmtWidth r.fmtD &&
      decide (r.ops ≤ 5) && r.uses true true false
  | 0x2F => fmtPlain r.fmtD && r.fmtA == r.fmtD && r.fmtB == r.fmtD && r.ops == 0 && r.uses true true true
  | _ => fmtInt r.fmtD && fmtInt r.fmtA && fmtInt r.fmtB && fmtWidth r.fmtA == fmtWidth r.fmtD &&
      fmtWidth r.fmtB == fmtWidth r.fmtD && r.ops == 0 && r.uses true true false

/-- Both formats are floating point or both integer. -/
def sameClass (a d : Nat) : Bool := (fmtFloat a && fmtFloat d) || (fmtInt a && fmtInt d)

/-- The checks of block 0x40 (R153 to R160). -/
def Rec.moveOk (r : Rec) : Bool :=
  let lanes := fmtLanes r.fmtA
  let one := r.uses true false false
  let two := r.uses true true false
  match r.wop with
  | 0x40 | 0x41 | 0x42 => sameClass r.fmtA r.fmtD && r.ops == 0 && one
  | 0x43 => sameClass r.fmtA r.fmtD && fmtWidth r.fmtA == fmtWidth r.fmtD && r.ops == 0 && one
  | 0x44 => (fmtPlain r.fmtD || fmtQ4 r.fmtD) && r.fmtA == r.fmtD && r.ops == 0 && one
  | 0x45 => fmtPlain r.fmtD && r.fmtA == r.fmtD && decide (r.ops < lanes) && one &&
      (decide (descKind (r.desc 1) < 2) || r.ops == 0)
  | 0x46 => fmtPlain r.fmtD && r.fmtA == r.fmtD && fmtPlain r.fmtB && fmtWidth r.fmtB == fmtWidth r.fmtD &&
      decide (r.ops < lanes) && two
  | 0x47 => fmtPlain r.fmtD && r.fmtA == r.fmtD && fmtPlain r.fmtB && fmtWidth r.fmtB == fmtWidth r.fmtD &&
      decide (r.ops < lanes) && two && decide (2 ≤ descKind (r.desc 2))
  | 0x48 => fmtInt r.fmtD && decide (r.ops < 2 ^ 32) && r.uses false false false
  | 0x49 => fmtPlain r.fmtD && r.fmtA == r.fmtD && fmtInt r.fmtB && fmtWidth r.fmtB == fmtWidth r.fmtD && r.ops == 0 && two
  | 0x4A => fmtPlain r.fmtD && r.fmtA == r.fmtD && fmtInt r.fmtB && fmtWidth r.fmtB == fmtWidth r.fmtD && r.ops == 0 && two
  | 0x4B => fmtPlain r.fmtD && r.fmtA == r.fmtD && fmtWidth r.fmtD == 32 && r.regs == 16 && r.ops == 0 && one
  | 0x4C => fmtPlain r.fmtD && fmtPlain r.fmtA && decide (r.ops < convRatio r.fmtA r.fmtD) &&
      r.uses true false (r.rnd == 6)
  | 0x4D => fmtQ4 r.fmtD && decide (r.fmtA < 3) && decide (r.ops < 16) &&
      decide (r.op 2 2 < convRatio r.fmtA r.fmtD) && r.uses true false (r.rnd == 6)
  | 0x4E => fmtQ4 r.fmtA && decide (r.fmtD < 3) && decide (r.ops < convRatio r.fmtA r.fmtD) && r.uses true false false
  | _ => false

/-- The checks a vector operation makes on its record. -/
def Rec.vectorOk (r : Rec) : Bool :=
  if r.wop < 0x10 then r.fpOk
  else if 0x20 ≤ r.wop ∧ r.wop < 0x30 then r.intOk
  else if 0x40 ≤ r.wop ∧ r.wop < 0x4F then r.moveOk
  else false

/-- P and c_op of a vector operation (R149, R152 to R160). -/
def vecTiming (w : Nat) : Nat × Nat :=
  if w < 0x09 then (6, 1)
  else if w < 0x0F then (10, 4)
  else if w = 0x0F then (6, 1)
  else if w = 0x22 then (6, 1)
  else if w < 0x30 then (4, 1)
  else match w with
    | 0x40 | 0x41 | 0x42 => (14, 1)
    | 0x43 => (8, 2)
    | 0x49 => (8, 2)
    | 0x4A => (12, 1)
    | 0x4B => (8, 2)
    | 0x4C | 0x4D | 0x4E => (6, 1)
    | _ => (4, 1)

end Sys2Proof.Machine
end

