-- ==== Sys2Proof/Machine/Vector.lean ====
section
/-! DEFINITION. What vector operations compute (R149 to R160), as functions of the bytes of their operands. A register's
worth is a list of 4,096 bytes in the lane layout of R125. -/

namespace Sys2Proof.Machine

/-! ### Operands and lanes (R125, R134) -/

/-- The data of a source: registers' worths in block order, or one lane value for every lane. -/
inductive Src where
  | regs (l : List (List Byte))
  | lane (v : Nat)
  | absent
  deriving DecidableEq, Repr

/-- A register's worth of zero bits. -/
def zeroReg : List Byte := zeroBytes 4096

/-- The lanes of a register's worth in elements of `w` bits. -/
def lanesOf (w : Nat) (bs : List Byte) : List Nat := (chunks (w / 8) 4096 bs).map leNat

/-- A register's worth from its lanes. -/
def ofLanes (w : Nat) (ls : List Nat) : List Byte := ls.flatMap (leBytes (w / 8))

/-- The lanes of register `k` of a source. -/
def Src.lanes (s : Src) (w k : Nat) : List Nat :=
  match s with
  | .regs l => lanesOf w (l.getD k zeroReg)
  | .lane v => List.replicate (32768 / w) (v % 2 ^ w)
  | .absent => List.replicate (32768 / w) 0

/-- The bytes of register `k` of a source. -/
def Src.bytes (s : Src) (w k : Nat) : List Byte :=
  match s with
  | .regs l => l.getD k zeroReg
  | _ => ofLanes w (s.lanes w k)

/-- Register `k` of a Q4 source (R125): for a scalar or an immediate, bits [3:0] of its value as the code of every lane (R134), and a
scale byte that no rule gives, a free value of the operand (DESIGN CHOICE, log entry 50). -/
def Src.q4Bytes (s : Src) (k : Nat) : List Byte :=
  match s with
  | .regs l => l.getD k zeroReg
  | .lane v => List.replicate 2048 (BitVec.ofNat 8 (v % 16 * 17)) ++ List.replicate 128 (Config.q4Scale v) ++ zeroBytes 1920
  | .absent => zeroReg

/-- The exact value of a lane of a format. -/
def laneNum (fmt : Nat) (x : Nat) : Num := match elemOf fmt with
  | some e => e.value x
  | none => .nan

/-- The floating-point format of a code. -/
def floatOf (fmt : Nat) : FFmt := match elemOf fmt with
  | some (.flt f) => f
  | _ => fp32

/-- The integer format of a code. -/
def intOf (fmt : Nat) : IFmt := match elemOf fmt with
  | some (.int f) => f
  | _ => ⟨32, true⟩

/-! ### Floating point (R149, R150) -/

/-- 1/√x to at least 80 significant bits, its last bit standing for all that is cut off. -/
def rootInv (m : Nat) (e : Int) : Nat × Int :=
  let k0 := 2 * m.log2 + 160
  let k := if ((k0 : Int) + e) % 2 = 0 then k0 else k0 + 1
  let r := isqrt (2 ^ k / m)
  (2 * r + (if r * r * m = 2 ^ k then 0 else 1), -((k : Int) + e) / 2 - 1)

def Num.rsqrt : Num → Num
  | .nan => .nan
  | .inf s => if s then .nan else .fin false 0 0
  | .fin s m e =>
    if m = 0 then .inf s else if s then .nan else .fin false (rootInv m e).1 (rootInv m e).2

/-- a × 2^k with k the second operand truncated and clamped (R149). -/
def Num.scaleBy (a b : Num) : Num :=
  match b with
  | .nan => .nan
  | _ =>
    let k : Int := match b with
      | .inf s => if s then -2048 else 2048
      | b => clampInt (-2048) 2048 ((roundInt rcRTZ 0 0 b).getD 0)
    match a with
    | .fin s m e => .fin s m (e + k)
    | a => a

/-- One lane of block 0x00. -/
def fpLane (r : Rec) (a b c : Num) : Nat :=
  let f := floatOf r.fmtD
  let rdn := r.rnd == rcRDN
  let put (x : Num) : Nat := f.put r.rnd 0 16 r.sat x
  match r.wop with
  | 0x00 => put (a.add rdn b)
  | 0x01 => put (a.add rdn b.neg)
  | 0x02 => put (a.mul b)
  | 0x03 => put ((a.mul b).add rdn c)
  | 0x04 => put (c.add rdn (a.mul b).neg)
  | 0x05 => put (a.min b)
  | 0x06 => put (a.max b)
  | 0x07 => put a.abs
  | 0x08 => put a.neg
  | 0x09 => put (Num.div (.fin false 1 0) a)
  | 0x0A => put a.rsqrt
  | 0x0B => put a.sqrt
  | 0x0C => putExp2 f r.rnd r.sat a
  | 0x0D => putLog2 f r.rnd r.sat a
  | 0x0E => putTanh f r.rnd r.sat a
  | _ => put (a.scaleBy b)

/-- Three lists lane by lane. -/
def zip3 (f : Nat → Nat → Nat → Nat) : List Nat → List Nat → List Nat → List Nat
  | a :: as, b :: bs, c :: cs => f a b c :: zip3 f as bs cs
  | _, _, _ => []

/-! ### Integers, compare, select (R152) -/

/-- A predicate of `vcmp`. -/
def cmpHolds (pred : Nat) (lt eq unordered : Bool) : Bool :=
  match pred with
  | 0 => eq && !unordered
  | 1 => !eq || unordered
  | 2 => lt && !unordered
  | 3 => (lt || eq) && !unordered
  | 4 => !lt && !eq && !unordered
  | _ => !lt && !unordered

/-- One lane of block 0x20. -/
def intLane (r : Rec) (a b c : Nat) : Nat :=
  let w := fmtWidth r.fmtD
  let f := intOf r.fmtD
  let ia := (intOf r.fmtA).decode a
  let ib := (intOf r.fmtB).decode b
  let s := b % w
  match r.wop with
  | 0x20 => f.put r.sat (ia + ib)
  | 0x21 => f.put r.sat (ia - ib)
  | 0x22 => f.put r.sat (ia * ib)
  | 0x23 => a &&& b
  | 0x24 => a ||| b
  | 0x25 => a ^^^ b
  | 0x26 => (2 ^ w - 1) ^^^ a
  | 0x27 => (a <<< s) % 2 ^ w
  | 0x28 => a >>> s
  | 0x29 => wrapNat w (signedOf w a / (2 ^ s : Nat))
  | 0x2A => if signedOf w b < signedOf w a then b else a
  | 0x2B => if signedOf w a < signedOf w b then b else a
  | 0x2C => if b < a then b else a
  | 0x2D => if a < b then b else a
  | 0x2E =>
    let na := laneNum r.fmtA a
    let nb := laneNum r.fmtB b
    if cmpHolds r.ops (na.lt nb) (na.eqv nb) (na.isNaN || nb.isNaN) then 2 ^ w - 1 else 0
  | _ => if c = 0 then b else a

/-! ### Reductions (R153, R154) -/

/-- One level of the fixed binary tree. -/
def pairUp (f : Num → Num → Num) : List Num → List Num
  | a :: b :: rest => f a b :: pairUp f rest
  | l => l

/-- The fixed binary tree: `n` levels. -/
def treeOf (f : Num → Num → Num) : Nat → List Num → Num
  | 0, l => l.getD 0 .nan
  | n + 1, l => treeOf f n (pairUp f l)

/-- A node of `vrsum`: one rounding and one saturation. -/
def sumNode (r : Rec) (a b : Num) : Num :=
  let f := floatOf r.fmtD
  f.decode (f.put r.rnd 0 16 r.sat (a.add (r.rnd == rcRDN) b))

/-- The sum of integers. -/
def sumInts : List Int → Int
  | [] => 0
  | x :: xs => x + sumInts xs

/-- Lane 0 of a reduction of one register. -/
def reduceLanes (r : Rec) (ls : List Nat) : Nat :=
  let f := floatOf r.fmtD
  if fmtFloat r.fmtA then
    let ns := ls.map (laneNum r.fmtA)
    match r.wop with
    | 0x40 => f.put r.rnd 0 16 r.sat (treeOf (sumNode r) ls.length.log2 ns)
    | 0x41 => f.put r.rnd 0 16 r.sat (treeOf Num.max ls.length.log2 ns)
    | _ => f.put r.rnd 0 16 r.sat (treeOf Num.min ls.length.log2 ns)
  else
    let is := ls.map (intOf r.fmtA).decode
    match r.wop with
    | 0x40 => (intOf r.fmtD).put r.sat (sumInts is)
    | 0x41 => (intOf r.fmtD).put true (is.foldl (fun a b => if a < b then b else a) (is.getD 0 0))
    | _ => (intOf r.fmtD).put true (is.foldl (fun a b => if b < a then b else a) (is.getD 0 0))

/-- The running sum, floating point: `d` is the last result. -/
def runFloat (r : Rec) (d : Num) : List Nat → List Nat
  | [] => []
  | x :: xs =>
    let f := floatOf r.fmtD
    let v := f.put r.rnd 0 16 r.sat (d.add (r.rnd == rcRDN) (laneNum r.fmtA x))
    v :: runFloat r (f.decode v) xs

/-- The running sum, integers. -/
def runInts (r : Rec) (acc : Int) : List Nat → List Nat
  | [] => []
  | x :: xs =>
    let s := acc + (intOf r.fmtA).decode x
    (intOf r.fmtD).put r.sat s :: runInts r s xs

/-- `vcsum` of one register. -/
def runLanes (r : Rec) (ls : List Nat) : List Nat :=
  if fmtFloat r.fmtA then
    match ls with
    | [] => []
    | x :: xs =>
      let f := floatOf r.fmtD
      let v := f.put r.rnd 0 16 r.sat (laneNum r.fmtA x)
      v :: runFloat r (f.decode v) xs
  else runInts r 0 ls

/-! ### Movement (R155 to R157) -/

/-- The lanes that a mask keeps, in order. -/
def keepLanes : List Nat → List Nat → List Nat
  | a :: as, b :: bs => if b = 0 then keepLanes as bs else a :: keepLanes as bs
  | _, _ => []

/-- Element (m, e) of a 128 × 128 block of 32-bit elements lies at place 128 m + e of its lanes in block order (R157). -/
def transposed (ls : Array Nat) : List Nat :=
  (List.range 16384).map fun i => ls.getD (i % 128 * 128 + i / 128) 0

/-! ### Conversions (R158 to R160) -/

/-- Cv of R158. -/
def convLane (r : Rec) (a u : Nat) : Nat :=
  let x := laneNum r.fmtA a
  match elemOf r.fmtD with
  | some (.flt f) => f.put r.rnd (u % 2 ^ (Elem.flt f).srBits) (Elem.flt f).srBits r.sat x
  | some (.int f) => f.convert r.rnd (u % 2 ^ 8) 8 x
  | _ => 0

/-- Two lists lane by lane. -/
def zip2 (f : Nat → Nat → Nat) : List Nat → List Nat → List Nat
  | a :: as, b :: bs => f a b :: zip2 f as bs
  | _, _ => []

/-- One register of `vcvt`. -/
def convReg (r : Rec) (a c old : List Nat) : List Nat :=
  let la := fmtLanes r.fmtA
  let ld := fmtLanes r.fmtD
  let part := r.op 0 2
  if la ≤ ld then
    old.take (part * la) ++ zip2 (convLane r) a c ++ old.drop (part * la + la)
  else zip2 (convLane r) ((a.drop (part * ld)).take ld) ((c.drop (part * ld)).take ld)

/-- The largest code magnitude of a Q4 type (R159). -/
def q4Top (type : Nat) : Nat := match type with
  | 0 => 7
  | 1 => 6
  | 2 => 8
  | _ => 12

/-- The largest magnitude among finite values. -/
def maxMagnitude : List Num → Num
  | [] => .fin false 0 0
  | .fin s m e :: xs => (Num.fin s m e).abs.max (maxMagnitude xs)
  | _ :: xs => maxMagnitude xs

/-- The smallest exponent from `e` on that fits, with `n` candidates left (R159). -/
def q4Exp (type : Nat) (mx : Num) : Nat → Nat → Nat
  | 0, _ => 62
  | n + 1, e => if Num.lt (.fin false (q4Top type) ((e : Int) - 31)) mx then q4Exp type mx n (e + 1) else e

/-- A block of R159: its scale byte and its 32 codes. -/
def q4Block (r : Rec) (as us : List Nat) : Nat × List Nat :=
  let type := r.op 0 2
  let xs := as.map (laneNum r.fmtA)
  if xs.any Num.isNaN then (type * 64 + 63, xs.map fun _ => 0)
  else
    let e := q4Exp type (maxMagnitude xs) 63 0
    (type * 64 + e, List.zipWith (fun x u => q4Code type e r.rnd (u % 256) x) xs us)

/-- Codes packed two to a byte (R124). -/
def packCodes : List Nat → List Byte
  | a :: b :: rest => BitVec.ofNat 8 (a % 16 + 16 * (b % 16)) :: packCodes rest
  | _ => []

/-- One register of `vq4`. -/
def q4Reg (r : Rec) (a c : List Nat) (old : List Byte) : List Byte :=
  let blocks := List.zipWith (q4Block r) (chunks 32 128 a) (chunks 32 128 c)
  let first := r.op 2 2 * blocks.length
  old.take (16 * first) ++ blocks.flatMap (fun b => packCodes b.2) ++
    ((old.take 2048).drop (16 * (first + blocks.length))) ++
    ((old.drop 2048).take first) ++ blocks.map (fun b => BitVec.ofNat 8 b.1) ++
    (((old.drop 2048).take 128).drop (first + blocks.length)) ++ zeroBytes 1920

/-- Code `i` of a Q4 register. -/
def q4CodeAt (codes : List Byte) : List Nat := codes.flatMap fun b => [b.toNat % 16, b.toNat / 16]

/-- The values of one block of a Q4 register in the format of D (R160). -/
def dq4Block (r : Rec) (codes : List Nat) (scale : Byte) : List Nat :=
  codes.map fun c => (floatOf r.fmtD).put r.rnd 0 16 r.sat (q4Value scale.toNat c)

/-- One register of `vdq4`. -/
def dq4Reg (r : Rec) (a : List Byte) : List Nat :=
  let n := fmtLanes r.fmtD / 32
  let first := r.op 0 2 * n
  let blocks := ((chunks 32 128 (q4CodeAt (a.take 2048))).drop first).take n
  let scales := ((a.drop 2048).take 128 |>.drop first).take n
  (List.zipWith (dq4Block r) blocks scales).flatten

/-! ### The whole operation -/

/-- The registers' worths that D receives; `old` are D's registers before the operation, zero bits where D is a port. -/
def vecResult (r : Rec) (a b c : Src) (old : List (List Byte)) : List (List Byte) :=
  let wa := fmtWidth r.fmtA
  let wb := fmtWidth r.fmtB
  let wd := fmtWidth r.fmtD
  let each (f : Nat → List Byte) : List (List Byte) := (List.range r.regs).map f
  if r.wop < 0x10 then
    each fun k => ofLanes wd (zip3 (fun x y z => fpLane r (laneNum r.fmtA x) (laneNum r.fmtB y) (laneNum r.fmtD z))
      (a.lanes wa k) (b.lanes wd k) (c.lanes wd k))
  else if r.wop < 0x30 then
    each fun k => ofLanes wd (zip3 (intLane r) (a.lanes wd k) (b.lanes wd k) (c.lanes wd k))
  else match r.wop with
    | 0x40 | 0x41 | 0x42 =>
      each fun k => (leBytes (wd / 8) (reduceLanes r (a.lanes wa k)) ++ zeroReg).take 4096
    | 0x43 => each fun k => ofLanes wd (runLanes r (a.lanes wa k))
    | 0x44 => each fun k =>
        if fmtQ4 r.fmtD then (a.q4Bytes k).take 2176 ++ zeroBytes 1920 else a.bytes wd k
    | 0x45 => each fun k => ofLanes wd (List.replicate (fmtLanes r.fmtD) ((a.lanes wd k).getD r.ops 0))
    | 0x46 => each fun k => ofLanes wd (((a.lanes wd k ++ b.lanes wd k).drop r.ops).take (fmtLanes r.fmtD))
    | 0x47 => each fun k => ofLanes wd ((a.lanes wd k).set r.ops ((b.lanes wb k).getD 0 0))
    | 0x48 => each fun k => ofLanes wd ((List.range (fmtLanes r.fmtD)).map fun i =>
        (intOf r.fmtD).put r.sat (signedOf 32 r.ops + (k * fmtLanes r.fmtD + i : Nat)))
    | 0x49 => each fun k =>
        let ar := (a.lanes wd k).toArray
        ofLanes wd ((b.lanes wd k).map fun i => ar.getD (i % fmtLanes r.fmtA) 0)
    | 0x4A =>
      let kept := (List.range r.regs).flatMap fun k => keepLanes (a.lanes wd k) (b.lanes wd k)
      let all := kept ++ List.replicate (r.regs * fmtLanes r.fmtD - kept.length) 0
      (chunks (fmtLanes r.fmtD) r.regs all).map (ofLanes wd)
    | 0x4B =>
      let all := ((List.range 16).flatMap fun k => a.lanes 32 k).toArray
      (chunks 1024 16 (transposed all)).map (ofLanes 32)
    | 0x4C => each fun k => ofLanes wd (convReg r (a.lanes wa k) (c.lanes wa k) (lanesOf wd (old.getD k zeroReg)))
    | 0x4D => each fun k => q4Reg r (a.lanes wa k) (c.lanes wa k) (old.getD k zeroReg)
    | _ => each fun k => ofLanes wd (dq4Reg r (a.q4Bytes k))

/-- The survivor count of `vcompact` (R156). -/
def compactCount (r : Rec) (a b : Src) : Nat :=
  let w := fmtWidth r.fmtD
  ((List.range r.regs).map fun k => (keepLanes (a.lanes w k) (b.lanes w k)).length).foldl (· + ·) 0

end Sys2Proof.Machine
end

