-- ==== Sys2Proof/Machine/Matrix.lean ====
section
/-! DEFINITION. What the matrix array computes (R161 to R174): tiles, feed vectors, the order of sums, loads and drains, as
functions of banks and bytes. -/

namespace Sys2Proof.Machine

/-- The cells of a bank in tile order (R162). -/
def bankCells (b : Sparse 40) : List (BitVec 40) := peekN b 0 16384

/-- A bank from its cells in tile order. -/
def bankOf (cells : List (BitVec 40)) : Sparse 40 := entries 0 cells

/-- The value of a cell. -/
def cellNum (c : BitVec 40) : Num := xf40.decode c.toNat

/-- An exact value rounded to odd into a cell (R131). -/
def cellOf (x : Num) : BitVec 40 := BitVec.ofNat 40 (xf40.put rcODD 0 0 false x)

/-- Bytes of a tile in a format (R162). -/
def tileBytes (fmt : Nat) : Nat := 16384 * (fmtWidth fmt / 8)

/-- Registers of a tile in a format (R162). -/
def tileRegs (fmt : Nat) : Nat := tileBytes fmt / 4096

/-- The cells that `mload` writes for the bytes of a tile (R172). -/
def loadCells (fmt : Nat) (bs : List Byte) : List (BitVec 40) :=
  (chunks (fmtWidth fmt / 8) 16384 bs).map fun x => cellOf (laneNum fmt (leNat x))

/-- The bytes that `mdrain` writes: one rounding to nearest even of each cell (R131, R174). -/
def drainBytes (fmt : Nat) (sat : Bool) (cells : List (BitVec 40)) : List Byte :=
  cells.flatMap fun c => leBytes (fmtWidth fmt / 8) ((floatOf fmt).put rcRNE 0 0 sat (cellNum c))

/-- Cell depth (R130). -/
def cellDepth (fmt : Nat) : Nat :=
  match fmt with
  | 0 => 1
  | 1 | 2 => 4
  | 5 => 16
  | _ => 8

/-- Code or element bytes of a feed vector (R163). -/
def feedBytes (fmt : Nat) : Nat := if fmt = 0 then 512 else 1024

/-- The elements of one feed vector of a plain format. -/
def feedElems (fmt : Nat) (bs : List Byte) : List Num :=
  (chunks (fmtWidth fmt / 8) 1024 bs).map fun x => laneNum fmt (leNat x)

/-- The two feed vectors that one Q4 pop supplies (R163): the first and the last 16 codes of every block of 32. -/
def feedPair (codes scales : List Byte) : List Num × List Num :=
  let blocks := List.zipWith (fun (cs : List Nat) (sc : Byte) => cs.map (q4Value sc.toNat))
    (chunks 32 128 (q4CodeAt codes)) scales
  ((blocks.map (·.take 16)).flatten, (blocks.map (·.drop 16)).flatten)

/-- The group sum over positions `m` to `m + 2^k − 1` (R130): every node is rounded to odd in XF40, a leaf is not rounded. -/
def groupSum (p : Nat → Num) : Nat → Nat → Num
  | 0, m => p m
  | k + 1, m => toXf40 ((groupSum p k m).add false (groupSum p k (m + 2 ^ k)))

/-- The position of element b(m, j) in a feed vector of B (R163). -/
def posB (tb : Bool) (d m j : Nat) : Nat := if tb then j * d + m else 128 * m + j

/-- One group enters a cell (R131). -/
def groupStep (d : Nat) (tb : Bool) (va vb : Array Num) (i j : Nat) (acc : BitVec 40) : BitVec 40 :=
  let p (m : Nat) : Num := (va.getD (i * d + m) (.fin false 0 0)).mul (vb.getD (posB tb d m j) (.fin false 0 0))
  cellOf ((cellNum acc).add false (groupSum p d.log2 0))

/-- One group enters every cell; cells are numbered from `n` on. -/
def groupAll (d : Nat) (tb : Bool) (va vb : Array Num) : Nat → List (BitVec 40) → List (BitVec 40)
  | _, [] => []
  | n, c :: cs => groupStep d tb va vb (n / 128) (n % 128) c :: groupAll d tb va vb (n + 1) cs

/-- `mma` on the cells of a bank: the feed vectors of A and B in order of groups (R173). -/
def mmaCells (d : Nat) (tb : Bool) : List (List Num) → List (List Num) → List (BitVec 40) → List (BitVec 40)
  | va :: as, vb :: bs, cells => mmaCells d tb as bs (groupAll d tb va.toArray vb.toArray 0 cells)
  | _, _, cells => cells

/-! ### Record checks (R171) -/

def Rec.bank (r : Rec) : Nat := r.op 0 1
def Rec.feedA (r : Rec) : Bool := r.op 2 1 == 1
def Rec.feedB (r : Rec) : Bool := r.op 3 1 == 1
def Rec.tb (r : Rec) : Bool := r.op 1 1 == 1
/-- G, the groups of an `mma` (R173). -/
def Rec.groups (r : Rec) : Nat := r.op 16 16

/-- "none" without a last-read mark. -/
def Rec.noneAll (r : Rec) (is : List Nat) : Bool := is.all r.noneAt

/-- D is "none"; it carries no mark. -/
def Rec.noD (r : Rec) : Bool := r.desc 0 == 3 * 2 ^ 22

/-- The extent of a tile in a format for a block, 1 × 1 for a port. -/
def Rec.tileExtent (r : Rec) (i fmt : Nat) : Bool :=
  if descKind (r.desc i) = 0 then r.regs == tileRegs fmt else r.regs == 1

/-- A source of `mma`: a port, or a feed. -/
def Rec.mmaSource (r : Rec) (i : Nat) (feed : Bool) : Bool :=
  if feed then r.noneAt i else descKind (r.desc i) == 1

/-- The formats of `mma` (R173). -/
def Rec.mmaFormats (r : Rec) : Bool :=
  let a := r.fmtA
  let b := r.fmtB
  ((a == 3 || a == 4) && (b == 3 || b == 4)) || ((a == 1 || a == 2) && (b == 1 || b == 2)) || (a == 0 && b == 0) ||
    (a == 5 && b == 5 && r.tb && !r.feedA && !r.feedB && r.groups % 2 == 0)

/-- The checks the array's four operations make on their records (R171). -/
def Rec.arrayOk (r : Rec) : Bool :=
  r.rnd == 0 && r.imm == 0 &&
  match r.wop with
  | 0x60 => r.noD && r.noneAll [1, 2, 3] && r.fmtD == 0 && r.fmtA == 0 && r.fmtB == 0 && r.regs == 1 && !r.sat &&
      decide (r.ops < 2)
  | 0x61 => r.noD && decide (descKind (r.desc 1) < 2) && r.noneAll [2, 3] && r.fmtD == 0 && fmtFloat r.fmtA &&
      r.fmtB == 0 && r.tileExtent 1 r.fmtA && !r.sat && decide (r.ops < 2) &&
      (!r.last 1 || descKind (r.desc 1) == 1)
  | 0x62 => r.noD && r.mmaSource 1 r.feedA && r.mmaSource 2 r.feedB && r.noneAt 3 && r.fmtD == 0 && r.mmaFormats &&
      r.regs == 1 && !r.sat && r.op 4 12 == 0 && r.op 32 32 == 0 && r.groups != 0
  | 0x63 => decide (descKind (r.desc 0) < 2) && r.noneAll [1, 2, 3] && fmtFloat r.fmtD && r.fmtA == 0 && r.fmtB == 0 &&
      r.tileExtent 0 r.fmtD && decide (r.ops < 4)
  | _ => false

end Sys2Proof.Machine
end

