-- ==== Sys2Proof/Machine/Factor.lean ====
section
/-! DEFINITION. What the factor instructions compute on a leading tile (R175 to R195): column steps over FP32 values with
their flags, breakdown checks, triangular solves, diagonal shifts and row exchanges. -/

namespace Sys2Proof.Machine

/-! ### FP32 values with flags (R176) -/

/-- A value with the flags raised so far. -/
abbrev Flagged (α : Type) := α × FpFlags

/-- One rounding of an exact value computed from operands: NV where the result is a NaN and no operand is one (R176, R102). Wide operations
make no distinction between quiet and signalling NaNs (R119), so a signalling operand raises nothing either (DEDUCED, log entry 47). -/
def roundOp (ops : List Nat) (x : Num) : Nat × FpFlags :=
  let r := fp32Round x
  (r.1, r.2.or { FpFlags.none with nv := invalidOf false (ops.any fun o => (fp32.decode o).isNaN) x })

/-- NV for a product 0 × ∞, whatever else the operation adds (R102). -/
def productFlags (y z : Nat) : FpFlags :=
  let a := fp32.decode y
  let b := fp32.decode z
  { FpFlags.none with nv := (a.isZero && b.isInf) || (a.isInf && b.isZero) }

/-- x − y × z, rounded once. -/
def opUpdate (x y z : Nat) : Nat × FpFlags :=
  let r := roundOp [x, y, z] ((fp32.decode x).add false ((fp32.decode y).mul (fp32.decode z)).neg)
  (r.1, r.2.or (productFlags y z))

/-- x + y. -/
def opAdd (x y : Nat) : Nat × FpFlags := roundOp [x, y] ((fp32.decode x).add false (fp32.decode y))

/-- x / y; a finite non-zero dividend over zero raises DZ. -/
def opDiv (x y : Nat) : Nat × FpFlags :=
  let a := fp32.decode x
  let b := fp32.decode y
  let r := roundOp [x, y] (a.div b)
  (r.1, r.2.or { FpFlags.none with dz := !a.isNaN && !a.isInf && !a.isZero && b.isZero })

/-- √x. -/
def opSqrt (x : Nat) : Nat × FpFlags := roundOp [x] (fp32.decode x).sqrt

/-- √(a² + b²) (R176). -/
def opLength (a b : Nat) : Nat × FpFlags :=
  let x := fp32.decode a
  let y := fp32.decode b
  roundOp [a, b] (if x.isNaN || y.isNaN then .nan else ((x.mul x).add false (y.mul y)).sqrt)

/-- c × x + s × y. -/
def opRotate (c x s y : Nat) : Nat × FpFlags :=
  let r := roundOp [c, x, s, y] (((fp32.decode c).mul (fp32.decode x)).add false ((fp32.decode s).mul (fp32.decode y)))
  (r.1, (r.2.or (productFlags c x)).or (productFlags s y))

/-- The sign changed. -/
def flipSign (x : Nat) : Nat := x ^^^ 2 ^ 31

/-! ### Tiles -/

/-- A leading tile of order N: FP32 encodings, row-major. -/
structure Tile where
  n : Nat
  cells : Array Nat
  flags : FpFlags
  deriving DecidableEq, Repr

def Tile.get (t : Tile) (i j : Nat) : Nat := t.cells.getD (i * t.n + j) 0
def Tile.set (t : Tile) (i j v : Nat) : Tile := { t with cells := t.cells.setIfInBounds (i * t.n + j) v }
/-- Stores the result of a rounding with its flags. -/
def Tile.put (t : Tile) (i j : Nat) (r : Nat × FpFlags) : Tile :=
  { t with cells := t.cells.setIfInBounds (i * t.n + j) r.1, flags := t.flags.or r.2 }

/-- A cell as an FP32 value (R175): NaN canonical, others rounded to nearest even. -/
def cellFp32 (c : BitVec 40) : Nat := fp32.put rcRNE 0 0 false (cellNum c)

/-- The leading tile of a bank. -/
def tileOf (n : Nat) (b : Sparse 40) : Tile :=
  { n := n, cells := ((List.range n).flatMap fun i => (peekN b (128 * i) n).map cellFp32).toArray, flags := FpFlags.none }

/-- An FP32 value held exactly in a cell. -/
def cellOfFp32 (x : Nat) : BitVec 40 := cellOf (fp32.decode x)

/-- Writes rows of a tile back into a bank, from row `i` on. -/
def putRows (t : Tile) : Nat → Nat → Sparse 40 → Sparse 40
  | 0, _, b => b
  | k + 1, i, b =>
    putRows t k (i + 1) (pokeN b (128 * i) ((List.range t.n).map fun j => cellOfFp32 (t.get i j)))

/-- A bank with its leading tile replaced. -/
def tileInto (t : Tile) (b : Sparse 40) : Sparse 40 := putRows t t.n 0 b

/-- Loops over `lo` to `hi − 1`. -/
def forRange {α : Type} (lo hi : Nat) (f : α → Nat → α) (x : α) : α :=
  (List.range (hi - lo)).foldl (fun x k => f x (lo + k)) x

/-! ### Magnitudes (R182) -/

/-- The larger magnitude of two FP32 encodings, a NaN left out. -/
def magMax (m x : Nat) : Nat :=
  let a := x % 2 ^ 31
  if (fp32.decode a).isNaN then m else if m < a then a else m

/-- The largest magnitude of the trailing tile from row and column `j` on; `lower` takes only cells on and below the
diagonal. -/
def Tile.maxFrom (t : Tile) (lower : Bool) (j : Nat) : Nat :=
  forRange j t.n (fun m i => forRange j (if lower then i + 1 else t.n) (fun m k => magMax m (t.get i k)) m) 0

/-- V of GROW for M0 and Mmax (R182); its rounding is one of the instruction's and raises its flags (R176). -/
def growth (mmax m0 : Nat) : Nat × FpFlags :=
  let a := fp32.decode mmax
  let b := fp32.decode m0
  if (a.isZero && b.isZero) || (a.isInf && b.isInf) then (0x3F800000, FpFlags.none)
  else if a.isInf then (0x7F800000, FpFlags.none)
  else opDiv mmax m0

/-! ### Breakdowns (R185) -/

/-- A breakdown: class, row and value. -/
structure Breakdown where
  cls : Nat
  row : Nat
  value : Nat
  deriving DecidableEq, Repr

/-- The lowest row from `j` on whose entry of column `j` is a NaN. -/
def Tile.nanRow (t : Tile) (j : Nat) : Option Nat :=
  ((List.range (t.n - j)).map (j + ·)).find? fun i => (fp32.decode (t.get i j)).isNaN

/-- Every candidate of column `j` is a zero. -/
def Tile.zeroColumn (t : Tile) (j : Nat) : Bool :=
  (List.range (t.n - j)).all fun k => t.get (j + k) j % 2 ^ 31 == 0

/-- Operations by FCOL.OP (R180). -/
def opChol : Nat := 1
def opLu : Nat := 2
def opQr : Nat := 3
def opTrs : Nat := 4

/-- The checks at the start of column `j`. -/
def Tile.breaks (t : Tile) (op : Nat) (nz : Bool) (j : Nat) : Option Breakdown :=
  match t.nanRow j with
  | some i => some ⟨3, i, t.get i j⟩
  | none =>
    let d := t.get j j
    if op = opChol then
      (if Num.lt (.fin false 0 0) (fp32.decode d) && !(fp32.decode d).isInf then none else some ⟨1, j, d⟩)
    else if op = opLu then (if !nz && t.zeroColumn j then some ⟨2, j, d⟩ else none)
    else none

/-! ### Column steps -/

/-- Column step of `mchol` (R189). -/
def Tile.stepChol (t : Tile) (j : Nat) : Tile :=
  let t := t.put j j (opSqrt (t.get j j))
  let t := forRange (j + 1) t.n (fun t i => t.put i j (opDiv (t.get i j) (t.get j j))) t
  let t := forRange (j + 1) t.n (fun t i =>
    forRange (j + 1) (i + 1) (fun t k => t.put i k (opUpdate (t.get i k) (t.get i j) (t.get k j))) t) t
  forRange 0 j (fun t i => t.set i j 0) t

/-- The pivot row of column `j` (R190): greatest magnitude, the smallest row on a tie. -/
def Tile.pivot (t : Tile) (j : Nat) : Nat :=
  forRange (j + 1) t.n (fun p i => if t.get p j % 2 ^ 31 < t.get i j % 2 ^ 31 then i else p) j

/-- Exchanges two rows. -/
def Tile.swap (t : Tile) (j p : Nat) : Tile :=
  forRange 0 t.n (fun u k => (u.set j k (t.get p k)).set p k (t.get j k)) t

/-- Column step of `mlu` (R190) with the pivot chosen; none where the column is skipped. -/
def Tile.stepLu (t : Tile) (j : Nat) : Tile × Nat × Bool :=
  if t.zeroColumn j then (t, j, true)
  else
    let p := t.pivot j
    let t := if p = j then t else t.swap j p
    let t := forRange (j + 1) t.n (fun t i => t.put i j (opDiv (t.get i j) (t.get j j))) t
    (forRange (j + 1) t.n (fun t i =>
      forRange (j + 1) t.n (fun t k => t.put i k (opUpdate (t.get i k) (t.get i j) (t.get j k))) t) t, p, false)

/-- One rotation of `mqr` on rows i − 1 and i (R191), with its pair (c, s). -/
def Tile.rotate (t : Tile) (j i : Nat) : Tile × Nat × Nat :=
  let a := t.get (i - 1) j
  let b := t.get i j
  if b % 2 ^ 31 = 0 then (t, 0x3F800000, 0)
  else
    let r := opLength a b
    let c := opDiv a r.1
    let s := opDiv b r.1
    let t := { t with flags := ((t.flags.or r.2).or c.2).or s.2 }
    let t := forRange (j + 1) t.n (fun t k =>
      let x := t.get (i - 1) k
      let y := t.get i k
      (t.put (i - 1) k (opRotate c.1 x s.1 y)).put i k (opRotate c.1 y (flipSign s.1) x)) t
    ((t.set (i - 1) j r.1).set i j 0, c.1, s.1)

/-- The largest magnitude of row `i` right of column `j`. -/
def Tile.maxRow (t : Tile) (i j m : Nat) : Nat := forRange (j + 1) t.n (fun m k => magMax m (t.get i k)) m

/-- Column step of `mqr` (R191): the tile, the pairs in the order they were applied, and the largest magnitude that a cell of the trailing
tile has held after any of the rotations (R182). -/
def Tile.stepQr (t : Tile) (j mmax : Nat) : Tile × List (Nat × Nat) × Nat :=
  (List.range (t.n - 1 - j)).foldl (fun (a : Tile × List (Nat × Nat) × Nat) q =>
    let i := t.n - 1 - q
    let r := a.1.rotate j i
    let m := r.1.maxRow i j a.2.2
    (r.1, a.2.1 ++ [(r.2.1, r.2.2)], if j + 1 < i then r.1.maxRow (i - 1) j m else m)) (t, [], mmax)

/-- The record of one column of `mqr`: 128 pairs of 8 bytes (R191). -/
def qrRecord (ps : List (Nat × Nat)) : List Byte :=
  (ps ++ List.replicate (128 - ps.length) (0x3F800000, 0)).flatMap fun (p : Nat × Nat) =>
    leBytes 4 p.1 ++ leBytes 4 p.2

/-! ### An issue (R186) -/

/-- What an issue does: the tile after it, columns processed, pivots (lane, row), skipped columns, records pushed, Mmax, the M0 it is
measured against, V of GROW, and the breakdown that ends it. -/
structure FactorRun where
  tile : Tile
  col : Nat
  done : Nat
  pivots : List (Nat × Nat)
  skipped : Nat
  records : List (List Byte)
  mmax : Nat
  m0 : Nat
  grow : Nat
  broke : Option Breakdown
  deriving DecidableEq, Repr

/-- Runs `k` columns from the run's present column on. -/
def FactorRun.columns (op : Nat) (nz : Bool) : Nat → FactorRun → FactorRun
  | 0, f => f
  | k + 1, f =>
    match f.tile.breaks op nz f.col with
    | some b => { f with broke := some b }
    | none =>
      let next (t : Tile) (mmax : Nat) : FactorRun :=
        let m := magMax mmax (t.maxFrom (op == opChol) (f.col + 1))
        let v := growth m f.m0
        { f with tile := { t with flags := t.flags.or v.2 }, col := f.col + 1, done := f.done + 1, mmax := m, grow := v.1 }
      let f' : FactorRun :=
        if op = opChol then next (f.tile.stepChol f.col) f.mmax
        else if op = opLu then
          let r := f.tile.stepLu f.col
          { next r.1 f.mmax with pivots := f.pivots ++ [(f.col, r.2.1)], skipped := f.skipped + natOfBool r.2.2 }
        else
          let r := f.tile.stepQr f.col f.mmax
          { next r.1 r.2.2 with records := f.records ++ [qrRecord r.2.1] }
      FactorRun.columns op nz k f'

/-- An issue of `c` columns from column `j0` on, with Mmax, M0 and V as they stand. -/
def runFactor (op : Nat) (nz : Bool) (t : Tile) (j0 c mmax m0 grow : Nat) : FactorRun :=
  FactorRun.columns op nz (min (j0 + c) t.n - j0)
    { tile := t, col := j0, done := 0, pivots := [], skipped := 0, records := [], mmax := mmax, m0 := m0, grow := grow, broke := none }

/-! ### mtrs, mshift, mpiv (R192 to R195) -/

/-- The element t(i, k) of R192. -/
def Tile.tri (t : Tile) (trans : Bool) (i k : Nat) : Nat := if trans then t.get k i else t.get i k

/-- The order of a solve (R192). -/
def solveOrder (n : Nat) (upper trans : Bool) : List Nat :=
  if upper == trans then List.range n else (List.range n).reverse

/-- One component: the known components are subtracted in the order they were found. With UNIT = 1 the first component is b as it stands, a
NaN with its payload (R192: v := b_i), though R119 lists no such lane among the bit copies (DESIGN CHOICE, log entry 54). -/
def solveOne (t : Tile) (trans unit : Bool) (b : Nat) (i : Nat) (known : List (Nat × Nat)) : Nat × FpFlags :=
  let v := known.foldl (fun (v : Nat × FpFlags) k =>
    let r := opUpdate v.1 (t.tri trans i k.1) k.2
    (r.1, v.2.or r.2)) (b, FpFlags.none)
  if unit then v
  else
    let r := opDiv v.1 (t.get i i)
    (r.1, v.2.or r.2)

/-- One right-hand side: 128 lanes in, 128 lanes out, with the flags raised. -/
def solveVec (t : Tile) (upper trans unit : Bool) (b : List Nat) : List Nat × FpFlags :=
  let r := (solveOrder t.n upper trans).foldl (fun (a : List (Nat × Nat) × FpFlags) i =>
    let x := solveOne t trans unit (b.getD i 0) i a.1
    (a.1 ++ [(i, x.1)], a.2.or x.2)) ([], FpFlags.none)
  (r.1.foldl (fun l e => l.set e.1 e.2) b, r.2)

/-- The first zero on the diagonal in solve order (R193). -/
def Tile.zeroDiag (t : Tile) (upper trans : Bool) : Option Nat :=
  (solveOrder t.n upper trans).find? fun i => t.get i i % 2 ^ 31 == 0

/-- `mshift` from row `s0` on (R194), with the magnitudes it writes. -/
def Tile.shift (t : Tile) (sigma s0 : Nat) : Tile :=
  forRange s0 t.n (fun t i => t.put i i (opAdd (t.get i i) sigma)) t

/-- Exchanges rows of a tile given as 128 rows (R195). -/
def swapRows (rows : List (List Nat)) (j p : Nat) : List (List Nat) :=
  (rows.set j (rows.getD p [])).set p (rows.getD j [])

/-- `mpiv` on the rows of a tile (R195). -/
def pivotRows (n : Nat) (inv : Bool) (piv : List Nat) (rows : List (List Nat)) : List (List Nat) :=
  (if inv then (List.range n).reverse else List.range n).foldl (fun rs j =>
    let p := piv.getD j 0
    if p ≤ 127 then swapRows rs j p else rs) rows

/-! ### Record checks (R177) -/

def Rec.order (r : Rec) : Nat := r.op 8 7 + 1
def Rec.cols (r : Rec) : Nat := r.op 16 7 + 1
def Rec.begins (r : Rec) : Bool := r.op 23 1 == 1

/-- The checks the factor instructions make on their records. -/
def Rec.factorOk (r : Rec) : Bool :=
  let noSrc := r.noneAll [1, 2, 3]
  let zeros := r.fmtD == 0 && r.fmtA == 0 && r.fmtB == 0 && r.regs == 1
  r.rnd == 0 && !r.sat && (r.wop == 0x68 || r.imm == 0) &&
  match r.wop with
  | 0x64 => r.noD && noSrc && zeros && r.op 1 7 == 0 && r.op 15 1 == 0 && r.op 24 40 == 0
  | 0x65 => r.noD && noSrc && zeros && r.op 2 6 == 0 && r.op 15 1 == 0 && r.op 24 40 == 0
  | 0x66 => (r.noD || descKind (r.desc 0) == 1) && noSrc && zeros && r.op 1 7 == 0 && r.op 15 1 == 0 && r.op 24 40 == 0
  | 0x67 => descKind (r.desc 0) == 1 && descKind (r.desc 1) == 1 && r.noneAll [2, 3] && zeros && r.op 4 4 == 0 &&
      r.op 15 1 == 0 && r.op 23 41 == 0
  | 0x68 => r.noD && decide (2 ≤ descKind (r.desc 1)) && r.given 1 && !r.last 1 && r.noneAll [2, 3] && zeros &&
      r.op 2 6 == 0 && r.op 15 1 == 0 && r.op 23 41 == 0 && (!r.tb || r.op 16 7 == 0)
  | 0x69 => descKind (r.desc 0) == 0 && descKind (r.desc 1) == 0 && r.noneAll [2, 3] && !r.last 1 && fmtPlain r.fmtD &&
      r.fmtA == r.fmtD && r.fmtB == 0 && r.regs == tileRegs r.fmtA && r.op 0 1 == 0 && r.op 2 6 == 0 &&
      r.op 15 49 == 0
  | _ => false

/-- The cost of a column (R179). -/
def colCost (wop n : Nat) : Nat := match wop with
  | 0x64 => 24
  | 0x65 => 28
  | _ => n + 16

/-- Every record check of R88. -/
def Rec.ok (r : Rec) : Bool :=
  r.commonOk && (if r.wop < 0x60 then r.vectorOk else if r.wop < 0x64 then r.arrayOk else r.factorOk)

end Sys2Proof.Machine
end

