-- ==== Sys2Proof/Machine/Scalar.lean ====
section
/-! DEFINITION. The integer words of the sequencer: the ialu group (R95 to R98), the immediate forms (R99) and `lui`
(R100), with the cycles of R94. -/

namespace Sys2Proof.Machine

abbrev Res := Host.Outcome State Fault Refusal

/-! ### The functions of R96 to R98 on 64-bit values -/

/-- The high half of the signed product. -/
def mulHigh (x y : Word) : Word := wordOfInt ((x.toInt * y.toInt) / (2 ^ 64 : Nat))

/-- The high half of the unsigned product. -/
def mulHighU (x y : Word) : Word := BitVec.ofNat 64 (x.toNat * y.toNat / 2 ^ 64)

/-- Signed division (R96, R97): by zero all ones; −2^63 / −1 gives −2^63. -/
def divS (x y : Word) : Word := if y = 0 then BitVec.allOnes 64 else wordOfInt (x.toInt.tdiv y.toInt)

/-- Unsigned division (R97). -/
def divU (x y : Word) : Word := if y = 0 then BitVec.allOnes 64 else BitVec.ofNat 64 (x.toNat / y.toNat)

/-- Signed remainder (R97): by zero x. -/
def remS (x y : Word) : Word := if y = 0 then x else wordOfInt (x.toInt.tmod y.toInt)

/-- Unsigned remainder (R97). -/
def remU (x y : Word) : Word := if y = 0 then x else BitVec.ofNat 64 (x.toNat % y.toNat)

/-- The shift amount y[5:0] (R96). -/
def shAmount (y : Word) : Nat := y.toNat % 64

/-- Leading zero bits; 64 when x = 0 (R96). -/
def clzOf (x : Word) : Word := BitVec.ofNat 64 (if x = 0 then 64 else 63 - x.toNat.log2)

/-- The number of 1 bits among the low `n`. -/
def popNat : Nat → Nat → Nat
  | 0, _ => 0
  | n + 1, x => x % 2 + popNat n (x / 2)

/-- The number of 1 bits (R96). -/
def popcOf (x : Word) : Word := BitVec.ofNat 64 (popNat 64 x.toNat)

/-- Bit-field extraction (R98). -/
def bfxOf (x y : Word) : Word :=
  let pos := bitsAt y 0 6
  let len := bitsAt y 6 6 + 1
  let f := (x.toNat >>> pos) % 2 ^ len
  if y.getLsbD 12 then wordOfInt (signedOf len f) else BitVec.ofNat 64 f

/-- The immediate of format SI (R99). -/
def immOf (k : BitVec 14) : Word := k.signExtend 64

/-- ADD (R96). -/
def execAdd (d a b : OpCode) (s : State) : Res := alu2 s (.add d a b) d a b 1 (· + ·)
/-- SUB (R96). -/
def execSub (d a b : OpCode) (s : State) : Res := alu2 s (.sub d a b) d a b 1 (· - ·)
/-- MUL (R96). -/
def execMul (d a b : OpCode) (s : State) : Res := alu2 s (.mul d a b) d a b 3 (· * ·)
/-- MULH (R96). -/
def execMulh (d a b : OpCode) (s : State) : Res := alu2 s (.mulh d a b) d a b 3 mulHigh
/-- MULHU (R96). -/
def execMulhu (d a b : OpCode) (s : State) : Res := alu2 s (.mulhu d a b) d a b 3 mulHighU
/-- DIV (R96, R97). -/
def execDiv (d a b : OpCode) (s : State) : Res := alu2 s (.div d a b) d a b 18 divS
/-- DIVU (R96, R97). -/
def execDivu (d a b : OpCode) (s : State) : Res := alu2 s (.divu d a b) d a b 18 divU
/-- REM (R96, R97). -/
def execRem (d a b : OpCode) (s : State) : Res := alu2 s (.rem d a b) d a b 18 remS
/-- REMU (R96, R97). -/
def execRemu (d a b : OpCode) (s : State) : Res := alu2 s (.remu d a b) d a b 18 remU
/-- AND (R96). -/
def execAnd (d a b : OpCode) (s : State) : Res := alu2 s (.and_ d a b) d a b 1 (· &&& ·)
/-- OR (R96). -/
def execOr (d a b : OpCode) (s : State) : Res := alu2 s (.or_ d a b) d a b 1 (· ||| ·)
/-- XOR (R96). -/
def execXor (d a b : OpCode) (s : State) : Res := alu2 s (.xor_ d a b) d a b 1 (· ^^^ ·)
/-- ANDN (R96). -/
def execAndn (d a b : OpCode) (s : State) : Res := alu2 s (.andn d a b) d a b 1 (fun x y => x &&& ~~~y)
/-- SHL (R96). -/
def execShl (d a b : OpCode) (s : State) : Res := alu2 s (.shl d a b) d a b 1 (fun x y => x <<< shAmount y)
/-- SHR (R96). -/
def execShr (d a b : OpCode) (s : State) : Res := alu2 s (.shr d a b) d a b 1 (fun x y => x >>> shAmount y)
/-- SAR (R96). -/
def execSar (d a b : OpCode) (s : State) : Res := alu2 s (.sar d a b) d a b 1 (fun x y => x.sshiftRight (shAmount y))
/-- MIN (R96). -/
def execMin (d a b : OpCode) (s : State) : Res := alu2 s (.min_ d a b) d a b 1 (fun x y => if x.slt y then x else y)
/-- MAX (R96). -/
def execMax (d a b : OpCode) (s : State) : Res := alu2 s (.max_ d a b) d a b 1 (fun x y => if x.slt y then y else x)
/-- MINU (R96). -/
def execMinu (d a b : OpCode) (s : State) : Res := alu2 s (.minu d a b) d a b 1 (fun x y => if x.ult y then x else y)
/-- MAXU (R96). -/
def execMaxu (d a b : OpCode) (s : State) : Res := alu2 s (.maxu d a b) d a b 1 (fun x y => if x.ult y then y else x)
/-- SEQ (R96). -/
def execSeq (d a b : OpCode) (s : State) : Res := alu2 s (.seq d a b) d a b 1 (fun x y => wordOfBool (x == y))
/-- SNE (R96). -/
def execSne (d a b : OpCode) (s : State) : Res := alu2 s (.sne d a b) d a b 1 (fun x y => wordOfBool (x != y))
/-- SLT (R96). -/
def execSlt (d a b : OpCode) (s : State) : Res := alu2 s (.slt d a b) d a b 1 (fun x y => wordOfBool (x.slt y))
/-- SLE (R96). -/
def execSle (d a b : OpCode) (s : State) : Res := alu2 s (.sle d a b) d a b 1 (fun x y => wordOfBool (x.sle y))
/-- SLTU (R96). -/
def execSltu (d a b : OpCode) (s : State) : Res := alu2 s (.sltu d a b) d a b 1 (fun x y => wordOfBool (x.ult y))
/-- SLEU (R96). -/
def execSleu (d a b : OpCode) (s : State) : Res := alu2 s (.sleu d a b) d a b 1 (fun x y => wordOfBool (x.ule y))
/-- CLZ (R96). -/
def execClz (d a : OpCode) (s : State) : Res := alu1 s (.clz d a) d a 1 clzOf
/-- POPC (R96). -/
def execPopc (d a : OpCode) (s : State) : Res := alu1 s (.popc d a) d a 1 popcOf
/-- MOV (R96). -/
def execMov (d a : OpCode) (s : State) : Res := alu1 s (.mov d a) d a 1 (fun x => x)
/-- BFX (R98). -/
def execBfx (d a b : OpCode) (s : State) : Res := alu2 s (.bfx d a b) d a b 1 bfxOf
/-- ADDI (R99). -/
def execAddi (d a : OpCode) (imm : BitVec 14) (s : State) : Res := alu1 s (.addi d a imm) d a 1 (· + immOf imm)
/-- ANDI (R99). -/
def execAndi (d a : OpCode) (imm : BitVec 14) (s : State) : Res := alu1 s (.andi d a imm) d a 1 (· &&& immOf imm)
/-- ORI (R99). -/
def execOri (d a : OpCode) (imm : BitVec 14) (s : State) : Res := alu1 s (.ori d a imm) d a 1 (· ||| immOf imm)
/-- XORI (R99). -/
def execXori (d a : OpCode) (imm : BitVec 14) (s : State) : Res := alu1 s (.xori d a imm) d a 1 (· ^^^ immOf imm)
/-- SHLI (R99). -/
def execShli (d a : OpCode) (k : BitVec 6) (s : State) : Res := alu1 s (.shli d a k) d a 1 (· <<< k.toNat)
/-- SHRI (R99). -/
def execShri (d a : OpCode) (k : BitVec 6) (s : State) : Res := alu1 s (.shri d a k) d a 1 (· >>> k.toNat)
/-- SARI (R99). -/
def execSari (d a : OpCode) (k : BitVec 6) (s : State) : Res := alu1 s (.sari d a k) d a 1 (·.sshiftRight k.toNat)
/-- SLTI (R99). -/
def execSlti (d a : OpCode) (imm : BitVec 14) (s : State) : Res :=
  alu1 s (.slti d a imm) d a 1 (fun x => wordOfBool (x.slt (immOf imm)))
/-- SLTIU (R99). -/
def execSltiu (d a : OpCode) (imm : BitVec 14) (s : State) : Res :=
  alu1 s (.sltiu d a imm) d a 1 (fun x => wordOfBool (x.ult (immOf imm)))
/-- LUI (R100). -/
def execLui (d : OpCode) (imm : BitVec 20) (s : State) : Res :=
  .next (resultWord s (.lui d imm) d 1 (imm.signExtend 64 <<< 12) s.core)

end Sys2Proof.Machine
end

