-- ==== Sys2Proof/Machine/Control.lean ====
section
/-! DEFINITION. Control transfers and hardware loops (R103 to R107), system registers (R92, R93, R108) and the control
group (R109 to R113, R115, R353, R359); `phb` and `phc` stand with the protected phases, `inj` with the error machinery. -/

namespace Sys2Proof.Machine

/-! ### Transfers -/

/-- A program counter that a transfer may name (R103, R104). -/
def pcOk (t : Int) : Bool := decide (0 ≤ t) && decide (t ≤ Config.lastPc)

/-- The target of a displacement in words from the following word. -/
def dispTarget (pc : Nat) (d : Int) : Int := (pc : Int) + 4 + 4 * d

/-- A taken transfer: loops left behind end (R106), and the next word begins two cycles later (R94). -/
def Core.jumpTo (c : Core) (now t : Nat) : Core :=
  { c.setLevel (c.level.leave c.pc t) with pc := t, seq := { c.seq with ready := now + 2 } }

/-- A transfer that ends no loop level (`call`, `ret`: R106). -/
def Core.transferTo (c : Core) (now t : Nat) : Core := { c with pc := t, seq := { c.seq with ready := now + 2 } }

/-- The conditions of `bc` (R103). -/
def condHolds (cond : BitVec 4) (x : Word) : Bool :=
  match cond.toNat with
  | 1 => x == 0
  | 2 => x != 0
  | 3 => x.slt 0
  | 4 => !x.slt 0
  | 5 => (0 : Word).slt x
  | 6 => !(0 : Word).slt x
  | _ => false

/-- B (R103, R106). -/
def execBranch (disp : BitVec 16) (s : State) : Res :=
  let t := dispTarget s.core.pc disp.toInt
  .next (
    if s.core.atLoopEnd then s.illegal (.branch disp)
    else if !pcOk t then s.illegal (.branch disp)
    else s.withCore (s.core.jumpTo s.now t.toNat))

/-- BC (R103, R106): `%ld` pops even when the branch is not taken. -/
def execBranchCond (cond : BitVec 4) (a : OpCode) (disp : BitVec 16) (s : State) : Res :=
  let i := Instr.branchCond cond a disp
  let t := dispTarget s.core.pc disp.toInt
  .next (
    if s.core.atLoopEnd then s.illegal i
    else withOperands s i [a] fun vs c =>
      if condHolds cond (arg0 vs) then
        (if pcOk t then s.withCore (c.jumpTo s.now t.toNat) else s.illegal i)
      else plainWord s c 1)

/-- CALL (R104). -/
def execCall (disp : BitVec 20) (s : State) : Res :=
  let c := s.core
  let t := dispTarget c.pc disp.toInt
  .next (
    if c.atLoopEnd then s.illegal (.call disp)
    else if !pcOk t then s.illegal (.call disp)
    else if 16 ≤ c.level.rs.length then s.raiseSeq causeStack 0
    else s.withCore ((c.setLevel { c.level with rs := (c.pc + 4) :: c.level.rs }).transferTo s.now t.toNat))

/-- JR (R104, R106). -/
def execJr (a : OpCode) (s : State) : Res :=
  .next (
    if s.core.atLoopEnd then s.illegal (.jr a)
    else withOperands s (.jr a) [a] fun vs c =>
      let t := (arg0 vs).toNat
      if t % 4 ≠ 0 ∨ Config.lastPc < t then s.illegal (.jr a) else s.withCore (c.jumpTo s.now t))

/-- RET (R104). -/
def execRet (s : State) : Res :=
  let c := s.core
  .next (
    if c.atLoopEnd then s.illegal .ret
    else match c.level.rs with
      | [] => s.raiseSeq causeStack 1
      | t :: rest => s.withCore ((c.setLevel { c.level with rs := rest }).transferTo s.now t))

/-- LOOP (R105). -/
def execLoop (level : BitVec 2) (count : OpCode) (body : BitVec 10) (s : State) : Res :=
  let i := Instr.loop level count body
  .next (
    if s.core.atLoopEnd then s.illegal i
    else withOperands s i [count] fun vs c =>
      let l := c.level
      let e := c.pc + 4 * body.toNat
      let n := (arg0 vs).toNat
      let outer := l.loopAt (l.ldepth - 1)
      if level.toNat ≠ l.ldepth then s.illegal i
      else if Config.lastPc < e ∨ 2 ^ 32 - 1 < n then s.illegal i
      else if 0 < l.ldepth ∧ outer.first ≤ c.pc ∧ c.pc ≤ outer.last ∧ outer.last < e then s.illegal i
      else if n = 0 then
        let c := c.finishAt e
        s.withCore { c with seq := { c.seq with ready := s.now + 1 } }
      else
        let l := ({ l with ldepth := level.toNat + 1 }).setLoop level.toNat ⟨c.pc + 4, e, n⟩
        s.withCore { c.setLevel l with pc := c.pc + 4, seq := { c.seq with ready := s.now + 1 } })

/-- LOOP_END: the end step of R105 for the word at `p`, without an extra cycle (R94). -/
def execLoopEnd (p : Nat) (s : State) : Res := .next (s.withCore (s.core.finishAt p))

/-! ### System registers (R92, R93, R108) -/

/-- MODE of a core (R93). -/
def State.modeWord (s : State) (id : Fin 96) : Word :=
  let c := s.cores[id]
  BitVec.ofNat 64 (natOfBool c.chk + 2 * natOfBool c.tl + 4 * natOfBool (c.itemFlag Item.log) +
    8 * natOfBool (c.itemFlag Item.replay) + 16 * natOfBool (s.mgmt.rasMode.getLsbD id.val))

/-- 64 bits of the saved clause (R87). -/
def TrapRegs.clauseWord (t : TrapRegs) (k : Nat) : Word := BitVec.ofNat 64 (bitsAt t.clause (64 * k) 64)

/-- The value of a system register (R92); none where the number is not listed. -/
def State.sysReg (s : State) (n : Nat) : Option Word :=
  let c := s.core
  match n with
  | 0x00 => some (c.sys.ctx.zeroExtend 64)
  | 0x01 => some (c.sys.xtag.zeroExtend 64)
  | 0x02 => some (BitVec.ofNat 64 s.cur.val)
  | 0x03 => some (BitVec.ofNat 64 (clusterOf s.cur.val))
  | 0x04 => some (BitVec.ofNat 64 (dieOf s.cur.val))
  | 0x08 => some (BitVec.ofNat 64 (s.sched c))
  | 0x09 => some (BitVec.ofNat 64 s.clock.gts)
  | 0x10 => some (s.modeWord s.cur)
  | 0x20 => some c.trapRegs.cause
  | 0x21 => some c.trapRegs.info
  | 0x22 => some c.trapRegs.pc
  | 0x23 => some c.trapRegs.va
  | 0x24 => some (c.trapRegs.clauseWord 0)
  | 0x25 => some (c.trapRegs.clauseWord 1)
  | 0x26 => some (c.trapRegs.clauseWord 2)
  | 0x27 => some (c.trapRegs.clauseWord 3)
  | 0x30 => some c.factor.fcol
  | 0x31 => some c.factor.fstat
  | 0x32 => some c.factor.grow
  | 0x33 => some c.factor.bkval
  | 0x34 => some c.factor.pivdst
  | 0x38 => some c.sys.mprog
  | 0x40 => some (c.sys.livemap.zeroExtend 64)
  | 0x41 => some c.sys.savearea
  | 0x42 => some c.sys.spbase
  | 0x43 => some c.sys.landbase
  | _ => none

/-- Nothing is in the CQ or in execution behind it. -/
def Core.cqEmpty (c : Core) : Bool := c.queues.cq.isEmpty && c.queues.windows.isEmpty && c.queues.unplaced.isEmpty

/-- Whether a read waits for a queue to empty (R92). -/
def Core.readStalls (c : Core) (n : Nat) : Bool :=
  match n with
  | 0x30 | 0x31 | 0x32 | 0x33 => !c.cqEmpty
  | 0x00 | 0x01 | 0x38 => !c.queues.lq.isEmpty
  | _ => false

/-- SRR (R92, R108). -/
def execSrr (d : OpCode) (reg : BitVec 14) (s : State) : Res :=
  .next (
    match s.sysReg reg.toNat with
    | none => s.illegal (.srr d reg)
    | some v => if s.core.readStalls reg.toNat then s.hold else resultWord s (.srr d reg) d 1 v s.core)

/-- The access of a system register (R92). -/
inductive SysAccess where
  | absent | ro | rw | trapLevel
  deriving DecidableEq, Repr

def sysAccess (n : Nat) : SysAccess :=
  match n with
  | 0x10 | 0x31 | 0x34 | 0x41 | 0x42 | 0x43 => .rw
  | 0x22 | 0x24 | 0x25 | 0x26 | 0x27 | 0x38 => .trapLevel
  | 0x00 | 0x01 | 0x02 | 0x03 | 0x04 | 0x08 | 0x09 | 0x20 | 0x21 | 0x23 | 0x30 | 0x32 | 0x33 | 0x40 => .ro
  | _ => .absent

/-- The writable fields of FSTAT (R181): a BKCLASS of 5 to 15 is stored as 0. -/
def fstatFields (v : Word) : Word :=
  let k := bitsAt v 8 4
  BitVec.ofNat 64 (bitsAt v 0 5 + (if 5 ≤ k then 0 else k) * 2 ^ 8 + bitsAt v 16 16 * 2 ^ 16)

/-- CLAUSE3 written: bits [62:54] are reserved (R87). -/
def putClause3 (x : BitVec 256) (v : Word) : BitVec 256 :=
  putBits (putBits x 192 54 (bitsAt v 0 54)) 255 1 (bitsAt v 63 1)

/-- Writes a system register: fields as each register's map lays down. -/
def Core.writeSys (c : Core) (n : Nat) (v : Word) : Core :=
  match n with
  | 0x10 => { c with chk := v.getLsbD 0 }
  | 0x22 => { c with trapRegs := { c.trapRegs with pc := BitVec.ofNat 64 (bitsAt v 2 16 * 4) } }
  | 0x24 => { c with trapRegs := { c.trapRegs with clause := putBits c.trapRegs.clause 0 64 v.toNat } }
  | 0x25 => { c with trapRegs := { c.trapRegs with clause := putBits c.trapRegs.clause 64 64 v.toNat } }
  | 0x26 => { c with trapRegs := { c.trapRegs with clause := putBits c.trapRegs.clause 128 64 v.toNat } }
  | 0x27 => { c with trapRegs := { c.trapRegs with clause := putClause3 c.trapRegs.clause v } }
  | 0x31 => { c with factor := { c.factor with fstat := fstatFields v } }
  | 0x34 => { c with factor := { c.factor with pivdst := BitVec.ofNat 64 (bitsAt v 0 10) } }
  | 0x38 => { c with sys := { c.sys with mprog := BitVec.ofNat 64 (bitsAt v 0 16) } }
  | 0x41 => { c with sys := { c.sys with savearea := BitVec.ofNat 64 (bitsAt v 12 45 * 2 ^ 12 + bitsAt v 0 1) } }
  | 0x42 => { c with sys := { c.sys with spbase := BitVec.ofNat 64 (bitsAt v 23 34 * 2 ^ 23 + bitsAt v 0 1) } }
  | 0x43 => { c with sys := { c.sys with landbase := BitVec.ofNat 64 (bitsAt v 4 19 * 2 ^ 4) } }
  | _ => c

/-- Whether a write waits for queues to empty (R92, R93). -/
def Core.writeStalls (c : Core) (n : Nat) (v : Word) : Bool :=
  match n with
  | 0x31 | 0x34 => !c.cqEmpty
  | 0x10 => (v.getLsbD 0 != c.chk) && !c.queuesEmpty
  | _ => false

/-- SRW (R92, R93, R108). -/
def execSrw (a : OpCode) (reg : BitVec 14) (s : State) : Res :=
  let n := reg.toNat
  .next (
    match sysAccess n with
    | .absent => s.illegal (.srw a reg)
    | .ro => s.illegal (.srw a reg)
    | k =>
      if k = .trapLevel ∧ s.core.tl = false then s.illegal (.srw a reg)
      else withOperands s (.srw a reg) [a] fun vs c =>
        if c.writeStalls n (arg0 vs) then s.hold else plainWord s (c.writeSys n (arg0 vs)) 1)

/-! ### The control group -/

/-- NOP (R110). -/
def execNop (s : State) : Res := .next (plainWord s s.core 1)

/-- DONE (R110): the sequencer routes nothing further and a pending clause is discarded; the retirement follows the
drain. -/
def execDone (s : State) : Res :=
  let c := s.core
  .next (s.withCore { c with clause := { c.clause with valid := false },
                             seq := { c.seq with mode := .draining, ready := s.now + 1 } })

/-- A software trap (R111): TRAPPC is where sequential flow goes next, the end step of R105 applied. -/
def softTrap (s : State) (info : Word) : State :=
  let c := s.core
  s.raise { src := 0, cause := causeSoftware, info := info, va := none, pc := none,
            flow := some (c.level.finish c.pc c.level.ldepth), order := c.queues.order, cycle := s.now }

/-- TRAP (R111). -/
def execTrap (code : BitVec 14) (s : State) : Res := .next (softTrap s (code.zeroExtend 64))

/-- BRK (R111). -/
def execBrk (code : BitVec 14) (s : State) : Res :=
  .next (softTrap s (BitVec.ofNat 64 (2 ^ 14 + code.toNat)))

/-- ERET (R112, R353): it waits until the handler's queues are empty. -/
def execEret (s : State) : Res :=
  let c := s.core
  .next (
    if c.atLoopEnd ∨ c.tl = false then s.illegal .eret
    else if !c.queuesEmpty then s.hold
    else
      let c := c.leaveTrap
      s.withCore { c with seq := { c.seq with ready := s.now + 1 } })

/-- One listed block of a live map stays on the grid (R360). -/
def liveBlockOk (m : BitVec 512) (b : Nat) : Bool :=
  bitsAt m (16 * b + 11) 5 + bitsAt m (16 * b + 3) 3 + 1 ≤ 32 &&
    bitsAt m (16 * b + 6) 5 + bitsAt m (16 * b) 3 + 1 ≤ 32

/-- BIND of a port descriptor and its buffer (R137). -/
def Port.bound (p : Port) : Bool := p.set && p.desc.getLsbD 24
def Port.cbn (p : Port) : Nat := bitsAt p.desc 16 4

/-- A live map is well formed for the ports as they stand (R359, R360). -/
def liveMapOk (c : Core) (m : BitVec 512) : Bool :=
  bitsAt m 336 176 == 0 && bitsAt m 331 5 ≤ 16 &&
    (List.range (bitsAt m 331 5)).all (liveBlockOk m) &&
    (List.range 8).all fun k =>
      !m.getLsbD (304 + k) || !(c.ports.toList.getD k Port.unset).bound ||
        m.getLsbD (312 + (c.ports.toList.getD k Port.unset).cbn)

/-- The item may be pre-empted without regard to SAVEAREA (R357, R359). -/
def Core.interruptible (c : Core) : Bool := c.itemFlag Item.preempt && !c.itemFlag Item.gang && !c.tl

/-- The item is pre-emptible (R357). -/
def Core.preemptible (c : Core) : Bool := c.interruptible && c.sys.savearea.getLsbD 0

/-- The part of `safept` behind the interrupt (R359, R374). -/
def safeptGoOn (s : State) (n : BitVec 6) (c : Core) : State :=
  if c.prq && c.preemptible && c.phase.isNone then
    s.withCore { c with seq := { c.seq with mode := .preempting n (s.sched c), ready := s.now + 1 } }
  else plainWord s c 1

/-- SAFEPT (R113, R359). The interrupt request is cleared as its trap is taken (`Core.settleTrap`). -/
def execSafept (n : BitVec 6) (s : State) : Res :=
  let c := s.core
  .next (
    if c.tl then plainWord s c 1
    else
      let count := match c.image with
        | some img => img.lmcount
        | none => 0
      if !(decide (n.toNat < count) && liveMapOk c (c.arrays.livemaps.getD n.toNat 0)) then
        s.raise { src := 4, cause := causeIllegal, info := illegalInfo (wordOf (.safept n)) 3, va := none,
                  pc := some c.pc, flow := none, order := c.queues.order, cycle := s.now }
      else
        let c := { c with sys := { c.sys with livemap := n } }
        if c.irq && c.interruptible then
          match c.image with
          | some img =>
            if img.handler then
              (s.withCore c).raise { src := 4, cause := causePreempt, info := 1, va := none, pc := some c.pc, flow := none,
                                     order := c.queues.order, cycle := s.now }
            else safeptGoOn s n { c with irq := false }
          | none => safeptGoOn s n { c with irq := false }
        else safeptGoOn s n c)

/-- WAITSC (R68, R115): the word holds the sequencer until SCHED reaches its target; where the target has passed it takes
one cycle (R94). -/
def execWaitsc (a : OpCode) (k : BitVec 14) (s : State) : Res :=
  .next (withOperands s (.waitsc a k) [a] fun vs c =>
    let t := (arg0 vs).toNat + k.toNat
    let now := s.sched s.core
    if now < t then
      s.withCore { s.core with seq := { s.core.seq with ready := s.now + (t - now), waiting := true } }
    else plainWord s c (if s.core.seq.waiting then 0 else 1))

end Sys2Proof.Machine
end

