-- ==== Sys2Proof/Machine/MemSys.lean ====
section
/-! DEFINITION. Memory behind the cores (R273 to R282): the physical map, homes, home L2 slices and die copies, the
Cistern and DRAM, with the errors their words may hold (R367, R368, R370) and the Weir's view of writes (R47, R48). -/

namespace Sys2Proof.Machine

/-! ### The physical map (R273) -/

inductive Region where
  | dram | heat | regs | zero | localPage | board (p : Nat) | host | reserved
  deriving DecidableEq, Repr

/-- What a physical address names; a board-tier address beyond the capacity attached to its port, or behind a port whose
link is down (R393), is reserved. Behind the 57 bits of the map stands the host memory that the map does not show
(`hostPlace`). -/
def MemorySystem.region (m : MemorySystem) (pa : Nat) : Region :=
  if pa < 0x0060_0000_0000 then .dram
  else if pa < 0x00F0_0000_0000 then .reserved
  else if pa < 0x00F0_0800_0000 then .heat
  else if pa < 0x00F0_0C00_0000 then .regs
  else if pa < 0x00FF_FFFE_0000 then .reserved
  else if pa < 0x00FF_FFFF_0000 then .zero
  else if pa < 0x0100_0000_0000 then .localPage
  else if pa < 0x0500_0000_0000 then
    let p := (pa - 0x0100_0000_0000) / 2 ^ 40
    if (pa - 0x0100_0000_0000) % 2 ^ 40 < m.boardCap.toList.getD p 0 then .board p else .reserved
  else if pa < 0x1000_0000_0000 then .reserved
  else if pa < 2 ^ 57 + 0x1000_0000_0000 then .host
  else .reserved

/-- Where the byte at a host physical address is kept: the map of R273 shows host memory from 0x1000_0000_0000 on under its own
address, and what lies below is kept beyond the map, where no core's access leads. -/
def hostPlace (h : Nat) : Nat := if h < 0x1000_0000_0000 then 2 ^ 57 + h else if h < 2 ^ 57 then h else 2 ^ 58 + h

/-- Lines of these regions are held by the L2 and the Cistern (R275). -/
def Region.cached : Region → Bool
  | .dram | .board _ | .host => true
  | _ => false

/-! ### Homes (R275, R279) -/

def lineSite (key : Nat) : Nat := key / 1024 % 8
def lineDie (key : Nat) : Nat := (key % 4) ^^^ (key / 1024 % 4)
def lineSlice (key : Nat) : Nat := (key / 4 % 16) ^^^ (key / 64 % 16)
def cisternSet (key : Nat) : Nat := key / 8192 % 1024 * 1024 + key % 1024

/-- Inserts or replaces by a rising key. -/
def upsert {α : Type} (key : α → Nat) (x : α) : List α → List α
  | [] => [x]
  | y :: ys => if key x < key y then x :: y :: ys else if key x = key y then x :: ys else y :: upsert key x ys

def MemorySystem.l2At (m : MemorySystem) (key : Nat) : Option L2Line := m.l2.find? (·.key == key)
def MemorySystem.cisternAt (m : MemorySystem) (key : Nat) : Option CisternLine := m.cistern.find? (·.key == key)

/-- A line of backing memory. -/
def MemorySystem.dramLine (m : MemorySystem) (key : Nat) : BitVec 512 :=
  BitVec.ofNat 512 (leNat (peekN (w := 8) m.dram (key * 64) 64))

def MemorySystem.setDramLine (m : MemorySystem) (key : Nat) (x : BitVec 512) : MemorySystem :=
  { m with dram := pokeN (w := 8) m.dram (key * 64) (vecBytes x) }

/-- A line as it stands at DEVICE scope: home slice, else Cistern, else memory. -/
def MemorySystem.lineAt (m : MemorySystem) (key : Nat) : BitVec 512 :=
  match m.l2At key with
  | some l => l.data
  | none => match m.cisternAt key with
    | some l => l.data
    | none => m.dramLine key

/-- The bytes of a line from an offset. -/
def lineBytes (x : BitVec 512) (off n : Nat) : List Byte := leBytes n (x.toNat >>> (8 * off))

/-- A line with bytes replaced. -/
def patchLine (x : BitVec 512) (off : Nat) (bs : List Byte) : BitVec 512 :=
  putBits x (8 * off) (8 * bs.length) (leNat bs)

/-- Bytes of physical memory as they stand at DEVICE scope, by line: `fuel` bounds the lines. -/
def MemorySystem.bytesAt (m : MemorySystem) : Nat → Nat → Nat → List Byte
  | 0, _, _ => []
  | fuel + 1, pa, n =>
    if n = 0 then []
    else
      let k := min n (64 - pa % 64)
      lineBytes (m.lineAt (pa / 64)) (pa % 64) k ++ m.bytesAt fuel (pa + k) (n - k)

/-- `n` bytes at a physical address as a number, at DEVICE scope. -/
def MemorySystem.number (m : MemorySystem) (pa n : Nat) : Nat := leNat (m.bytesAt (n / 64 + 2) pa n)

/-! ### Heat (R291) -/

/-- A line has moved between the Cistern and its page's memory. -/
def MemorySystem.warm (m : MemorySystem) (key : Nat) : MemorySystem :=
  match m.region (key * 64) with
  | .dram | .board _ =>
    let page := key / 1024
    let h := (peek m.heat page).toNat
    { m with heat := poke m.heat page (BitVec.ofNat 8 (min 255 (h + 1))) }
  | _ => m

/-! ### DRAM rows (R292, R294, R295) -/

def SiteUnit.riFirst (u : SiteUnit) : Nat := bitsAt u.region 0 8
def SiteUnit.riCount (u : SiteUnit) : Nat := bitsAt u.region 8 8

/-- A subarray index lies in a site's region. -/
def SiteUnit.holdsSubarray (u : SiteUnit) (x : Nat) : Bool := decide (u.riFirst ≤ x ∧ x < u.riFirst + u.riCount ∧ x ≤ 95)

/-- A memory site by number. -/
def siteOf (x : Nat) : Fin 8 := ⟨x % 8, Nat.mod_lt _ (by decide)⟩

/-- A physical address lies in the row-intact region of its site. -/
def State.rowIntact (s : State) (pa : Nat) : Bool :=
  s.mem.region pa == .dram && (s.sites[siteOf (lineSite (pa / 64))]).holdsSubarray (pa / 2 ^ 32)

def rowPseudo (pa : Nat) : Nat := pa / 2 ^ 22 % 64
def rowOffset (pa : Nat) : Nat := pa / 2 ^ 19 % 8
def rowOfPage (pa : Nat) : Nat := pa / 1024 % 64
def rowSubarray (pa : Nat) : Nat := pa / 2 ^ 32
def rowBank (pa : Nat) : Nat := (rowOfPage pa + rowOffset pa) % 16

/-- The row within its bank: 4 × P + (r div 16). -/
def rowInBank (pa : Nat) : Nat := 4 * (8 * (pa / 2 ^ 28) + rowOffset pa) + rowOfPage pa / 16

/-- Two rows lie in one pseudo-channel, bank and subarray. -/
def sameArray (a b : Nat) : Bool := rowPseudo a == rowPseudo b && rowBank a == rowBank b && rowSubarray a == rowSubarray b

/-- The row that a physical address of a row-intact region lies in. -/
def rowIdOf (pa : Nat) : RowId := { pseudoChannel := rowPseudo pa, bank := rowBank pa, row := rowInBank pa }

/-- The row of a site that a number names. -/
def rowNumbered (n : Nat) : RowId := { pseudoChannel := n / 786432 % 64, bank := n / 49152 % 16, row := n % 49152 }

/-- The row that holds a line of DRAM: by R295 inside the region, by the controller's own layout outside it. -/
def State.lineRow (s : State) (key : Nat) : RowId :=
  if s.rowIntact (key * 64) then rowIdOf (key * 64) else rowNumbered (Config.interleaved key)

/-- The number of a row of a site among its rows. -/
def rowKey (r : RowId) : Nat := (r.pseudoChannel * 16 + r.bank) * 49152 + r.row

/-- Activations of a row are counted in the row (R292). -/
def SiteUnit.activate (u : SiteUnit) (r : RowId) (n : Nat) : SiteUnit :=
  { u with activations := poke u.activations (rowKey r) (peek u.activations (rowKey r) + BitVec.ofNat 32 n) }

/-- A row whose counter has passed the threshold raises an alert, once. -/
def State.alertDue (s : State) (i : Fin 8) (r : RowId) : Bool :=
  decide (blobThreshold < (peek (s.sites[i]).activations (rowKey r)).toNat) && !(s.sites[i]).alerting.contains r &&
    !s.agenda.any (fun e => e.instr == .alert i r)

/-- A row of a site is activated `n` times. -/
def State.activateRow (s : State) (i : Fin 8) (r : RowId) (n : Nat) : State :=
  let s := { s with sites := s.sites.set i ((s.sites[i]).activate r n) }
  { s with agenda := if s.alertDue i r then agendaAdd s.agenda ⟨s.now, s.focus, .alert i r⟩ else s.agenda }

/-- The pseudo-channel of a line takes no activation until an alert has been met (R292, R293). -/
def State.lineHeld (s : State) (key : Nat) : Bool :=
  s.mem.region (key * 64) == .dram &&
    (s.sites[siteOf (lineSite key)]).alerting.any fun r => r.pseudoChannel == (s.lineRow key).pseudoChannel

/-- The memory of a line takes no access: its site is still training (R397), or its pseudo-channel takes no activation (R292, R293). -/
def State.lineWaits (s : State) (key : Nat) : Bool :=
  let u := s.sites[siteOf (lineSite key)]
  (!u.joined && !u.failed) || s.lineHeld key

/-- Memory behind the caches is read or written at a line. Its row is activated (DESIGN CHOICE, log entry 42: once each); an action that
cannot have that yet is taken back by the step and made later. -/
def State.activateLine (s : State) (key : Nat) : State :=
  let s := if s.lineWaits key then { s with blocked := true } else s
  if s.mem.region (key * 64) = .dram then s.activateRow (siteOf (lineSite key)) (s.lineRow key) 1 else s

/-- The owner tag of a physical page (R271). -/
def TagUnit.ownerOf (t : TagUnit) (pa : Nat) : Tag :=
  match t.dir.find? fun e => e.2 / 2 ^ 16 == pa / 2 ^ 16 with
  | some e => BitVec.ofNat 16 e.1.2
  | none => 0

/-- The owner tag of a line: that of its Cistern line, else by the tag directory (R370). -/
def State.lineOwner (s : State) (key : Nat) : Tag :=
  match s.mem.cisternAt key with
  | some c => c.owner
  | none => s.tags.ownerOf (key * 64)

/-! ### Errors in protected words (R367, R368) -/

/-- Arrays of error marks. -/
def placeCistern : Nat := 0
def placeL2 : Nat := 1
def placeDram : Nat := 2
def placeSp : Nat := 3
def placeVrf : Nat := 4
/-- The walk caches, by die in place of a core, and page. -/
def placeWalk : Nat := 5
/-- The copies of a line in the L2 of dies that are not its home, by die in place of a core. -/
def placeCopy : Nat := 6

def MemorySystem.mark (m : MemorySystem) (place core key : Nat) : Option ErrMark :=
  m.marks.find? fun k => k.place == place && k.core == core && k.key == key

def MemorySystem.unmark (m : MemorySystem) (place core key : Nat) : MemorySystem :=
  { m with marks := m.marks.filter fun k => !(k.place == place && k.core == core && k.key == key) }

/-- A copy receives a line whose source held an uncorrectable error: the error is carried (R368). -/
def MemorySystem.carry (m : MemorySystem) (fromPlace toPlace key : Nat) : MemorySystem :=
  match m.mark fromPlace 0 key with
  | some k =>
    if k.double then
      { (m.unmark toPlace 0 key) with marks := { k with place := toPlace } :: (m.unmark toPlace 0 key).marks }
    else m
  | none => m

def State.setMem (s : State) (m : MemorySystem) : State := { s with mem := m }

/-- A clean damaged copy is dropped and read again from the level below: a REFETCH event (R370). -/
def State.reportRefetch (s : State) (k : ErrMark) (source owner key : Nat) : State := s.report source 0x02 owner (key * 64) 0 k.injected

/-- The error arose in the storage of the copy that holds it. -/
def ErrMark.own (k : ErrMark) : Bool := k.origin == k.place

/-- The source number of an event about a copy of a line: the site controller of its home (DEDUCED, log entry 18: R6 lists no source of its own
for an L2 slice). -/
def placeSource (_place key : Nat) : Nat := 96 + lineSite key

/-- A correctable error found by a read: corrected, and a CE event logged (R367). -/
def State.correct (s : State) (place key : Nat) (k : ErrMark) : State :=
  (s.setMem (s.mem.unmark place 0 key)).report (placeSource place key) 0x01 (s.lineOwner key).toNat (key * 64) 0 k.injected

/-- A read of a copy corrects an error that can be corrected; whether that read serves an access, a fill or a write-back. -/
def State.readFixes (s : State) (place key : Nat) : State :=
  match s.mem.mark place 0 key with
  | some k => if k.double then s else s.correct place key k
  | none => s

/-! ### Replacement and write-back (R277, R279) -/

/-- The ways of a Cistern set that are still in use. -/
def MemorySystem.ways (m : MemorySystem) (site set : Nat) : Nat :=
  16 - (m.quarantine.filter fun q => q.1 == site && q.2.1 == set).length

/-- The directory of a line: its home die while the home slice holds it (R279). -/
def MemorySystem.dirBits (m : MemorySystem) (key : Nat) : BitVec 4 := if (m.l2At key).isSome then 1#4 <<< lineDie key else 0

/-- The directory of a Cistern line follows the home slice. -/
def MemorySystem.redirect (m : MemorySystem) (key : Nat) : MemorySystem :=
  { m with cistern := m.cistern.map fun c => if c.key == key then { c with dir := m.dirBits key } else c }

/-- Writes a dirty Cistern line back to memory; the line stays and is clean. -/
def State.cisternClean (s : State) (l : CisternLine) : State :=
  if l.dirty then
    let s := s.readFixes placeCistern l.key
    let m := ((s.mem.setDramLine l.key l.data).unmark placeDram 0 l.key).carry placeCistern placeDram l.key
    (s.setMem { m.warm l.key with cistern := upsert (·.key) { l with dirty := false } m.cistern }).activateLine l.key
  else s

/-- Drops a Cistern line. -/
def MemorySystem.cisternDrop (m : MemorySystem) (key : Nat) : MemorySystem :=
  { m.unmark placeCistern 0 key with cistern := m.cistern.filter (·.key != key) }

/-- Copies of a line in other dies go, but for one die's: errors in them go with them. -/
def MemorySystem.copyMarks (m : MemorySystem) (key : Nat) (but : Option Nat) : MemorySystem :=
  { m with marks := m.marks.filter fun k => !(k.place == placeCopy && k.key == key && some k.core != but) }

/-- Drops a line of a home slice with its die copies. -/
def MemorySystem.l2Drop (m : MemorySystem) (key : Nat) : MemorySystem :=
  let m := (m.unmark placeL2 0 key).copyMarks key none
  ({ m with l2 := m.l2.filter (·.key != key) }).redirect key

/-- A line of a home slice goes to the Cistern, which has room for it, and stays clean in the slice. -/
def State.l2ToCistern (s : State) (l : L2Line) : State :=
  let s := s.readFixes placeL2 l.key
  let c : CisternLine :=
    { key := l.key, data := l.data, dirty := true, owner := s.lineOwner l.key, dir := s.mem.dirBits l.key }
  s.setMem ((({ s.mem with
    cistern := upsert (·.key) c s.mem.cistern
    l2 := upsert (·.key) { l with dirty := false } s.mem.l2 }).unmark placeCistern 0 l.key).carry placeL2 placeCistern l.key)

/-- A Cistern line gives its way up: a copy in its home slice is recalled first, for the Cistern holds every line that an L2
holds dirty (R370) and its directory names every slice that holds the line. -/
def State.cisternEvict (s : State) (key : Nat) : State :=
  let s := match s.mem.l2At key with
    | some l => let s := if l.dirty then s.l2ToCistern l else s; s.setMem (s.mem.l2Drop key)
    | none => s
  match s.mem.cisternAt key with
  | some c => let s := s.cisternClean c; s.setMem (s.mem.cisternDrop key)
  | none => s

/-- Makes room in a full Cistern set: replacement order is not promised (R279). -/
def State.cisternRoom (s : State) (key : Nat) : State :=
  let set := s.mem.cistern.filter fun l => lineSite l.key == lineSite key && cisternSet l.key == cisternSet key
  if set.length < s.mem.ways (lineSite key) (cisternSet key) then s
  else
    let (i, s) := s.pickBelow set.length
    match set[i]? with
    | some v => s.cisternEvict v.key
    | none => s

/-- The Cistern takes lines unless it is bypassed in early service (R279) or every way of the set is quarantined. -/
def State.cisternServes (s : State) (key : Nat) : Bool :=
  s.mgmt.stage == .stage2 && 0 < s.mem.ways (lineSite key) (cisternSet key)

/-- A line is brought into the Cistern from memory (R279); an uncorrectable error in memory is carried with it. -/
def State.cisternFill (s : State) (key : Nat) (owner : Tag) : State :=
  match s.mem.cisternAt key with
  | some _ => s
  | none =>
    if s.cisternServes key then
      let s := (s.cisternRoom key).readFixes placeDram key
      let l : CisternLine :=
        { key := key, data := s.mem.dramLine key, dirty := false, owner := owner, dir := s.mem.dirBits key }
      (s.setMem (({ s.mem with cistern := upsert (·.key) l s.mem.cistern }.carry placeDram placeCistern key).warm
        key)).activateLine key
    else (s.readFixes placeDram key).activateLine key

/-- A dirty line of a home slice is written back: into the Cistern, or to memory where the Cistern does not take it. -/
def State.writeBackL2 (s : State) (l : L2Line) : State :=
  if l.dirty then
    if s.cisternServes l.key then
      (match s.mem.cisternAt l.key with
        | some _ => s
        | none => s.cisternRoom l.key).l2ToCistern l
    else
      let s := s.readFixes placeL2 l.key
      (s.setMem (((({ s.mem with l2 := upsert (·.key) { l with dirty := false } s.mem.l2 }).setDramLine l.key l.data).unmark
        placeDram 0 l.key).carry placeL2 placeDram l.key)).activateLine l.key
  else s

/-- The number of an L2 slice. -/
def sliceOfLine (key : Nat) : Nat := lineDie key * 16 + lineSlice key

/-- Lines an L2 slice holds: 4 MiB of 64-byte lines (R275), without the quarantined ways (R371). -/
def MemorySystem.sliceLines (m : MemorySystem) (slice : Nat) : Nat := 65536 - (m.l2Quarantine.filter (· == slice)).length

/-- Makes room in an L2 slice. Slices are 16-way, and the spec does not say which lines share a set: once a slice holds 16 lines, any
of them may have to go, and when it is full one of them goes (DESIGN CHOICE, log entry 20). -/
def State.l2Room (s : State) (key : Nat) : State :=
  let slice := s.mem.l2.filter fun l => sliceOfLine l.key == sliceOfLine key
  if slice.length < 16 then s
  else
    let full := decide (s.mem.sliceLines (sliceOfLine key) ≤ slice.length)
    let (i, s) := s.pickBelow (slice.length + natOfBool (!full))
    match slice[i]? with
    | some v =>
      let s := s.writeBackL2 v
      s.setMem (s.mem.l2Drop v.key)
    | none => s

/-- A Cistern copy is read: what can be corrected is, and a clean damaged copy is dropped, its way quarantined where the damage is
its own (R367, R368, R370). -/
def State.scrubCistern (s : State) (key : Nat) : State :=
  match s.mem.cisternAt key with
  | none => s
  | some c =>
    match s.mem.mark placeCistern 0 key with
    | none => s
    | some k =>
      if !k.double then s.correct placeCistern key k
      else if c.dirty then s
      else
        let m := s.mem.cisternDrop key
        let m := if k.own then { m with quarantine := (lineSite key, cisternSet key, m.quarantine.length) :: m.quarantine } else m
        (s.setMem m).reportRefetch k (placeSource placeCistern key) c.owner.toNat key

/-- The home slice takes the line (R277); the Cistern's directory names the die (R279). -/
def State.l2Fill (s : State) (key : Nat) (owner : Tag) : State :=
  match s.mem.l2At key with
  | some _ => s
  | none =>
    let s := (((s.scrubCistern key).cisternFill key owner).l2Room key)
    let (data, place) := match s.mem.cisternAt key with
      | some c => (c.data, placeCistern)
      | none => (s.mem.dramLine key, placeDram)
    let l : L2Line := { key := key, data := data, dirty := false, copies := 0 }
    s.setMem (({ s.mem with l2 := upsert (·.key) l s.mem.l2 }.carry place placeL2 key).redirect key)

/-! ### Reads with their errors (R367, R368, R370) -/

/-- What a read of a line meets: its data, or an uncorrectable error that it consumes. -/
inductive LineRead where
  | data (x : BitVec 512)
  | bad (place : ErrorPlace) (injected : Bool)
  deriving DecidableEq, Repr

/-- The uncorrectable error of a copy, and whether it was planted. -/
def MemorySystem.damage (m : MemorySystem) (place key : Nat) : Option Bool :=
  match m.mark place 0 key with
  | some k => if k.double then some k.injected else none
  | none => none

/-- Inspects the copy in memory (R370). -/
def State.inspectDram (s : State) (key : Nat) : State × Option Bool :=
  let s := s.readFixes placeDram key
  (s, s.mem.damage placeDram key)

/-- Inspects the Cistern's copy; without one the read goes on below (R370). -/
def State.inspectCistern (s : State) (key : Nat) : State × Option (ErrorPlace × Bool) :=
  let s := s.scrubCistern key
  match s.mem.cisternAt key with
  | some _ => (s, (s.mem.damage placeCistern key).map fun inj => (.cistern, inj))
  | none =>
    let r := s.inspectDram key
    (r.1, r.2.map fun inj => (.dram, inj))

/-- Inspects the copies a read at the home slice is served from (R370). -/
def State.inspectLine (s : State) (key : Nat) : State × Option (ErrorPlace × Bool) :=
  match s.mem.l2At key with
  | none => s.inspectCistern key
  | some l =>
    match s.mem.mark placeL2 0 key with
    | none => (s, none)
    | some k =>
      if !k.double then (s.correct placeL2 key k, none)
      else if l.dirty then (s, some (.l2, k.injected))
      else
        ((s.setMem (s.mem.l2Drop key)).reportRefetch k (placeSource placeL2 key) (s.lineOwner key).toNat key).inspectCistern key

/-- The copy that another die keeps of a line is read (R277): an error is corrected, or the copy goes and is fetched again from the home slice
(R370). -/
def State.scrubCopy (s : State) (key die : Nat) : State :=
  match s.mem.mark placeCopy die key with
  | none => s
  | some k =>
    if k.double then
      let m := s.mem.unmark placeCopy die key
      (s.setMem { m with l2 := m.l2.map fun l => if l.key == key then { l with copies := l.copies &&& ~~~(1#4 <<< die) } else l }).reportRefetch k
        (placeSource placeL2 key) (s.lineOwner key).toNat key
    else (s.setMem (s.mem.unmark placeCopy die key)).report (placeSource placeL2 key) 0x01 (s.lineOwner key).toNat (key * 64) 0 k.injected

/-- A read by a core of a die finds a copy there, and reads no other. -/
def MemorySystem.copyAt (m : MemorySystem) (key die : Nat) : Bool :=
  die != lineDie key && (match m.l2At key with
    | some l => l.copies.getLsbD die
    | none => false)

/-- A read of a line through its home slice by a core of a die (R277): a die that is not the home keeps a clean copy, and reads that. -/
def State.readHome (s : State) (key die : Nat) (owner : Tag) : State × LineRead :=
  let s := s.scrubCopy key die
  if s.mem.copyAt key die then (s, .data (s.mem.lineAt key))
  else match s.inspectLine key with
  | (s, some (p, inj)) => (s, .bad p inj)
  | (s, none) =>
    let s := s.l2Fill key owner
    let x := s.mem.lineAt key
    let l2 := s.mem.l2.map fun l =>
      if l.key == key && die != lineDie key then { l with copies := l.copies ||| (1#4 <<< die) } else l
    (s.setMem { s.mem with l2 := l2 }, .data x)

/-! ### The Weir's view of writes (R47, R48) -/

/-- The compare of R47. -/
def weirHolds (cmp : BitVec 3) (word value mask : Word) : Bool :=
  let x := word &&& mask
  let y := value &&& mask
  match cmp.toNat with
  | 0 => x == y
  | 1 => x != y
  | 2 => !x.slt y
  | 3 => x.slt y
  | 4 => !x.ult y
  | 5 => x.ult y
  | _ => false

/-- The entry fires (R48): the firing has happened from here on, and WEIR_FIRE sends its command on its way; a one-shot entry becomes
free. -/
def State.raiseFiring (s : State) (e : WeirEntry) : State :=
  let f : Firing := { id := s.control.weirCount, entry := e.index, serial := e.serial, tq := e.tq, bound := e.bound, stage := .raised }
  State.postFor
    { s with control := { s.control with
        weir := if e.rearm then s.control.weir else s.control.weir.filter (·.serial != e.serial)
        spent := if e.rearm then s.control.spent else e.index :: s.control.spent
        firings := s.control.firings ++ [f]
        weirCount := s.control.weirCount + 1 } }
    { s.focus with entry := ⟨e.index % 64, Nat.mod_lt _ (by decide)⟩ } s.now .weirFire

/-- The entry holds a pending firing: a satisfying write is not counted (R49). -/
def State.firingPends (s : State) (serial : Nat) : Bool :=
  s.control.firings.any fun f => f.serial == serial && f.stage == .pending

/-- Entries that watch words of `[pa, pa + n)` evaluate their compares on the result of a write. -/
def State.weirSees (s : State) (pa n : Nat) : State :=
  s.control.weir.foldl (fun s e =>
    if decide (pa < e.addr + 8 ∧ e.addr < pa + n) && !s.firingPends e.serial &&
        weirHolds e.cmp (BitVec.ofNat 64 (s.mem.number e.addr 8)) e.value e.mask then
      s.raiseFiring e
    else s) s

/-! ### Writes (R277, R278) -/

/-- A home slice's own clean copy that is damaged goes before it is read, for it is fetched again from the level below (R368, R370). -/
def State.scrubHome (s : State) (key : Nat) : State :=
  match s.mem.l2At key, s.mem.mark placeL2 0 key with
  | some l, some k =>
    if !k.double then s.correct placeL2 key k
    else if l.dirty then s
    else (s.setMem (s.mem.l2Drop key)).reportRefetch k (placeSource placeL2 key) (s.lineOwner key).toNat key
  | _, _ => s

/-- A write is performed at DEVICE scope in the home slice: copies of other dies are invalidated; a write of the whole
line removes an error, and a write of part of it reads the line first, and leaves poison that no copy below repairs (R367, R368). -/
def State.writeHome (s : State) (key off : Nat) (bs : List Byte) (die : Nat) (owner : Tag) : State :=
  let s := if bs.length = 64 then s else (s.scrubHome key).scrubCopy key die
  let s := s.l2Fill key owner
  let m := if bs.length = 64 then (s.mem.unmark placeL2 0 key).copyMarks key none else s.mem.copyMarks key (some die)
  let l2 := m.l2.map fun l =>
    if l.key == key then
      { l with data := patchLine l.data off bs, dirty := true, copies := l.copies &&& (1#4 <<< die) }
    else l
  (s.setMem { m with l2 := l2 }).weirSees (key * 64 + off) bs.length

/-- Writes bytes at DEVICE scope, line by line. -/
def State.writeDevice (s : State) : Nat → Nat → List Byte → Nat → Tag → State
  | 0, _, _, _, _ => s
  | fuel + 1, pa, bs, die, owner =>
    if bs.isEmpty then s
    else
      let k := min bs.length (64 - pa % 64)
      (s.writeHome (pa / 64) (pa % 64) (bs.take k) die owner).writeDevice fuel (pa + k) (bs.drop k) die owner

/-! ### Agents outside the cores (R280) -/

/-- Recalls a line that a home slice holds dirty: it is written back and invalidated there. -/
def State.recall (s : State) (key : Nat) : State :=
  match s.mem.l2At key with
  | some l => if l.dirty then let s := s.writeBackL2 l; s.setMem (s.mem.l2Drop key) else s
  | none => s

/-- A read by an agent, at SYSTEM scope. -/
def State.agentRead (s : State) (key : Nat) : State × LineRead :=
  let s := s.recall key
  match s.inspectCistern key with
  | (s, some (p, inj)) => (s, .bad p inj)
  | (s, none) =>
    let s := s.cisternFill key (s.tags.ownerOf (key * 64))
    (s, .data (match s.mem.cisternAt key with
      | some c => c.data
      | none => s.mem.dramLine key))

/-- A write by an agent: every copy the directory names is invalidated and the Cistern line is updated; the home slice's
Weir entries see it. -/
def State.agentWriteLine (s : State) (key off : Nat) (bs : List Byte) : State :=
  let s := s.recall key
  let s := ((s.setMem (s.mem.l2Drop key)).scrubCistern key).cisternFill key (s.tags.ownerOf (key * 64))
  let s := match s.mem.cisternAt key with
    | some c =>
      let s := if bs.length = 64 then s else s.readFixes placeCistern key
      let m := if bs.length = 64 then s.mem.unmark placeCistern 0 key else s.mem
      s.setMem { m with cistern := upsert (·.key) { c with data := patchLine c.data off bs, dirty := true, dir := 0 } m.cistern }
    | none =>
      let m := if bs.length = 64 then s.mem.unmark placeDram 0 key else s.mem
      (s.setMem (m.setDramLine key (patchLine (m.dramLine key) off bs))).activateLine key
  s.weirSees (key * 64 + off) bs.length

/-- A write by an agent, line by line. -/
def State.agentWrite (s : State) : Nat → Nat → List Byte → State
  | 0, _, _ => s
  | fuel + 1, pa, bs =>
    if bs.isEmpty then s
    else
      let k := min bs.length (64 - pa % 64)
      (s.agentWriteLine (pa / 64) (pa % 64) (bs.take k)).agentWrite fuel (pa + k) (bs.drop k)

/-- What an agent's read of a run of bytes gives: the bytes, or the first error it meets. -/
inductive AgentData where
  | bytes (bs : List Byte)
  | bad (line : Nat) (place : ErrorPlace) (injected : Bool)
  deriving DecidableEq, Repr

/-- A read by an agent, line by line; the zero page reads as zero (R255). -/
def State.agentBytes (s : State) : Nat → Nat → Nat → State × AgentData
  | 0, _, _ => (s, .bytes [])
  | fuel + 1, pa, n =>
    if n = 0 then (s, .bytes [])
    else
      let k := min n (64 - pa % 64)
      if s.mem.region pa = .zero then
        match s.agentBytes fuel (pa + k) (n - k) with
        | (s, .bytes rest) => (s, .bytes (zeroBytes k ++ rest))
        | r => r
      else
        match s.agentRead (pa / 64) with
        | (s, .bad p inj) => (s, .bad (pa / 64) p inj)
        | (s, .data x) =>
          match s.agentBytes fuel (pa + k) (n - k) with
          | (s, .bytes rest) => (s, .bytes (lineBytes x (pa % 64) k ++ rest))
          | r => r

/-- An agent's read of `n` bytes. -/
def State.agentRun (s : State) (pa n : Nat) : State × AgentData := s.agentBytes (n / 64 + 2) pa n

/-- An agent's write of bytes. -/
def State.agentStore (s : State) (pa : Nat) (bs : List Byte) : State := s.agentWrite (bs.length / 64 + 2) pa bs

/-! ### The request calendar (R281, R282) -/

/-- The first cycle at or after `t` on which a core owns a slot at a site: position (k div 3 + 4s) mod 32. -/
def State.slotFrom (s : State) (core site t : Nat) : Nat :=
  let p := (core / 3 + 4 * site) % 32
  t + (p + 32 - (t - s.clock.calZero) % 32) % 32

/-- A core's miss asks for its line: it joins a request for the same block that is not yet issued, or becomes one. A slot
that has issued a request on this cycle is taken (R281). -/
def State.askLine (s : State) (core key : Nat) : State :=
  let block := key / 16
  if s.mem.requests.any (fun r => r.core == core && r.lines.contains key) then s
  else if s.mem.requests.any (fun r => r.core == core && r.block == block && r.due == none) then
    s.setMem { s.mem with requests := s.mem.requests.map fun r =>
      if r.core == core && r.block == block && r.due == none then { r with lines := r.lines ++ [key] } else r }
  else
    let site := lineSite key
    let waits := s.mem.requests.any fun r => r.core == core && r.site == site && r.due == none
    let taken := s.mem.requests.any fun r => r.core == core && r.site == site && r.due.isSome && r.slot == s.now
    let r : CalRequest := { core := core, site := site, block := block, lines := [key], ready := s.now, slot := 0, due := none }
    let s := s.setMem { s.mem with requests := s.mem.requests ++ [r] }
    if waits then s
    else s.postFor { Focus.zero with core := coreOf core, site := ⟨site % 8, Nat.mod_lt _ (by decide)⟩ }
      (s.slotFrom core site (s.now + natOfBool taken)) .calendarSlot

end Sys2Proof.Machine
end

