-- ==== Sys2Proof/Machine/Xlat.lean ====
section
/-! DEFINITION. Address translation (R197 to R199, R253 to R255, R267, R283 to R286, R288, R290): page-table walks, the
resolution of tags, the faults a translation takes, and the materialisation and compression pools (R257). -/

namespace Sys2Proof.Machine

/-! ### Access kinds (R31, R199, R254, R267) -/

inductive Kind where
  | read | write | ro | rowSrc | rowDst | xread | xwrite | atomic | code | probe
  deriving DecidableEq, Repr

/-- The PTE bits a kind requires beside V (R199, R254, R267, R285, R222). -/
def Kind.needs : Kind → Nat
  | .read | .ro | .rowSrc => 0x004
  | .write | .rowDst => 0x008
  | .atomic => 0x00C
  | .xread => 0x104
  | .xwrite => 0x108
  | .code => 0x010
  | .probe => 0

/-- Whether a kind writes. -/
def Kind.writes : Kind → Bool
  | .write | .rowDst | .atomic | .xwrite => true
  | .read | .ro | .rowSrc | .xread | .code | .probe => false

/-- A canonical virtual address (R197). -/
def canonical (va : Word) : Bool := bitsAt va 57 7 == (if va.getLsbD 56 then 127 else 0)

/-! ### Page tables (R283 to R285) -/

def pteV (p : Word) : Bool := p.getLsbD 0
def pteL (p : Word) : Bool := p.getLsbD 1
def pteA (p : Word) : Bool := p.getLsbD 5
def pteD (p : Word) : Bool := p.getLsbD 6
def pteT (p : Word) : Bool := p.getLsbD 7
def pteRI (p : Word) : Bool := p.getLsbD 9
def pteC (p : Word) : Bool := p.getLsbD 10

/-- The physical address of the page a leaf maps. -/
def ptePage (p : Word) : Nat := bitsAt p 16 41 * 2 ^ 16

/-- What a walk ends with (R285); `bad` names a table line with an uncorrectable error. -/
inductive Walk where
  | leaf (e : XlatEntry)
  | declined
  | compressed (pteAddr : Nat)
  | invalid
  | bad (line : Nat)
  deriving DecidableEq, Repr

/-- The levels of R283: number, lowest VA bit indexed, number of index bits. -/
def walkLevels : List (Nat × Nat × Nat) := [(3, 43, 14), (2, 30, 13), (1, 21, 9), (0, 16, 5)]

/-- The lowest VA bit that indexes a level (R283); a leaf there leaves the bits below to the offset. -/
def levelShift (level : Nat) : Nat :=
  match level with
  | 0 => 16
  | 1 => 21
  | 2 => 30
  | _ => 43

/-- Tables lie in device DRAM or the board tier (R283). -/
def MemorySystem.tableOk (m : MemorySystem) (pa : Nat) : Bool :=
  match m.region pa with
  | .dram | .board _ => true
  | _ => false

/-- A read of a line at DEVICE scope would meet an uncorrectable error that no lower copy repairs (R370). -/
def MemorySystem.poisoned (m : MemorySystem) (key : Nat) : Bool :=
  let dbl (place : Nat) : Bool := match m.mark place 0 key with
    | some k => k.double
    | none => false
  match m.l2At key with
  | some l => if dbl placeL2 then
      l.dirty || (match m.cisternAt key with
        | some c => if dbl placeCistern then c.dirty || dbl placeDram else false
        | none => dbl placeDram)
    else false
  | none => match m.cisternAt key with
    | some c => if dbl placeCistern then c.dirty || dbl placeDram else false
    | none => dbl placeDram

/-- A leaf entry that breaks R284: reserved bits [15:11], or a page number not aligned to the level's size. -/
def leafMalformed (p : Word) (level : Nat) : Bool :=
  bitsAt p 11 5 != 0 || bitsAt p 16 (levelShift level - 16) != 0

/-- What one entry of a table says (R285): the first row of the rule's table that applies, or the table it points to. -/
inductive Entry where
  | ends (w : Walk)
  | table (pa : Nat)
  deriving DecidableEq, Repr

/-- A leaf entry that is not valid and whose C bit is honoured: a compressed page of 64 KiB, with a HANDLE (R284, R285). -/
def pteImage (p : Word) (level : Nat) : Bool := pteC p && level == 0 && !pteT p

/-- The entry `p` at `addr`, met at a level of a walk for `va` (R283 to R285). -/
def MemorySystem.entryOf (m : MemorySystem) (root : Nat) (va : Word) (level : Nat) (addr : Nat) (p : Word) : Entry :=
  if bitsAt p 57 7 != 0 || (pteL p && level == 3) || (!pteL p && level == 0) then .ends .declined
  else if !pteL p then
    (if bitsAt p 2 6 != 0 || !m.tableOk (bitsAt p 8 49 * 2 ^ 8) then .ends .declined
     else if !pteV p then .ends .invalid
     else .table (bitsAt p 8 49 * 2 ^ 8))
  else if !pteV p then
    (if pteImage p level then (if p.getLsbD 11 then .ends .declined else .ends (.compressed addr)) else .ends .invalid)
  else if leafMalformed p level then .ends .declined
  else .ends (.leaf { root := root, page := bitsAt va 16 48, pte := p, pteAddr := addr, level := level })

/-- A read of a table entry at SYSTEM scope, through the Cistern (R280, R283). An uncorrectable error gives no entry; the line is handled,
and no item ends at that step (R371). -/
def State.tableRead (s : State) (addr : Nat) : State × Option Word :=
  match s.agentRead (addr / 64) with
  | (s, .bad p inj) => (s.post (.ownerHandling { place := p, line := addr / 64, consumer := .tableWalk, injected := inj }), none)
  | (s, .data x) => (s, some (BitVec.ofNat 64 (leNat (lineBytes x (addr % 64) 8))))

/-- An address whose access is a declined fault: a reserved range (R273), or a site that failed training (R397). -/
def State.gone (s : State) (pa : Nat) : Bool :=
  s.mem.region pa == .reserved || ((s.mem.region pa).cached && (s.sites[siteOf (lineSite (pa / 64))]).failed)

/-- A record of the device goes to memory; at a site that failed training it is lost (R397). -/
def State.recordStore (s : State) (pa : Nat) (bs : List Byte) : State := if s.gone pa then s else s.agentStore pa bs

/-- A walk cache's entry lies on the walk for a virtual address at a level: a pointer to the next table (R285). -/
def XlatEntry.leads (e : XlatEntry) (root level : Nat) (va : Word) : Bool :=
  !pteL e.pte && e.root == root && e.level == level &&
    e.page / 2 ^ (levelShift level - 16) == bitsAt va 16 48 / 2 ^ (levelShift level - 16)

/-- The next table as the walk cache of a die names it. -/
def MemorySystem.cachedTable (m : MemorySystem) (die : Option Nat) (root level : Nat) (va : Word) : Option Nat :=
  match die with
  | none => none
  | some d => (m.walkCache.find? fun x => x.1 == d && x.2.leads root level va).map fun x => bitsAt x.2.pte 8 49 * 2 ^ 8

/-- A table entry enters the walk cache of a die. -/
def State.cacheEntry (s : State) (die : Option Nat) (e : XlatEntry) : State :=
  match die with
  | none => s
  | some d => if s.mem.walkCache.contains (d, e) then s.setMem (s.mem.unmark placeWalk d e.page)
    else s.setMem { s.mem.unmark placeWalk d e.page with walkCache := (d, e) :: s.mem.walkCache }

/-- The walk as it is served: entries that the walk cache of a die does not hold are read, and enter it. -/
def walkBy (die : Option Nat) (root : Nat) (va : Word) : State → Nat → List (Nat × Nat × Nat) → State × Walk
  | s, _, [] => (s, .declined)
  | s, table, (level, lo, n) :: rest =>
    if !s.mem.tableOk table || s.gone table then (s, .declined)
    else
      let addr := table + 8 * bitsAt va lo n
      match s.mem.cachedTable die root level va with
      | some next => walkBy die root va s next rest
      | none =>
        match s.tableRead addr with
        | (s, none) => (s, .bad (addr / 64))
        | (s, some p) =>
          match s.mem.entryOf root va level addr p with
          | .ends w => (s, w)
          | .table next =>
            walkBy die root va (s.cacheEntry die { root := root, page := bitsAt va 16 48, pte := p, pteAddr := addr, level := level })
              next rest

/-- A walk of an address space, served by the memory processor of a die, or by a unit with no walk cache. -/
def State.serveWalk (s : State) (die : Option Nat) (root : Nat) (va : Word) : State × Walk :=
  walkBy die root va s root walkLevels

/-! ### Tags (R253, R254, R260) -/

/-- Whether a tag is LIVE; tag 0 always is (R260). -/
def TagUnit.isLive (t : TagUnit) (c : Nat) : Bool :=
  c == 0 || t.tags.any fun e => e.1 == c && e.2 == .live

/-- An access of a unit that has been translated under a tag still goes through when the tag retires (R269); another one of its core, or of
another kind, does not (R270). -/
def TagUnit.owes (t : TagUnit) (unit : Actor) (req : FaultReq) : Bool :=
  t.owed.any fun o => o.unit == unit && o.req.write == req.write && o.req.source == req.source && o.req.tag == req.tag && o.req.root == req.root &&
    o.req.va.toNat / 65536 == req.va.toNat / 65536

/-- The page of its own the directory holds for a page and a tag (R256). -/
def TagUnit.ownPage? (t : TagUnit) (page c : Nat) : Option Nat :=
  (t.dir.find? fun e => e.1.1 == page && e.1.2 == c).map (·.2)

/-- The page of R255 that has no lines of its own. -/
def zeroPage : Nat := 0x00FF_FFFE_0000

/-! ### Translation (R254) -/


/-- What a translation gives. -/
inductive Xlat where
  | pa (a : Nat) (e : XlatEntry)
  | light (ev : Instr)
  | trap (code : Nat)
  | stall
  deriving DecidableEq, Repr

/-- The request a faulting access makes. -/
def faultOf (source root : Nat) (va : Word) (tag : Tag) (k : Kind) : FaultReq :=
  { source := source, root := root, va := va, tag := tag, write := k.writes, site := 0 }

/-- The key of a page in the tag directory (R255, R256). -/
def pageKey (e : XlatEntry) : Nat := if ptePage e.pte = zeroPage then e.pteAddr else ptePage e.pte

/-- A memory site that has not joined holds a request (R397), and so does a pseudo-channel that takes no activation, for a line that the
Cistern does not hold (R292, R293). -/
def State.siteHolds (s : State) (pa : Nat) : Bool :=
  (s.mem.region pa).cached &&
    (let u := s.sites[siteOf (lineSite (pa / 64))]
     (!u.joined && !u.failed) || (s.lineHeld (pa / 64) && (s.mem.cisternAt (pa / 64)).isNone))

/-- Translation once the leaf entry is known (R254, R255, R273, R286, R290). -/
def State.resolve (s : State) (e : XlatEntry) (req : FaultReq) (k : Kind) : Xlat :=
  let p := e.pte
  let off := req.va.toNat % 2 ^ levelShift e.level
  let base := ptePage p + off
  let zero := base / 2 ^ 16 * 2 ^ 16 == zeroPage
  -- the accessed and dirty faults, and the write stall of a page in flight
  let settle (a : Nat) : Xlat :=
    if k = .probe then .pa a e
    else if k.writes && s.mem.inFlight.contains (a / 2 ^ 16) then .stall
    else if k.writes && !pteD p then .light (.dirtyFault e.pteAddr)
    else if !pteA p then .light (.accessedFault e.pteAddr)
    else .pa a e
  let plain : Xlat :=
    if k.writes && zero then .trap 1
    else if s.gone base then .trap 0
    else settle base
  if p.toNat &&& k.needs ≠ k.needs then .trap 1
  else if pteT p && (e.level != 0 || s.mgmt.stage != .stage2) then .trap 0
  else if !pteT p || req.tag == 0 then plain
  else if !s.tags.isLive req.tag.toNat && !s.tags.owes s.actor req then .trap 0
  else match s.tags.ownPage? (pageKey e) req.tag.toNat with
    | some f => if s.tags.retiredPages.contains f then .trap 0 else settle (f + off)
    | none =>
      if !k.writes then
        (if s.gone base then .trap 0 else settle base)
      else if s.gone base then .trap 0
      else .light (.materialisation req e.pteAddr)

/-- A cached translation of a page: the TLB of the core, else the walk cache of its die (R285). An entry with a parity error is as good as
gone, for it is invalidated and fetched again (R367). -/
def State.cachedXlat (s : State) (core root page : Nat) : Option XlatEntry :=
  let fits (e : XlatEntry) : Bool :=
    pteL e.pte && e.root == root && e.page / 2 ^ (levelShift e.level - 16) == page / 2 ^ (levelShift e.level - 16)
  match (s.cores[coreOf core]).caches.tlb.find? fun e => fits e && ((s.cores[coreOf core]).damageIn partTlb e.page 1).isNone with
  | some e => some e
  | none => (s.mem.walkCache.find? fun d =>
      d.1 == dieOf core && fits d.2 && (s.mem.mark placeWalk (dieOf core) d.2.page).isNone).map (·.2)

/-- Translate (R31) for a core, by a requester with a number of its own. A translation that no cache holds is a walk miss,
whatever the walk then ends with (R285). -/
def State.translateFor (s : State) (core source root : Nat) (va : Word) (tag : Tag) (k : Kind) : Xlat :=
  let req := faultOf source root va tag k
  match s.cachedXlat core root (bitsAt va 16 48) with
  | some e => s.resolve e req k
  | none => .light (.walkMiss req)

/-- Translates a page for a core without a fault (R221, R222): what no cache holds is walked at once, by the memory processor of the core's
die, and a page without a valid translation gives none. -/
def State.probe (s : State) (core root : Nat) (va : Word) (tag : Tag) : State × Option Nat :=
  let found (s : State) (e : XlatEntry) : State × Option Nat :=
    match s.resolve e (faultOf core root va tag .probe) .probe with
    | .pa a _ => (s, some a)
    | _ => (s, none)
  if !canonical va then (s, none)
  else match s.cachedXlat core root (bitsAt va 16 48) with
    | some e => found s e
    | none => match s.serveWalk (some (dieOf core)) root va with
      | (s, .leaf e) => found s e
      | (s, _) => (s, none)

/-- Translate (R31) for an instruction of a core. -/
def State.translate (s : State) (core root : Nat) (va : Word) (tag : Tag) (k : Kind) : Xlat :=
  s.translateFor core core root va tag k

/-! ### Faults of a core's own instructions (R69, R354) -/

/-- The fault that a unit has taken for a service. -/
def Core.faultFor (c : Core) (u : Actor) (ev : Instr) : Option PendingFault := c.faults.find? fun f => f.unit == u && f.origin == ev

/-- A unit waits for no service any more. -/
def Core.dropFaults (c : Core) (u : Actor) : Core :=
  if c.faults.isEmpty then c else { c with faults := c.faults.filter fun f => f.unit != u }

/-- A fault has been taken by the unit that acts: its service is pending, and the stall wire of the core's sync group is asserted
until it is served. -/
def State.await (s : State) (ev : Instr) : State :=
  let c := s.core
  let s := if (c.faultFor s.actor ev).isSome then s
    else s.withCore { c with faults := c.faults ++ [{ unit := s.actor, origin := ev, event := ev, declined := false }] }
  if s.agenda.any (·.instr == ev) then s else s.post ev

/-- A served fault leaves every core; the stall wire drops with the last one (R70). -/
def State.served (s : State) (ev : Instr) : State :=
  { s with cores := s.cores.map fun c =>
      if c.faults.isEmpty then c else { c with faults := c.faults.filter fun f => !(f.event == ev) } }

/-! ### Pools (R257, R288) -/

/-- The pages of a site's materialisation pool, lowest first: pages of one site lie 512 KiB apart (R275). -/
def TagUnit.poolPages (t : TagUnit) (site : Nat) : List Nat :=
  (List.range ((t.mpcnt.toList.getD site 0).toNat)).map fun k =>
    bitsAt (t.mpbase.toList.getD site 0) 16 41 * 2 ^ 16 + k * 2 ^ 19

/-- The first page of a pool at or after its `k`-th that is not in use, among `n`. -/
def TagUnit.freeFrom (t : TagUnit) (site : Nat) : Nat → Nat → Option Nat
  | 0, _ => none
  | n + 1, k =>
    let f := bitsAt (t.mpbase.toList.getD site 0) 16 41 * 2 ^ 16 + k * 2 ^ 19
    if t.used.contains f || t.retiredPages.contains f then t.freeFrom site n (k + 1) else some f

/-- A free page of a site's pool. -/
def TagUnit.freePage (t : TagUnit) (site : Nat) : Option Nat :=
  t.freeFrom site (t.mpcnt.toList.getD site 0).toNat 0

/-! ### Writing page-table entries (R286) -/

/-- Copies of a leaf entry in the TLB of a core take its new value. -/
def Core.refreshTlb (c : Core) (addr : Nat) (p : Word) : Core :=
  { c with caches := { c.caches with tlb := c.caches.tlb.map fun e => if e.pteAddr == addr then { e with pte := p } else e } }

/-- Copies of a leaf entry in the walk caches take its new value, and those in the TLBs of the cores for which a fault is served;
the TLBs of other cores keep what they were filled with (R286). -/
def State.refreshXlat (s : State) (who : List (Fin 96)) (addr : Nat) (p : Word) : State :=
  { s with
    cores := who.foldl (fun v (i : Fin 96) => v.set i ((s.cores[i]).refreshTlb addr p)) s.cores
    mem := { s.mem with walkCache := s.mem.walkCache.map fun d =>
      if d.2.pteAddr == addr && pteL d.2.pte then (d.1, { d.2 with pte := p }) else d } }

/-- Cached copies of the entries that a test names are dropped, in every core and every walk cache. -/
def State.dropXlat (s : State) (gone : XlatEntry → Bool) : State :=
  { s with
    cores := s.cores.map fun c =>
      if c.caches.tlb.isEmpty then c
      else { c with caches := { c.caches with tlb := c.caches.tlb.filter fun e => !gone e } }
    mem := { s.mem with walkCache := s.mem.walkCache.filter fun d => !gone d.2 } }

/-- The leaf entry at a physical address as memory holds it; a service reads it first, with what errors the line holds (`State.tableRead`). -/
def State.pteAt (s : State) (addr : Nat) : Word := BitVec.ofNat 64 (s.mem.number addr 8)

/-- Cached copies of a leaf entry take the value memory holds, or go where that is no valid leaf. -/
def State.rereadPte (s : State) (who : List (Fin 96)) (addr : Nat) : State :=
  if pteV (s.pteAt addr) && pteL (s.pteAt addr) then s.refreshXlat who addr (s.pteAt addr) else s.dropXlat (·.pteAddr == addr)

/-- Writes a leaf entry at SYSTEM scope, for the cores that wait for it. -/
def State.writePte (s : State) (cores : List (Fin 96)) (addr : Nat) (p : Word) : State :=
  (s.agentStore addr (leBytes 8 p.toNat)).refreshXlat cores addr p

/-- Sets A, and D for a write (R286). -/
def State.markPte (s : State) (cores : List (Fin 96)) (addr : Nat) (write : Bool) : State :=
  let p := s.pteAt addr
  let q := p ||| (if write then 0x60 else 0x20)
  if p = q then s.refreshXlat cores addr p else s.writePte cores addr q

/-- What a translation gives an agent that reads the tables itself (the Sluice, the loader's reads, the collective sequencer): an
address, no translation, or a write to a page in flight, which waits (R290). -/
inductive AgentXlat where
  | pa (a : Nat)
  | fail
  | wait
  deriving DecidableEq, Repr

/-- What a walk gives an agent: A and D are set at once, and it waits for no fault. -/
def State.agentWalked (s : State) (w : Walk) (root : Nat) (va : Word) (tag : Tag) (k : Kind) : State × AgentXlat :=
  match w with
  | .leaf e =>
    let e' := { e with pte := e.pte ||| (if k.writes then 0x60 else 0x20) }
    match s.resolve e' (faultOf 108 root va tag k) k with
    | .pa a _ => (s.markPte [] e.pteAddr k.writes, .pa a)
    | .stall => (s, .wait)
    | _ => (s, .fail)
  | _ => (s, .fail)

/-- A translation by an agent. -/
def State.agentXlat (s : State) (root : Nat) (va : Word) (tag : Tag) (k : Kind) : State × AgentXlat :=
  if !canonical va then (s, .fail)
  else
    let r := s.serveWalk none root va
    r.1.agentWalked r.2 root va tag k

end Sys2Proof.Machine
end

