-- ==== Sys2Proof/Machine/Regs.lean ====
section
/-! DEFINITION. The device registers (R38, R51, R52, R257, R261, R274, R287, R288, R294, R332, R355, R358, R385, R394):
what each offset of the register BAR reads as and what a write to it does. -/

namespace Sys2Proof.Machine

abbrev Answer := Host.Outcome State Fault Refusal

/-! ### Fields -/

/-- Bits [hi:lo] of a word in place. -/
def fieldIn (v : Word) (hi lo : Nat) : Nat := bitsAt v lo (hi + 1 - lo) * 2 ^ lo

/-- A list entry of a vector register file. -/
def wordAt (v : Vector Word 8) (i : Nat) : Word := v.toList.getD i 0

/-- Queue registers by number. -/
def queueOf (q : Nat) : Fin 16 := ⟨q % 16, Nat.mod_lt _ (by decide)⟩

/-- PRIO of a queue (R38). -/
def SluiceQueue.prio (q : SluiceQueue) : Nat := bitsAt q.ctl 6 2
def SluiceQueue.enabled (q : SluiceQueue) : Bool := q.ctl.getLsbD 8
def SluiceQueue.termOk (q : SluiceQueue) : Bool := q.ctl.getLsbD 9
def SluiceQueue.pto (q : SluiceQueue) : Nat := bitsAt q.ctl 16 32
def SluiceQueue.logSize (q : SluiceQueue) : Nat := bitsAt q.ctl 0 5
def SluiceQueue.rootPa (q : SluiceQueue) : Nat := bitsAt q.root 12 45 * 2 ^ 12

/-- LOGSIZE lies in its range (R14, R38). -/
def SluiceQueue.sized (q : SluiceQueue) : Bool := decide (4 ≤ q.logSize ∧ q.logSize ≤ 16)

/-- A queue register (R38). -/
def SluiceQueue.reg (q : SluiceQueue) (o : Nat) : Word :=
  match o with
  | 0x00 => q.base
  | 0x08 => q.ctl
  | 0x10 => q.root
  | 0x18 => q.head.zeroExtend 64
  | 0x28 => q.qdone
  | 0x30 => BitVec.ofNat 64 (natOfBool q.error + q.errcode.toNat * 2 + min 7 q.fired.length * 32)
  | _ => 0

/-- STATE of a mailbox (R51). -/
def CoreStatus.code : CoreStatus → Nat
  | .idle => 0
  | .loading => 1
  | .loaded => 1
  | .running => 2
  | .ended => 3

/-- A mailbox as software reads it (R51). -/
def Core.mailboxWord (c : Core) (k : Nat) : Word :=
  BitVec.ofNat 64 (bitsAt (putBits (putBits (putBits c.mailbox 896 128 0) 896 2 c.status.code) 904 8 c.lstat.toNat)
    (64 * k) 64)

/-- The writable fields of a mailbox (R51). -/
def mailboxMask : BitVec 1024 :=
  BitVec.ofNat 1024 ((2 ^ 512 - 1) + (2 ^ 16 - 1) * 2 ^ 512 + (2 ^ 6 - 1) * 2 ^ 544 + (2 ^ 45 - 1) * 2 ^ 588 +
    (2 ^ 32 - 1) * 2 ^ 640)

/-- Tags in a state (R261). -/
def TagUnit.count (t : TagUnit) (st : TagState) : Nat := (t.tags.filter fun e => e.2 == st).length

/-- A tag is LIVE or RETIRING (R257). -/
def TagUnit.busy (t : TagUnit) : Bool := !t.tags.isEmpty

/-- SITEUP (R394). -/
def State.siteUp (s : State) : Nat :=
  (List.range 8).foldl (fun n i => n + natOfBool (s.sites[siteOf i]).joined * 2 ^ i) 0

/-- STAGE (R394). -/
def Stage.code : Stage → Nat
  | .stage0 => 0
  | .stage1 => 1
  | .stage2 => 2

/-- A register of the management page (R394). -/
def State.mgmtReg (s : State) (o : Nat) : Word :=
  match o with
  | 0x00 => BitVec.ofNat 64 (s.mgmt.stage.code + s.siteUp * 2 ^ 8 + s.mgmt.idle * 2 ^ 18)
  | 0x08 => s.mgmt.tol.zeroExtend 64
  | 0x10 | 0x18 | 0x20 | 0x30 | 0x38 | 0x40 => peek s.mgmt.regs o
  | _ => 0

/-- A register of the Tchiac ports (R332). -/
def Fabric.reg (f : Fabric) (o : Nat) : Word :=
  if 0x32100 ≤ o ∧ o < 0x321C0 then
    BitVec.ofNat 64 (natOfBool (f.portsUp.getLsbD ((o - 0x32100) / 8)) +
      2 * natOfBool (f.portsFailed.getLsbD ((o - 0x32100) / 8)))
  else peek f.regs o

/-- A register of the order log (R385). -/
def OrderLog.reg (l : OrderLog) (o : Nat) : Word :=
  match o with
  | 0x600 => l.base
  | 0x608 => l.tail.zeroExtend 64
  | 0x610 => l.replayBase
  | 0x618 => l.replayCount.zeroExtend 64
  | 0x620 => BitVec.ofNat 64 (natOfBool l.replay + 2 * natOfBool l.weir + 64 * natOfBool l.ovf +
      128 * natOfBool l.diverged)
  | _ => 0

/-- A register of the units between 0x2_0000 and 0x2_FFFF, by its offset there; TAGNEW is read through `allocNow`. -/
def State.unitReg (s : State) (o : Nat) : Word :=
  if o = 0x010 then
    BitVec.ofNat 64 (min 65535 s.tags.waiters.length + s.tags.count .live * 2 ^ 16 + s.tags.count .retiring * 2 ^ 32)
  else if 0x040 ≤ o ∧ o < 0x0C0 then
    (if o % 16 = 0 then wordAt s.tags.mpbase ((o - 0x40) / 16) else wordAt s.tags.mpcnt ((o - 0x40) / 16))
  else if o = 0x100 then s.mem.tiroot
  else if o = 0x110 then wordOfBool s.mem.tiBusy
  else if 0x200 ≤ o ∧ o < 0x400 then
    let t := s.tiers[siteOf ((o - 0x200) / 64)]
    match o % 64 with
    | 0x00 => t.csbase
    | 0x08 => t.cscnt
    | 0x18 => BitVec.ofNat 64 (natOfBool t.terr + 16 * t.queue.length)
    | _ => 0
  else if 0x400 ≤ o ∧ o < 0x440 then (s.sites[siteOf ((o - 0x400) / 8)]).region
  else match o with
    | 0x500 => s.pages.base
    | 0x508 => s.pages.prtail.zeroExtend 64
    | 0x510 => s.pages.prhead.zeroExtend 64
    | 0x520 => BitVec.ofNat 64 s.pages.outstanding.length
    | _ => s.order.reg o

/-- What a register of the BAR reads as (R274); an unassigned offset reads 0. -/
def State.regRead (s : State) (off : Nat) : Word :=
  if off % 8 ≠ 0 then 0
  else if off < 0x400 then (s.control.queues[queueOf (off / 0x40)]).reg (off % 0x40)
  else if 0x10000 ≤ off ∧ off < 0x13000 then
    (s.cores[coreOf ((off - 0x10000) / 0x80)]).mailboxWord ((off - 0x10000) % 0x80 / 8)
  else if 0x13000 ≤ off ∧ off < 0x13300 then
    let c := s.cores[coreOf ((off - 0x13000) / 8)]
    BitVec.ofNat 64 (natOfBool c.prq + 2 * natOfBool c.irq)
  else if off = 0x13400 then BitVec.ofNat 64 (bitsAt s.control.cpool 0 64)
  else if off = 0x13408 then BitVec.ofNat 64 (bitsAt s.control.cpool 64 32)
  else if 0x20000 ≤ off ∧ off < 0x21000 then s.unitReg (off - 0x20000)
  else if 0x30000 ≤ off ∧ off < 0x33000 then s.fabric.reg off
  else if 0x1000000 ≤ off ∧ off < 0x1000048 then s.mgmtReg (off - 0x1000000)
  else 0

/-! ### Writes -/

/-- Replaces a queue's registers. -/
def State.setQueue (s : State) (i : Fin 16) (q : SluiceQueue) : State :=
  { s with control := { s.control with queues := s.control.queues.set i q } }

/-! ### Rings (R38, R39) -/

/-- The address of the slot of ring command `n` (R39). With LOC = 1 QBASE is a host physical address, as the bases of the other
rings in host memory are (DESIGN CHOICE, log entry 31). -/
def SluiceQueue.slot (q : SluiceQueue) (n : Nat) : Nat :=
  let a := bitsAt q.base 6 57 * 64 + n % 2 ^ q.logSize * 64
  if q.base.getLsbD 63 then hostPlace a else a

/-- A slot can be read where the ring lies where LOC says. -/
def State.slotOk (s : State) (q : SluiceQueue) (pa : Nat) : Bool :=
  if q.base.getLsbD 63 then s.mem.region pa == .host && !s.gone pa
  else match s.mem.region pa with
    | .dram => !s.gone pa
    | .board _ => !s.gone pa
    | _ => false

/-- The command that starts next is a ring command: no fired one stands before it (R49). -/
def SluiceQueue.ringNext (q : SluiceQueue) : Bool :=
  (match q.fired with
   | (_, t) :: _ => t != q.head
   | [] => true) && q.head != q.tail

/-- The head is a ring command whose slot cannot be read (R39). -/
def State.ringBad (s : State) (q : SluiceQueue) : Bool :=
  q.ringNext && (!s.slotOk q (q.slot q.head.toNat) || s.mem.poisoned (q.slot q.head.toNat / 64))

/-! ### A queue that cannot be served (R14, R39) -/

/-- A queue stops with an error (R39). -/
def State.stopQueue (s : State) (i : Fin 16) (code : Nat) : State :=
  let q := s.control.queues[i]
  (if q.error then s else s.control!).setQueue i { q with error := true, errcode := BitVec.ofNat 4 code }

/-- What a queue cannot be served for stops it: a LOGSIZE out of range, or a slot that cannot be read. -/
def State.ringCheck (s : State) (i : Fin 16) : State :=
  let q := s.control.queues[i]
  if !q.enabled || q.error then s
  else if !q.sized then s.stopQueue i 3
  else if s.ringBad q then
    let key := q.slot q.head.toNat / 64
    let s := if s.slotOk q (q.slot q.head.toNat) then
        (match s.agentRead key with
         | (s, .bad p inj) =>
           s.post (.ownerHandling { place := p, line := key, consumer := .command i, injected := inj })
         | (s, .data _) => s)
      else s
    s.stopQueue i 2
  else s

/-- A write to a queue register (R38). After a write of QCTL the queue is checked for what stops it. -/
def State.queueWrite (s : State) (i : Fin 16) (o : Nat) (v : Word) : State :=
  let q := s.control.queues[i]
  match o with
  | 0x00 => s.setQueue i { q with base := BitVec.ofNat 64 (fieldIn v 63 63 + fieldIn v 62 6) }
  | 0x08 =>
    (s.setQueue i { q with ctl := BitVec.ofNat 64 (fieldIn v 47 16 + fieldIn v 9 6 + fieldIn v 4 0), flagged := false }).ringCheck i
  | 0x10 => s.setQueue i { q with root := BitVec.ofNat 64 (fieldIn v 56 12) }
  | 0x20 => s.post (.doorbell i (v.truncate 32))
  | 0x30 => if v.getLsbD 0 then s.postFor { s.focus with queue := i } s.now .errorClear else s
  | _ => s

/-- A write to a mailbox (R51): GO starts the item described, the other fields hold what is written. -/
def State.mailboxWrite (s : State) (i : Fin 96) (k : Nat) (v : Word) : State :=
  if k = 15 then s.postFor { s.focus with core := i } s.now .go
  else
    let c := s.cores[i]
    let x := putBits c.mailbox (64 * k) 64 v.toNat &&& mailboxMask
    { s with cores := s.cores.set i { c with mailbox := x } }

/-- Page requests that wait are tried again (R355). -/
def State.retryPages (s : State) : State :=
  s.pages.waiting.foldl (fun s w => s.postFor { s.focus with core := coreOf w.req.source } s.now (.pageRequest w.req w.kind)) s

/-! ### The row-intact region (R294) -/

/-- The granules that a change of the row-intact register of site `i` from `u` to `u'` alters (R294): aligned 16-byte
granules of pages of that site that move into or out of the region, each with the place in DRAM of the same site whose
bytes it takes. Which they are is a free value. -/
def movedBytes (n : Nat) (i : Fin 8) (u u' : SiteUnit) : List (Nat × Nat) :=
  (Config.movedGranules n).filter fun g =>
    decide (g.1 % 16 = 0 ∧ g.1 < 0x6000000000 ∧ g.2 < 0x6000000000 ∧ g.2 % 65536 ≤ 65520 ∧
      lineSite (g.1 / 64) = i.val ∧ lineSite (g.2 / 64) = i.val) &&
    u.holdsSubarray (g.1 / 2 ^ 32) != u'.holdsSubarray (g.1 / 2 ^ 32)

/-- Each granule of a list takes the 16 bytes of its source as they stood at the change. -/
def Sparse.moveGranules (old : Memory) (gs : List (Nat × Nat)) (m : Memory) : Memory :=
  gs.foldl (fun m g => pokeN (w := 8) m g.1 (peekN (w := 8) old g.2 16)) m

/-- The row-intact register of a site takes a value (R294). Pages that do not move, and other sites, keep their bytes. -/
def State.changeRegion (s : State) (i : Fin 8) (r : Word) : State :=
  let u := s.sites[i]
  let u' := { u with region := r }
  let s := { s with sites := s.sites.set i u' }
  if u.region = r then s
  else { s.setMem { s.mem with dram := Sparse.moveGranules s.mem.dram (movedBytes s.free i u u') s.mem.dram } with
    free := s.free + 1 }

/-- A write to a register of the units between 0x2_0000 and 0x2_FFFF. -/
def State.unitWrite (s : State) (o : Nat) (v : Word) : State :=
  if o = 0x008 then s.post (.tagretWrite (v.truncate 16))
  else if 0x040 ≤ o ∧ o < 0x0C0 then s.post (.poolRegisterWrite (0x20000 + o) v)
  else if o = 0x100 then s.setMem { s.mem with tiroot := BitVec.ofNat 64 (fieldIn v 56 12) }
  else if o = 0x108 then
    (let s := s.setMem { s.mem with tiBusy := true }
     if v.getLsbD 0 then s.post .tiallInvalidate else s.post (.tivaInvalidate (BitVec.ofNat 64 (fieldIn v 56 16))))
  else if 0x200 ≤ o ∧ o < 0x400 then
    (match o % 64 with
     | 0x00 => s.post (.poolRegisterWrite (0x20000 + o) v)
     | 0x08 => s.post (.poolRegisterWrite (0x20000 + o) v)
     | 0x10 => s.post (.tierCommandWrite (siteOf ((o - 0x200) / 64)) v)
     | 0x18 =>
       if v.getLsbD 0 then
         let t := s.tiers[siteOf ((o - 0x200) / 64)]
         { s with tiers := s.tiers.set (siteOf ((o - 0x200) / 64)) { t with terr := false } }
       else s
     | _ => s)
  else if 0x400 ≤ o ∧ o < 0x440 then
    s.changeRegion (siteOf ((o - 0x400) / 8)) (BitVec.ofNat 64 (fieldIn v 15 0))
  else match o with
    | 0x500 =>
      ({ s with pages := { s.pages with base := BitVec.ofNat 64 (fieldIn v 56 12 + fieldIn v 3 0), logged := false } }).retryPages
    | 0x510 => ({ s with pages := { s.pages with prhead := v.truncate 32 } }).retryPages
    | 0x518 =>
      (match bitsAt v 32 2 with
       | 1 => s.post (.pageRequestSuccess (BitVec.ofNat 16 (bitsAt v 0 16)) (BitVec.ofNat 16 (bitsAt v 16 16)))
       | 2 => s.post (.pageRequestFailure (BitVec.ofNat 16 (bitsAt v 0 16)) (BitVec.ofNat 16 (bitsAt v 16 16)))
       | _ => s.control!)
    | 0x600 => { s with order := { s.order with base := BitVec.ofNat 64 (fieldIn v 56 12 + fieldIn v 4 0), recent := [] } }
    | 0x608 => { s with order := { s.order with tail := v.truncate 32, recent := [] } }
    | 0x610 => { s with order := { s.order with replayBase := BitVec.ofNat 64 (fieldIn v 56 12), consumed := [], left := [] } }
    | 0x618 => { s with order := { s.order with replayCount := v.truncate 32, consumed := [], left := [] } }
    | 0x620 =>
      { s with order := { s.order with
          replay := v.getLsbD 0, weir := v.getLsbD 1, ovf := s.order.ovf && !v.getLsbD 6,
          diverged := s.order.diverged && !v.getLsbD 7 } }
    | _ => s

/-- A write to a Tchiac register (R332). -/
def State.fabricWrite (s : State) (off : Nat) (v : Word) : State :=
  if off < 0x32000 then
    { s with fabric := { s.fabric with
        flagged := s.fabric.flagged.filter (· / 4 != (off - 0x30000) / 8)
        regs := poke s.fabric.regs off (BitVec.ofNat 64 (fieldIn v 29 24 + fieldIn v 21 16 + fieldIn v 13 8 + fieldIn v 5 0)) } }
  else if off = 0x32000 then
    { s with fabric := { s.fabric with regs := poke s.fabric.regs off (BitVec.ofNat 64 (fieldIn v 9 0)) } }
  else if 0x32100 ≤ off ∧ off < 0x321C0 ∧ v.getLsbD 1 then
    { s with fabric := { s.fabric with portsFailed := s.fabric.portsFailed &&& ~~~(1#24 <<< ((off - 0x32100) / 8)) } }
  else s

/-- A write to a register of the management page (R394): a change that lets waiting records out is followed up. -/
def State.mgmtWrite (s : State) (o : Nat) (v : Word) : State :=
  let put (x : Nat) : State := { s with mgmt := { s.mgmt with regs := poke s.mgmt.regs o (BitVec.ofNat 64 x) } }
  match o with
  | 0x08 => s.post (.tolWrite (v.truncate 32))
  | 0x10 => (put (fieldIn v 56 12 + fieldIn v 3 0)).post .errorRecord
  | 0x20 => (put (fieldIn v 31 0)).post .errorRecord
  | 0x28 => s.post (.attestationRequest (BitVec.ofNat 64 (fieldIn v 56 6)))
  | 0x38 => put v.toNat
  | 0x40 => put (fieldIn v 31 0)
  | _ => s

/-- A write to a register of the BAR (R14, R274): the value is held as written, a register that starts something starts
it, and a write to an unassigned or read-only offset is ignored. In stage 0 the host finds only the management page. -/
def State.regWrite (s : State) (off : Nat) (v : Word) : State :=
  if off % 8 ≠ 0 then s
  else if 0x1000000 ≤ off ∧ off < 0x1000048 then s.mgmtWrite (off - 0x1000000) v
  else if s.mgmt.stage = .stage0 then s
  else if off < 0x400 then s.queueWrite (queueOf (off / 0x40)) (off % 0x40) v
  else if 0x10000 ≤ off ∧ off < 0x13000 then
    s.mailboxWrite (coreOf ((off - 0x10000) / 0x80)) ((off - 0x10000) % 0x80 / 8) v
  else if 0x13000 ≤ off ∧ off < 0x13300 then
    (s.post (.interruptRequest (coreOf ((off - 0x13000) / 8)) (v.getLsbD 1))).post
      (.preemptionRequest (coreOf ((off - 0x13000) / 8)) (v.getLsbD 0))
  else if off = 0x13400 then
    { s with control := { s.control with cpool := putBits s.control.cpool 0 64 v.toNat } }
  else if off = 0x13408 then
    { s with control := { s.control with cpool := putBits s.control.cpool 64 32 (v.toNat % 2 ^ 32) } }
  else if 0x20000 ≤ off ∧ off < 0x21000 then s.unitWrite (off - 0x20000) v
  else if 0x30000 ≤ off ∧ off < 0x33000 then s.fabricWrite off v
  else s

/-- An access of the host to a device that idles waits until it is awake (R399). -/
def State.hostWait (s : State) : State := (s.postOnce (.wake .hostAccess)).hold

/-- REGISTER_WRITE (R14, R274): a write to a register, by the host or by a core. -/
def execRegisterWrite (offset : Nat) (value : Word) (s : State) : Answer :=
  .next (if s.mgmt.idle ≠ 0 then s.hostWait else s.regWrite offset value)

end Sys2Proof.Machine
end

