-- ==== Sys2Proof/Machine/Phase.lean ====
section
/-! DEFINITION. Circular-buffer slots (R141, R142), protected phases (R374 to R376), and the consumption of errors in a
core's own arrays (R367 to R369). -/

namespace Sys2Proof.Machine

/-! ### Circular buffers (R141, R142) -/

def CircBuf.nslots (b : CircBuf) : Nat := bitsAt b.desc 64 32
def CircBuf.slotSize (b : CircBuf) : Nat := bitsAt b.desc 32 32
def CircBuf.base (b : CircBuf) : Nat := bitsAt b.desc 0 32

/-- The scratchpad offset of a slot. -/
def CircBuf.slotBase (b : CircBuf) (k : Nat) : Nat := b.base + k * b.slotSize

/-- A pointer moved on by one slot. -/
def CircBuf.after (b : CircBuf) (k : Nat) : Nat := (k + 1) % max 1 b.nslots

/-- A pointer moved back by `k` slots. -/
def CircBuf.before (b : CircBuf) (p k : Nat) : Nat := (p + (max 1 b.nslots - k % max 1 b.nslots)) % max 1 b.nslots

/-- FILLED := FILLED + 1, dropped above NSLOTS (R142). -/
def CircBuf.publish (b : CircBuf) : CircBuf :=
  if b.filled + b.free < b.nslots then { b with filled := b.filled + 1 } else b

/-- FREE := FREE + 1, dropped above NSLOTS (R142). -/
def CircBuf.release (b : CircBuf) : CircBuf :=
  if b.filled + b.free < b.nslots then { b with free := b.free + 1 } else b

def Core.buf (c : Core) (n : Nat) : CircBuf := c.bufs.toList.getD n CircBuf.unset

def Core.setBuf (c : Core) (n : Nat) (b : CircBuf) : Core :=
  if h : n < 16 then { c with bufs := c.bufs.set n b h } else c

/-- A producer takes the next free slot (R142); what the buffer remembered of the command that last filled it goes. -/
def Core.takeFree (c : Core) (n : Nat) : Nat × Core :=
  let b := c.buf n
  let c := { c with fills := c.fills.filter fun f => !(f.buf == n && f.slot == b.pptr) }
  (b.pptr, c.setBuf n { b with free := b.free - 1, pptr := b.after b.pptr })

/-- The FILLED slots that a consumer may acquire: those ahead of the first that a cancellation refetches (R375). -/
def Core.filledReady (c : Core) (n : Nat) : Nat :=
  let b := c.buf n
  match c.refetch.find? fun f => f.buf == n && !f.inPlace with
  | some f => min b.filled ((f.slot + (max 1 b.nslots - b.cptr % max 1 b.nslots)) % max 1 b.nslots)
  | none => b.filled

/-- A slot that a port goes on holding is being refetched (R377). -/
def Core.heldBack (c : Core) (n slot : Nat) : Bool := c.refetch.any fun f => f.buf == n && f.slot == slot && f.inPlace

/-- A consumer takes the next filled slot (R142). -/
def Core.takeFilled (c : Core) (n : Nat) : Nat × Core :=
  let b := c.buf n
  (b.cptr, c.setBuf n { b with filled := b.filled - 1, cptr := b.after b.cptr })

/-- A release or publication takes effect. -/
def Core.settleSlot (c : Core) (e : SlotEffect) : Core :=
  c.setBuf e.buf (if e.publish then (c.buf e.buf).publish else (c.buf e.buf).release)

/-- A release or publication is due: inside a protected phase it is deferred to the commit (R374). -/
def Core.slotDue (c : Core) (e : SlotEffect) : Core :=
  match c.phase with
  | some r => if c.tl then c.settleSlot e else { c with phase := some { r with deferred := r.deferred ++ [e] } }
  | none => c.settleSlot e

/-- A slot was acquired inside an open phase (R375). -/
def Core.noteOut (c : Core) (n : Nat) : Core :=
  match c.phase with
  | some r => if c.tl then c else { c with phase := some { r with outSlots := n :: r.outSlots } }
  | none => c

def Core.noteIn (c : Core) (n slot : Nat) : Core :=
  match c.phase with
  | some r => if c.tl then c else { c with phase := some { r with inSlots := (n, slot) :: r.inSlots } }
  | none => c

/-! ### Cancellation (R375) -/

/-- An output slot acquired in a cancelled phase goes back. -/
def Core.returnOut (c : Core) (n : Nat) : Core :=
  let b := c.buf n
  c.setBuf n { b with free := b.free + 1, pptr := b.before b.pptr 1 }

/-- A consumer slot acquired in a cancelled phase is filled again from the command its buffer remembers, in its turn. A slot
that no copy filled returns to FILLED as it stands. -/
def Core.returnIn (c : Core) (n slot : Nat) : Core :=
  let b := c.buf n
  let c := c.setBuf n { b with cptr := b.before b.cptr 1 }
  match c.fills.find? fun f => f.buf == n && f.slot == slot with
  | some f => { c with refetch := c.refetch ++ [f] }
  | none => { c with refetch := c.refetch ++ [{ buf := n, slot := slot, word := 0, template := 0, tag := 0, piece := 0, inPlace := false }] }

/-- A slot that an input port has held since before `phb` is filled again in its place: the port holds it as the snapshot says (R374), and the
example of R377 has it refetched. -/
def Core.renewHeld (c : Core) (p : Port) : Core :=
  match p.slot with
  | some k =>
    let n := bitsAt p.desc 16 4
    (match c.fills.find? fun f => p.desc.getLsbD 24 && !p.desc.getLsbD 8 && f.buf == n && f.slot == k with
    | some f => { c with refetch := c.refetch ++ [{ f with inPlace := true }] }
    | none => c)
  | none => c

/-- The restoration that ends a cancellation: slots go back, the snapshot is restored and the phase is closed. -/
def Core.undoPhase (c : Core) (r : PhaseRec) : Core :=
  let c := r.outSlots.foldl Core.returnOut c
  let c := r.inSlots.reverse.foldl (fun c e => c.returnIn e.1 e.2) c
  let ports := Vector.ofFn fun i : Fin 8 =>
    { c.ports[i] with index := (r.ports.getD i.val (0, none)).1, slot := (r.ports.getD i.val (0, none)).2 }
  let c := ports.toList.foldl Core.renewHeld c
  { c with
    phase := none
    level0 := r.level
    clause := r.clause
    bank0 := { c.bank0 with tok := r.tok, loads := [] }
    ports := ports }

/-! ### Words of the scratchpad and the VRF (R367, R368) -/

/-- Inspects the 8-byte words of `[lo, lo + n)` of an array of the core that acts: correctable errors are corrected and
logged, and the first uncorrectable one is reported to the caller. -/
def State.inspectLocal (s : State) (place lo n : Nat) : State × Option Bool :=
  let hit (k : ErrMark) : Bool :=
    k.place == place && k.core == s.cur.val && decide (lo / 8 ≤ k.key ∧ k.key * 8 < lo + n)
  let single := s.mem.marks.filter fun k => hit k && !k.double
  let s := single.foldl (fun s k => s.report s.cur.val 0x01 s.core.sys.ctx.toNat 0 0 k.injected)
    (if single.isEmpty then s else s.setMem { s.mem with marks := s.mem.marks.filter fun k => !(hit k && !k.double) })
  (s, (s.mem.marks.find? hit).map (·.injected))

/-- A write of `[lo, lo + n)` removes the errors of the words it covers whole. -/
def State.coverLocal (s : State) (place lo n : Nat) : State :=
  if s.mem.marks.isEmpty then s
  else s.setMem { s.mem with marks := s.mem.marks.filter fun k =>
    !(k.place == place && k.core == s.cur.val && decide (lo ≤ k.key * 8 ∧ k.key * 8 + 8 ≤ lo + n)) }

/-- `n` bytes of the scratchpad from an offset, which wraps at 8 MiB. -/
def Core.spBytes (c : Core) (off n : Nat) : List Byte :=
  let o := off % 2 ^ 23
  if o + n ≤ 2 ^ 23 then peekN (w := 8) c.arrays.sp o n
  else peekN (w := 8) c.arrays.sp o (2 ^ 23 - o) ++ peekN (w := 8) c.arrays.sp 0 (n - (2 ^ 23 - o))

/-- Writes bytes into the scratchpad from an offset, which wraps at 8 MiB. -/
def Core.spWrite (c : Core) (off : Nat) (bs : List Byte) : Core :=
  let o := off % 2 ^ 23
  let room := 2 ^ 23 - o
  let m := pokeN (w := 8) c.arrays.sp o (bs.take room)
  { c with arrays := { c.arrays with sp := if bs.length ≤ room then m else pokeN (w := 8) m 0 (bs.drop room) } }

/-- Writes the scratchpad of the core that acts. -/
def State.spStore (s : State) (off : Nat) (bs : List Byte) : State :=
  (s.withCore (s.core.spWrite off bs)).coverLocal placeSp (off % 2 ^ 23) bs.length

/-- The place that the next copy command to be pushed takes among those of the core (R233). -/
def Core.nextCopy (c : Core) : Nat :=
  (c.channels.flatMap fun x => x.2.jobs.map (·.order)).foldl max (c.overwritten.foldl (fun n o => max n (o.since - 1)) 0) + 1

/-- The granules that a write of the scratchpad changes, as they were. -/
def Core.spoilt (c : Core) (off n : Nat) : List Overwritten :=
  (List.range ((off % 16 + n + 15) / 16)).map fun k =>
    let g := (off / 16 + k) % 2 ^ 19
    { granule := g, data := BitVec.ofNat 128 (leNat (c.spBytes (16 * g) 16)), since := c.nextCopy }

/-- Bytes from an address on, with a run of bytes laid over them. -/
def layRun (a : Nat) (bs : List Byte) (w : Nat × List Byte) : List Byte :=
  (bs.zipIdx a).map fun x => if w.1 ≤ x.2 ∧ x.2 < w.1 + w.2.length then w.2.getD (x.2 - w.1) 0 else x.1

/-- A granule as it was, with a later write of someone else laid over it: only the bytes of the core's own write may still read as
before (R245). -/
def Overwritten.patched (o : Overwritten) (w : Nat × List Byte) : Overwritten :=
  { o with data := BitVec.ofNat 128 (leNat (layRun (16 * o.granule) (vecBytes o.data) w)) }

/-- A write of the scratchpad that is no instruction's of the core: a copy's, or a credit's. It stands whichever of the core's own bytes a
command reads (R245). -/
def State.spPatch (s : State) (off : Nat) (bs : List Byte) : State :=
  let o := off % 2 ^ 23
  let room := 2 ^ 23 - o
  let c := s.core
  let lay (v : Overwritten) : Overwritten := (v.patched (o, bs.take room)).patched (0, bs.drop room)
  (if c.overwritten.isEmpty then s else s.withCore { c with overwritten := c.overwritten.map lay }).spStore off bs

/-- An instruction of the core writes its scratchpad; copy commands that have been pushed may still read the old bytes (R245). -/
def State.spPut (s : State) (off : Nat) (bs : List Byte) : State :=
  let c := s.core
  let s := if c.channels.all fun x => x.2.jobs.isEmpty then s
    else s.withCore { c with overwritten := c.overwritten ++ c.spoilt (off % 2 ^ 23) bs.length }
  s.spStore off bs

/-- The 4,096 bytes of a VRF register. -/
def Core.vreg (c : Core) (r : Nat) : List Byte := peekN (w := 8) c.arrays.vrf (r * 4096) 4096

def Core.setVreg (c : Core) (r : Nat) (bs : List Byte) : Core :=
  { c with arrays := { c.arrays with vrf := pokeN (w := 8) c.arrays.vrf (r * 4096) bs } }

/-! ### phb, phc and the commit (R114, R374, R376) -/

/-- The snapshot that `phb` takes. The commit point counts from the last queue instruction of the phase (R376), and where it has none from
`phb` itself (DESIGN CHOICE, log entry 11). -/
def Core.snapshot (c : Core) (now : Nat) : PhaseRec :=
  { restart := c.pc, cancelled := false, tok := c.bank0.tok, level := c.level0, clause := c.clause,
    ports := c.ports.toList.map fun p => (p.index, p.slot), deferred := [], outSlots := [], inSlots := [],
    lastDone := now }

/-- `phb` opens the phase; the count of cancellations goes on where the same phase starts again. -/
def Core.openPhase (c : Core) (now : Nat) : Core :=
  { c with phase := some (c.snapshot now), cancels := if c.cancels.1 = c.pc then c.cancels else (c.pc, 0) }

/-- PHB (R114, R374): it holds until the queues are empty and takes the snapshot. After a cancellation the snapshot is
restored first (R375). -/
def execPhb (s : State) : Answer :=
  let c := s.core
  .next (
    match c.phase with
    | some r =>
      if !r.cancelled || c.tl then s.illegal .phb
      else if !c.queuesEmpty then s.hold
      else plainWord s ((c.undoPhase r).openPhase s.now) 1
    | none =>
      if c.tl then s.illegal .phb
      else if !c.queuesEmpty then s.hold
      else plainWord s (c.openPhase s.now) 1)

/-- PHC (R114, R376): once the queues are empty the hold for the commit point begins. -/
def execPhc (s : State) : Answer :=
  let c := s.core
  .next (
    match c.phase with
    | none => s.illegal .phc
    | some r =>
      if c.tl then s.illegal .phc
      else if !c.queuesEmpty then s.hold
      else s.withCore { c with seq := { c.seq with mode := .phcHold r.lastDone } })

/-- PHASE_COMMIT (R376): deferred publications and releases take effect in their order and the phase closes; after `phc`
the next word is routed, and `done` goes on to retire. -/
def execPhaseCommit (s : State) : Answer :=
  let c := s.core
  .next (
    match c.phase with
    | none => s.hold
    | some r =>
      if r.cancelled || !c.queuesEmpty || decide (s.now < r.lastDone + 750) then s.hold
      else
        let c := r.deferred.foldl Core.settleSlot { c with phase := none }
        let c := { c with cancels := (0, 0) }
        match c.seq.mode with
        | .phcHold _ => s.withCore ({ c with seq := { c.seq with mode := .run } }.finish s.now 1)
        | _ => s.withCore c)

/-- A queue instruction of the core has completed: the commit point of an open phase counts from the last one (R376). -/
def Core.queueDone (c : Core) (now : Nat) : Core :=
  match c.phase with
  | some r => { c with phase := some { r with lastDone := now } }
  | none => c

end Sys2Proof.Machine
end

