-- ==== Sys2Proof/Machine/Ports.lean ====
section
/-! DEFINITION. Ports: descriptors and walkers (R137 to R140), pops and pushes, and the slots they take at acceptance
(R142 to R145). -/

namespace Sys2Proof.Machine

abbrev PortDesc := BitVec 512

/-! ### Descriptors (R137, R138) -/

def PortDesc.fmt (d : PortDesc) : Nat := bitsAt d 0 8
def PortDesc.output (d : PortDesc) : Bool := d.getLsbD 8
def PortDesc.cbn (d : PortDesc) : Nat := bitsAt d 16 4
def PortDesc.bound (d : PortDesc) : Bool := d.getLsbD 24
def PortDesc.run (d : PortDesc) : Nat := bitsAt d 32 16
def PortDesc.rows (d : PortDesc) : Nat := bitsAt d 48 16
def PortDesc.rowStep (d : PortDesc) : Int := signedOf 32 (bitsAt d 64 32)
def PortDesc.sStride (d : PortDesc) : Int := signedOf 32 (bitsAt d 96 32)
/-- Count and stride of a level. -/
def PortDesc.cnt (d : PortDesc) (l : Nat) : Nat := bitsAt d (128 + 64 * l) 32
def PortDesc.step (d : PortDesc) (l : Nat) : Int := signedOf 32 (bitsAt d (160 + 64 * l) 32)
def PortDesc.base (d : PortDesc) : Nat := bitsAt d 384 32
def PortDesc.sBase (d : PortDesc) : Nat := bitsAt d 416 32

/-- Bytes of one pop or push. -/
def PortDesc.size (d : PortDesc) : Nat := d.run * d.rows

/-- The period of the walker (R139). -/
def PortDesc.period (d : PortDesc) : Nat := d.cnt 0 * d.cnt 1 * d.cnt 2 * d.cnt 3

/-- The bytes of an element: 1 for Q4. -/
def elemBytes (fmt : Nat) : Nat := if fmtQ4 fmt then 1 else fmtWidth fmt / 8

/-- A power of two from 64 to 4,096. -/
def popSizeOk (n : Nat) : Bool := [64, 128, 256, 512, 1024, 2048, 4096].contains n

/-- A well-formed descriptor (R138). -/
def PortDesc.wf (d : PortDesc) : Bool :=
  bitsAt d 448 64 == 0 && bitsAt d 25 7 == 0 && bitsAt d 20 4 == 0 && bitsAt d 9 7 == 0 && decide (d.fmt ≤ 10) &&
    [0, 1, 2, 3].all (fun l => d.cnt l != 0) && popSizeOk d.size && d.run % elemBytes d.fmt == 0 &&
    decide (d.base < 2 ^ 23) && decide (d.sBase < 2 ^ 23) && (d.bound || d.cbn == 0)

/-- The offset of pop or push `n` (R139). -/
def PortDesc.offset (d : PortDesc) (n : Nat) : Int :=
  (d.base : Int) + (n % d.cnt 0 : Nat) * d.step 0 + (n / d.cnt 0 % d.cnt 1 : Nat) * d.step 1 +
    (n / (d.cnt 0 * d.cnt 1) % d.cnt 2 : Nat) * d.step 2 + (n / (d.cnt 0 * d.cnt 1 * d.cnt 2) % d.cnt 3 : Nat) * d.step 3

/-- The scratchpad offset of run `j` of pop `n` from a slot base. -/
def PortDesc.runAt (d : PortDesc) (sb n j : Nat) : Nat := wrapNat 23 ((sb : Int) + d.offset n + (j : Nat) * d.rowStep)

/-- The scratchpad offset of the scale byte of the 16-byte group at byte `b` of run `j` of pop `n` (R140). -/
def PortDesc.scaleAt (d : PortDesc) (sb n j b : Nat) : Nat :=
  wrapNat 23 ((sb : Int) + d.sBase +
    ((d.offset n + (j : Nat) * d.rowStep + (b : Nat) - d.base) / 16) * d.sStride)

/-- The next walker index. -/
def PortDesc.next (d : PortDesc) (n : Nat) : Nat := (n + 1) % max 1 d.period

/-- The scale bytes of a pop or push, one for each 16-byte group of codes: their scratchpad offsets in order. -/
def PortDesc.scales (d : PortDesc) (sb n : Nat) : List Nat :=
  if fmtQ4 d.fmt then
    (List.range d.rows).flatMap fun j => (List.range (d.run / 16)).map fun g => d.scaleAt sb n j (16 * g)
  else []

/-- A Q4 port whose blocks come each from one 16-byte group (R140). -/
def PortDesc.q4Aligned (d : PortDesc) : Bool :=
  d.run % 16 == 0 && d.rowStep % 16 == 0 && d.base % 16 == 0 && [0, 1, 2, 3].all fun l => d.step l % 16 == 0

/-! ### Pops and pushes (R139, R140) -/

/-- The scratchpad words a pop reads, as (offset, bytes) runs. -/
def PortDesc.reads (d : PortDesc) (sb n : Nat) : List (Nat × Nat) :=
  (List.range d.rows).map (fun j => (d.runAt sb n j, d.run)) ++ (d.scales sb n).map fun o => (o, 1)

/-- One pop: its bytes and its scale bytes. -/
def Core.popAt (c : Core) (d : PortDesc) (sb n : Nat) : List Byte × List Byte :=
  ((List.range d.rows).flatMap (fun j => c.spBytes (d.runAt sb n j) d.run),
    (d.scales sb n).flatMap fun o => c.spBytes o 1)

/-- `k` pops from index `n` on, laid end to end, with the index after them. -/
def Core.popsAt (c : Core) (d : PortDesc) (sb : Nat) : Nat → Nat → (List Byte × List Byte) × Nat
  | 0, n => (([], []), n)
  | k + 1, n =>
    let x := c.popAt d sb n
    let r := c.popsAt d sb k (d.next n)
    ((x.1 ++ r.1.1, x.2 ++ r.1.2), r.2)

/-- One push of its bytes and scale bytes. -/
def State.pushAt (s : State) (d : PortDesc) (sb n : Nat) (bs scales : List Byte) : State :=
  let s := (List.range d.rows).foldl (fun s j => s.spPut (d.runAt sb n j) ((bs.drop (j * d.run)).take d.run)) s
  ((d.scales sb n).zip scales).foldl (fun s e => s.spPut e.1 [e.2]) s

/-- The pushes of a plan: pieces of data in order, with their scale bytes. -/
def State.pushAll (s : State) (d : PortDesc) : Nat → List Nat → List Byte → List Byte → State
  | _, [], _, _ => s
  | n, sb :: rest, bs, scales =>
    let k := if fmtQ4 d.fmt then d.size / 16 else 0
    (s.pushAt d sb n (bs.take d.size) (scales.take k)).pushAll d (d.next n) rest (bs.drop d.size) (scales.drop k)

/-! ### What an operation takes from its ports -/

/-- A source that pops: its operand place, its port, and the pops of one round. -/
structure PopSource where
  place : Nat
  port : Nat
  pops : Nat
  deriving DecidableEq, Repr

def Core.port (c : Core) (n : Nat) : Port := c.ports.toList.getD n Port.unset

def Core.setPort (c : Core) (n : Nat) (p : Port) : Core :=
  if h : n < 8 then { c with ports := c.ports.set n p h } else c

/-- The slot base a port works from; 0 where it is not bound. -/
def Core.slotBaseOf (c : Core) (p : Port) : Nat :=
  if PortDesc.bound p.desc then (c.buf (PortDesc.cbn p.desc)).slotBase (p.slot.getD 0) else 0

/-- Runs `r` rounds: in each round every source in order pops (R140). The scratchpad regions read are listed as well. -/
def Core.popRounds (c : Core) (src : List PopSource) : Nat →
    Core × List (Nat × (List Byte × List Byte)) × List (Nat × Nat)
  | 0 => (c, [], [])
  | r + 1 =>
    let one (a : Core × List (Nat × (List Byte × List Byte)) × List (Nat × Nat)) (x : PopSource) :
        Core × List (Nat × (List Byte × List Byte)) × List (Nat × Nat) :=
      let p := a.1.port x.port
      let sb := a.1.slotBaseOf p
      let got := a.1.popsAt p.desc sb x.pops p.index
      let touched := (List.range x.pops).flatMap fun k => PortDesc.reads p.desc sb ((p.index + k) % max 1 (PortDesc.period p.desc))
      (a.1.setPort x.port { p with index := got.2 }, a.2.1 ++ [(x.place, got.1)], a.2.2 ++ touched)
    let first := src.foldl one (c, [], [])
    let rest := first.1.popRounds src r
    (rest.1, first.2.1 ++ rest.2.1, first.2.2 ++ rest.2.2)

/-- The bound input ports of an operation that hold no slot, by buffer. -/
def Core.wantsFilled (c : Core) (src : List PopSource) : List Nat :=
  ((src.map (·.port)).eraseDups.filter fun n => PortDesc.bound (c.port n).desc && (c.port n).slot.isNone).map fun n =>
    PortDesc.cbn (c.port n).desc

/-- Every bound input port holds a slot or finds one (R145); ports that share a buffer are counted together. A slot that is being refetched is
not there yet (R375). -/
def Core.inputsReady (c : Core) (src : List PopSource) : Bool :=
  let w := c.wantsFilled src
  (w.all fun b => decide ((w.filter (· == b)).length ≤ c.filledReady b)) &&
    src.all fun x => match (c.port x.port).slot with
      | some k => !c.heldBack (PortDesc.cbn (c.port x.port).desc) k
      | none => true

/-- Acquires the slots of the input ports. -/
def Core.takeInputs (c : Core) (src : List PopSource) : Core :=
  ((src.map (·.port)).eraseDups).foldl (fun c n =>
    let p := c.port n
    if PortDesc.bound p.desc && p.slot.isNone then
      let b := PortDesc.cbn p.desc
      let r := c.takeFilled b
      (r.2.setPort n { p with slot := some r.1 }).noteIn b r.1
    else c) c

/-- The slots that some ports hold, by buffer and number. -/
def Core.heldSlots (c : Core) (ports : List Nat) : List (Nat × Nat) :=
  (ports.filter fun n => PortDesc.bound (c.port n).desc && (c.port n).slot.isSome).map fun n =>
    (PortDesc.cbn (c.port n).desc, (c.port n).slot.getD 0)

/-- Slots that `k` pushes of an output port begin (R145): acquired at a push with no slot held, let go where the walker
completes its period. -/
def slotsBegun (d : PortDesc) : Nat → Nat → Bool → Nat
  | 0, _, _ => 0
  | k + 1, n, held => natOfBool (!held) + slotsBegun d k (d.next n) (d.next n != 0)

/-- Every bound output port finds enough free slots. -/
def Core.outputReady (c : Core) (port k : Nat) : Bool :=
  let p := c.port port
  !PortDesc.bound p.desc ||
    decide (slotsBegun p.desc k p.index p.slot.isSome ≤ (c.buf (PortDesc.cbn p.desc)).free)

/-- Plans `k` pushes: the slot of each and its base, and the publications due at completion (R143). -/
def Core.planPushes (c : Core) (port : Nat) : Nat → Core × List (Nat × Nat) × List SlotEffect
  | 0 => (c, [], [])
  | k + 1 =>
    let p := c.port port
    if PortDesc.bound p.desc then
      let b := PortDesc.cbn p.desc
      let c' := match p.slot with
        | some _ => c
        | none =>
          let r := c.takeFree b
          (r.2.setPort port { p with slot := some r.1 }).noteOut b
      let p := c'.port port
      let sb := c'.slotBaseOf p
      let n := PortDesc.next p.desc p.index
      let c' := c'.setPort port { p with index := n, slot := if n = 0 then none else p.slot }
      let r := c'.planPushes port k
      (r.1, (p.slot.getD 0, sb) :: r.2.1, (if n = 0 then [{ buf := b, publish := true }] else []) ++ r.2.2)
    else
      let r := (c.setPort port { p with index := PortDesc.next p.desc p.index }).planPushes port k
      (r.1, (0, 0) :: r.2.1, r.2.2)

/-- A last-read mark takes effect at acceptance (R143): the index becomes 0 and the slot is let go; its release is due at
completion. -/
def Core.applyMarks (c : Core) (ports : List Nat) : Core × List SlotEffect :=
  ports.eraseDups.foldl (fun (a : Core × List SlotEffect) n =>
    let p := a.1.port n
    (a.1.setPort n { p with index := 0, slot := none },
      a.2 ++ (if PortDesc.bound p.desc && p.slot.isSome then [{ buf := PortDesc.cbn p.desc, publish := false }] else [])))
    (c, [])

end Sys2Proof.Machine
end

