-- ==== Sys2Proof/Machine/Tags.lean ====
section
/-! DEFINITION. The tag allocator and tag retirement (R260, R261, R263, R265, R269). -/

namespace Sys2Proof.Machine

def State.setTags (s : State) (t : TagUnit) : State := { s with tags := t }

/-- What was owed to a unit of a requester has been performed, or has failed (R269). -/
def State.settleOwed (s : State) (source : Nat) (unit : Actor) : State :=
  if s.tags.owed.isEmpty then s
  else s.setTags { s.tags with owed := s.tags.owed.filter fun o => !(o.req.source == source && o.unit == unit) }

/-- An access goes through under its tag, even if that retires meanwhile (R269). -/
def State.owe (s : State) (unit : Actor) (req : FaultReq) : State :=
  if s.tags.owed.contains { unit := unit, req := req } then s
  else s.setTags { s.tags with owed := { unit := unit, req := req } :: s.tags.owed }

/-- The lowest tag at or above `n` that a list of tags in use, in rising order, does not hold. -/
def lowestFree : Nat → List (Nat × TagState) → Nat
  | n, [] => n
  | n, (t, _) :: rest => if t = n then lowestFree (n + 1) rest else if t < n then lowestFree n rest else n

/-- An allocation takes the lowest FREE tag (R260). -/
def TagUnit.allocate (t : TagUnit) : Option (Nat × TagUnit) :=
  let n := lowestFree 1 t.tags
  if n ≤ 65535 then some (n, { t with tags := assign t.tags n .live }) else none

/-- An allocation that never waits (R260): 0 where none is FREE or a request waits. -/
def TagUnit.allocNow (t : TagUnit) : Nat × TagUnit :=
  if t.waiters.isEmpty then
    match t.allocate with
    | some r => r
    | none => (0, t)
  else (0, t)

/-- A tag is granted to a request that waited. -/
def State.grant (s : State) (w : TagWaiter) (n : Nat) : State :=
  match w with
  | .core c => s.setTags { s.tags with granted := s.tags.granted ++ [(c, BitVec.ofNat 16 n)] }
  | .walker => { s with control := { s.control with
      job := s.control.job.map fun j => { j with got := j.got ++ [BitVec.ofNat 16 n], asked := false } } }

/-- FREE tags go to the requests that wait, first come, first served (R260). -/
def State.grantWaiters (s : State) : Nat → State
  | 0 => s
  | k + 1 =>
    match s.tags.waiters with
    | [] => s
    | w :: rest =>
      match s.tags.allocate with
      | some (n, t) => ((s.setTags { t with waiters := rest }).grant w n).grantWaiters k
      | none => s

/-! ### Requests of one cycle (R260) -/

/-- Source numbers of the walker and of the host (R6, R260). -/
def walkerSource : Nat := 108
def hostSource : Nat := 138

/-- A request reaches the allocator, which takes the requests of a cycle as the cycle ends. -/
def State.askTag (s : State) (source : Nat) (waits : Bool) : State :=
  s.setTags { s.tags with arrived := s.tags.arrived ++ [{ source := source, waits := waits }] }

/-- A request among others in ascending source number. -/
def insertAsk (x : TagAsk) : List TagAsk → List TagAsk
  | [] => [x]
  | y :: ys => if x.source < y.source then x :: y :: ys else y :: insertAsk x ys

/-- A request is taken: one that may wait joins the waiting order and is served where a tag is FREE for it; one that never waits obtains
a tag or 0. What the host's read returns is not seen here. -/
def State.takeAsk (s : State) (x : TagAsk) : State :=
  if x.waits then
    (s.setTags { s.tags with waiters := s.tags.waiters ++ [if x.source = walkerSource then .walker else .core x.source] }).grantWaiters 1
  else
    let r := s.tags.allocNow
    let s := s.setTags r.2
    if x.source < 96 then s.grant (.core x.source) r.1 else s

/-- The allocator takes the requests that have reached it on a cycle. -/
def State.settleAsks (s : State) : State :=
  if s.tags.arrived.isEmpty then s
  else (s.tags.arrived.foldl (fun l x => insertAsk x l) []).foldl State.takeAsk (s.setTags { s.tags with arrived := [] })

/-- A core's request has not been answered. -/
def TagUnit.asks (t : TagUnit) (core : Nat) : Bool := t.waiters.contains (.core core) || t.arrived.any fun x => x.source == core

/-- What was granted to the core that acts, with the grant taken up. -/
def State.takeGrant (s : State) : Option (Tag × State) :=
  (s.tags.granted.find? (·.1 == s.cur.val)).map fun g =>
    (g.2, s.setTags { s.tags with granted := s.tags.granted.filter (·.1 != s.cur.val) })

/-- A request that waits, or a grant not yet taken up, is withdrawn (R263); a granted tag is FREE again. -/
def State.dropRequest (s : State) (core : Nat) : State :=
  let back := s.tags.granted.filter fun g => g.1 == core
  let t := { s.tags with
    arrived := s.tags.arrived.filter fun x => x.source != core
    waiters := s.tags.waiters.filter (· != .core core)
    granted := s.tags.granted.filter fun g => g.1 != core
    tags := s.tags.tags.filter fun e => !(back.any fun g => g.2.toNat == e.1) }
  (s.setTags t).grantWaiters s.tags.waiters.length

/-- Retirement of a LIVE tag begins (R265, R269). -/
def State.beginRetire (s : State) (t : Nat) : State :=
  (s.setTags { s.tags with tags := assign s.tags.tags t .retiring }).post (.tagRetirement (BitVec.ofNat 16 t))

/-- A materialisation for a tag is in progress (R269). -/
def State.materialising (s : State) (t : Nat) : Bool :=
  s.agenda.any fun e => match e.instr with
    | .materialisation req _ => req.tag.toNat == t
    | _ => false

/-- Every cached copy of a physical page goes, dirty data with it (R269). -/
def State.discardPage (s : State) (page : Nat) : State :=
  let lines (key : Nat) : Bool := key / 1024 == page
  { s with
    cores := s.cores.map fun c =>
      if c.caches.l1.isEmpty && c.caches.ro.isEmpty then c
      else { c with caches := { c.caches with
        l1 := c.caches.l1.filter fun x => !lines (x.key / 2), ro := c.caches.ro.filter fun x => !lines x.key } }
    mem := { s.mem with
      l2 := s.mem.l2.filter fun x => !lines x.key
      cistern := s.mem.cistern.filter fun x => !lines x.key
      marks := s.mem.marks.filter fun k => !((k.place == placeL2 || k.place == placeCistern) && lines k.key) } }

/-- The pages of a tag go and the tag becomes FREE (R269). -/
def State.freeTag (s : State) (t : Nat) : State :=
  let pages := (s.tags.dir.filter fun e => e.1.2 == t).map (·.2)
  let s := pages.foldl (fun s f => s.discardPage (f / 2 ^ 16)) s
  s.setTags { s.tags with
    dir := s.tags.dir.filter fun e => e.1.2 != t
    used := s.tags.used.filter fun f => !pages.contains f
    killed := s.tags.killed.filter (· != t)
    tags := unassign s.tags.tags t }

/-- TAGNEW_READ (R261) by the host: a request that never waits, which the allocator takes with those of its cycle (R260). Before full
service there is no tag to obtain (R396, R397). -/
def execTagnewRead (s : State) : Answer :=
  .next (if s.mgmt.idle ≠ 0 then s.hostWait else if s.mgmt.stage = .stage2 then s.askTag hostSource false else s)

/-- TAGRET_WRITE (R261): a write of 0, or of a tag that is not LIVE, has no effect. -/
def execTagretWrite (tag : Tag) (s : State) : Answer :=
  .next (if tag != 0 && s.tags.isLive tag.toNat then s.beginRetire tag.toNat else s)

end Sys2Proof.Machine
end

