-- ==== Sys2Proof/Machine/Wide.lean ====
section
/-! DEFINITION. Wide operations: acceptance by the vector unit and the array (R145, R146, R168, R169, R178), windows
(R89 to R91), latencies (R147, R170, R179) and completion. -/

namespace Sys2Proof.Machine

/-! ### Operands of a record -/

/-- The operand places that name ports, with the port. -/
def Rec.portsOf (r : Rec) : List (Nat × Nat) :=
  [0, 1, 2, 3].filterMap fun i => if descKind (r.desc i) = 1 then some (i, descPort (r.desc i)) else none

/-- Executed by the matrix array. -/
def Rec.isArray (r : Rec) : Bool := decide (0x60 ≤ r.wop ∧ r.wop < 0x69)

/-- A factor instruction of the array: it occupies the whole array (R178). -/
def Rec.isFactor (r : Rec) : Bool := decide (0x64 ≤ r.wop ∧ r.wop < 0x69)

/-- An `mchol`, `mlu` or `mqr`. -/
def Rec.isColumns (r : Rec) : Bool := decide (0x64 ≤ r.wop ∧ r.wop < 0x67)

/-- The width operation gives C (R134, R149, R152, R158, R159). -/
def Rec.widthC (r : Rec) : Nat := if r.wop = 0x4C ∨ r.wop = 0x4D then fmtWidth r.fmtA else fmtWidth r.fmtD

/-- The format of an operand place: 0 D, 1 A, 2 B. -/
def Rec.fmtOf (r : Rec) (i : Nat) : Nat := match i with
  | 0 => r.fmtD
  | 1 => r.fmtA
  | _ => r.fmtB

/-- Bytes of a register's worth in a format: code bytes for Q4 (R140). -/
def worth (fmt : Nat) : Nat := if fmtQ4 fmt then 2048 else 4096

/-- A port's data size fits the operation (R140, R164, R169, R178). -/
def Rec.sizeOk (r : Rec) (i : Nat) (d : PortDesc) : Bool :=
  let q4 := !fmtQ4 d.fmt || d.q4Aligned
  match r.wop with
  | 0x61 => tileBytes r.fmtA % d.size == 0
  | 0x62 => d.size == (if fmtQ4 (r.fmtOf i) then 2048 else feedBytes (r.fmtOf i)) && q4
  | 0x63 => tileBytes r.fmtD % d.size == 0
  | 0x66 => 1024 % d.size == 0
  | 0x67 => 512 % d.size == 0
  | _ => decide (d.size ≤ worth d.fmt) && q4

/-- A port's format fits the operand. -/
def Rec.formatOk (r : Rec) (i : Nat) (d : PortDesc) : Bool :=
  if i = 3 then fmtWidth d.fmt == r.widthC && !fmtQ4 d.fmt else d.fmt == r.fmtOf i

/-- The checks of R146 and R169 on one port operand. -/
def Core.portOk (c : Core) (r : Rec) (e : Nat × Nat) : Bool :=
  let p := c.port e.2
  p.set && (PortDesc.output p.desc == (e.1 == 0)) && r.formatOk e.1 p.desc && r.sizeOk e.1 p.desc &&
    (!PortDesc.bound p.desc || (c.buf (PortDesc.cbn p.desc)).set)

/-- Pops of one round of a source. -/
def Rec.popsPer (r : Rec) (d : PortDesc) : Nat := match r.wop with
  | 0x61 => 1
  | 0x62 => 1
  | 0x67 => 512 / d.size
  | _ => worth d.fmt / d.size

/-- The sources that pop, in the order A, B, C. -/
def Core.popSources (c : Core) (r : Rec) : List PopSource :=
  (r.portsOf.filter fun e => e.1 != 0).map fun e =>
    { place := e.1, port := e.2, pops := r.popsPer (c.port e.2).desc }

/-- The rounds of an operation. -/
def Core.rounds (c : Core) (r : Rec) : Nat := match r.wop with
  | 0x61 => tileBytes r.fmtA / max 1 (PortDesc.size (c.port (descPort (r.desc 1))).desc)
  | 0x62 => if fmtQ4 r.fmtA then r.groups / 2 else r.groups
  | 0x67 => r.cols
  | _ => r.regs

/-- The pushes of an operation to the port D names, `cols` columns of an `mqr`. -/
def Core.pushCount (c : Core) (r : Rec) (cols : Nat) : Nat :=
  let d := (c.port (descPort (r.desc 0))).desc
  match r.wop with
  | 0x63 => tileBytes r.fmtD / max 1 (PortDesc.size d)
  | 0x66 => cols * (1024 / max 1 (PortDesc.size d))
  | 0x67 => r.cols * (512 / max 1 (PortDesc.size d))
  | _ => r.regs * (worth (PortDesc.fmt d) / max 1 (PortDesc.size d))

/-! ### Latency (R147, R170, R179) -/

/-- Cycles of one register on the vector unit. -/
def Core.cyclesPer (c : Core) (r : Rec) : Nat :=
  let ps := r.portsOf
  let pmax := (ps.map fun e => worth (PortDesc.fmt (c.port e.2).desc) / max 1 (PortDesc.size (c.port e.2).desc)).foldl max 0
  max (if r.wop = 0x69 then 2 else (vecTiming r.wop).2) (max ps.length pmax)

/-- Cycles of one group of an `mma`: two for 8-bit formats and Q4 in early service (R170). -/
def State.groupCycles (s : State) (r : Rec) : Nat :=
  if s.mgmt.stage == .stage2 || fmtWidth r.fmtA == 16 || fmtWidth r.fmtA == 32 then 1 else 2

/-- Cycles of one vector of `mtrs`. -/
def Core.solveCycles (c : Core) (r : Rec) : Nat :=
  max 1 (max (512 / max 1 (PortDesc.size (c.port (descPort (r.desc 1))).desc))
    (512 / max 1 (PortDesc.size (c.port (descPort (r.desc 0))).desc)))

/-- The minimum latency. -/
def State.minLatency (s : State) (r : Rec) : Nat :=
  let c := s.core
  match r.wop with
  | 0x60 => 4
  | 0x61 => 136
  | 0x62 => 16 + s.groupCycles r * r.groups
  | 0x63 => 136
  | 0x64 => 8 + 24 * r.cols
  | 0x65 => 8 + 28 * r.cols
  | 0x66 => 8 + (r.order + 16) * r.cols
  | 0x67 => 8 + r.order + r.cols * c.solveCycles r
  | 0x68 => 8
  | 0x69 => 8 + c.cyclesPer r * r.regs
  | _ => (vecTiming r.wop).1 + c.cyclesPer r * r.regs

/-! ### FCOL, GROW and what a factor instruction will do (R180, R182, R186) -/

def FactorRegs.act (f : FactorRegs) : Bool := f.fcol.getLsbD 15
def FactorRegs.op (f : FactorRegs) : Nat := bitsAt f.fcol 12 3
def FactorRegs.brk (f : FactorRegs) : Bool := f.fcol.getLsbD 9
def FactorRegs.bank (f : FactorRegs) : Nat := bitsAt f.fcol 8 1
def FactorRegs.col (f : FactorRegs) : Nat := bitsAt f.fcol 0 8

/-- FCOL from its fields. -/
def fcolWord (act : Bool) (op : Nat) (brk : Bool) (bank col : Nat) : Word :=
  BitVec.ofNat 64 (natOfBool act * 2 ^ 15 + op * 2 ^ 12 + natOfBool brk * 2 ^ 9 + bank * 2 ^ 8 + col)

/-- FCOL.OP of a wide opcode. -/
def Rec.colOp (r : Rec) : Nat := r.wop - 0x63

def Core.bankCellsOf (c : Core) (b : Nat) : Sparse 40 := if b = 0 then c.arrays.acc0 else c.arrays.acc1

def Core.setBankCells (c : Core) (b : Nat) (x : Sparse 40) : Core :=
  if b = 0 then { c with arrays := { c.arrays with acc0 := x } } else { c with arrays := { c.arrays with acc1 := x } }

/-- The leading tile of the bank a record names. -/
def Core.leading (c : Core) (r : Rec) : Tile := tileOf r.order (c.bankCellsOf r.bank)

/-- The factorisation that FCOL records goes on (R186). -/
def Core.goesOn (c : Core) (r : Rec) : Bool :=
  c.factor.act && c.factor.op == r.colOp && c.factor.bank == r.bank && (!r.begins || c.factor.brk)

/-- Mmax as an issue that goes on finds it: what `mload` and `mma` have put into the trailing tile since then counts as well (R182, R188). -/
def Core.mmaxNow (c : Core) (r : Rec) : Nat :=
  magMax c.factor.mmax.toNat ((c.leading r).maxFrom (r.colOp == opChol) c.factor.col)

/-- The run of an `mchol`, `mlu` or `mqr` as it stands at acceptance; none where there is nothing to do. -/
def Core.columnRun (c : Core) (r : Rec) : Option FactorRun :=
  let nz := r.op 1 1 == 1
  if c.goesOn r then
    some (runFactor r.colOp nz (c.leading r) c.factor.col r.cols (c.mmaxNow r) (bitsAt c.factor.grow 32 32)
      (bitsAt c.factor.grow 0 32))
  else if r.begins then
    let m0 := (c.leading r).maxFrom (r.colOp == opChol) 0
    some (runFactor r.colOp nz (c.leading r) 0 r.cols m0 m0 0x3F800000)
  else none

/-- What is fixed at acceptance. -/
def Core.factorPlan (c : Core) (r : Rec) : FactorPlan :=
  let pivot := bitsAt c.factor.pivdst 0 10
  match c.columnRun r with
  | some f => { first := f.col - f.done, cols := f.done, breaks := f.broke.isSome, nothing := false, pivot := pivot }
  | none => { first := 0, cols := 0, breaks := false, nothing := true, pivot := pivot }

/-- Columns an issue would process if no check failed. -/
def Core.columnsAsked (c : Core) (r : Rec) : Nat :=
  if c.goesOn r then min (c.factor.col + r.cols) r.order - c.factor.col
  else if r.begins then min r.cols r.order else 0

/-! ### Units and windows (R89 to R91, R145, R168, R178) -/

/-- An operation that names a port executes on the array, or on the vector unit. -/
def Core.portBusy (c : Core) (array : Bool) : Bool :=
  c.queues.windows.any fun w => Rec.isArray w.op.record == array && !(Rec.portsOf w.op.record).isEmpty

/-- The unit that X needs is free (R145 conditions 1 and 3, R168 conditions 1, 2 and 4, R178). An issue that will break
down lets nothing behind it be accepted. -/
def Core.unitFree (c : Core) (r : Rec) (now : Nat) : Bool :=
  let ws := c.queues.windows
  let arrays := ws.filter fun w => Rec.isArray w.op.record
  !(ws.any fun w => match w.factor with
      | some f => f.breaks
      | none => false) &&
    (r.portsOf.isEmpty || !c.portBusy (!r.isArray)) &&
    (if !r.isArray then decide (c.units.vecFree ≤ now)
     else if r.isFactor then arrays.isEmpty && decide (c.units.mulFree ≤ now)
     else
       (arrays.all fun w => !Rec.isFactor w.op.record &&
         (Rec.bank w.op.record != r.bank || (r.wop == 0x62 && Rec.wop w.op.record == 0x62))) &&
       (r.wop != 0x62 || decide (c.units.mulFree ≤ now)) &&
       ((r.wop != 0x61 && r.wop != 0x63) || decide (c.units.xferFree ≤ now)))

/-- The VRF registers an operation reads. -/
def Core.readsOf (c : Core) (r : Rec) : List Nat :=
  ([1, 2, 3].filter fun i => descKind (r.desc i) == 0).flatMap (fun i => r.block i) ++
    (if r.wop = 0x69 then [bitsAt c.factor.pivdst 0 10] else [])

/-- The VRF registers an operation writes. -/
def Core.writesOf (c : Core) (r : Rec) : List Nat :=
  if r.wop = 0x65 then [bitsAt c.factor.pivdst 0 10]
  else if descKind (r.desc 0) = 0 then r.block 0 else []

/-- The registers of an `lv` or `sv`. -/
def xferRegs (row col : BitVec 5) (h1 w1 : BitVec 3) : List Nat :=
  blockRegs row.toNat col.toNat (h1.toNat + 1) (w1.toNat + 1)

/-- The windows check mode guards, as (read, written) registers: wide operations to their bounds, an `lv` or `sv` from its
start to its completion (R91). -/
def Core.guards (c : Core) (now : Nat) : List (List Nat × List Nat) :=
  c.queues.windows.map (fun w => (w.src, w.dst)) ++
    (c.queues.guarded.filter fun g => decide (now < g.bound)).map (fun g => (g.src, g.dst)) ++
    (match c.queues.lq with
     | e :: _ => (match e.instr, e.state with
       | .lv _ _ row col h1 w1 _, .begun => [([], xferRegs row col h1 w1)]
       | _, _ => [])
     | [] => []) ++
    (match c.queues.sq with
     | e :: _ => (match e.instr, e.state with
       | .sv _ _ row col h1 w1 _, .begun => [(xferRegs row col h1 w1, [])]
       | _, _ => [])
     | [] => [])

/-- A window conflict in check mode (R91): reads against reads never conflict. -/
def Core.conflict (c : Core) (now : Nat) (src dst : List Nat) : Bool :=
  c.chk && (c.guards now).any fun g =>
    dst.any (fun r => g.1.contains r || g.2.contains r) || src.any fun r => g.2.contains r

/-! ### Tokens (R79, R211) -/

/-- The counters a CQ operation waits for are non-zero. -/
def Core.cqTokens (c : Core) (op : WideOp) : Bool :=
  (!op.wp || c.bank.tok.lqcq != 0) && (!op.wn || c.bank.tok.sqcq != 0)

/-- A CQ operation takes its tokens; the one from the SQ carries what had completed there. -/
def Core.takeCq (c : Core) (op : WideOp) : Core :=
  let t := c.bank.tok
  let known := if op.wn then max c.queues.cqKnows (t.sqcqInfo.headD 0) else c.queues.cqKnows
  let t := if op.wp then { t with lqcq := t.lqcq - 1 } else t
  let t := if op.wn then { t with sqcq := t.sqcq - 1, sqcqInfo := t.sqcqInfo.drop 1 } else t
  { c.setBank { c.bank with tok := t } with queues := { c.queues with cqKnows := known } }

/-- A CQ operation's pushes that still stand out after as many as the counters allow. -/
def Core.pushCq (c : Core) (sp sn : Bool) : Core × Bool × Bool :=
  let t := c.bank.tok
  let doN := sn && decide (t.cqsq < 15)
  let doP := sp && decide (t.cqlq < 15)
  let t := if doN then { t with cqsq := t.cqsq + 1 } else t
  let t := if doP then { t with cqlq := t.cqlq + 1, cqlqInfo := t.cqlqInfo ++ [c.queues.cqKnows] } else t
  (c.setBank { c.bank with tok := t }, sp && !doP, sn && !doN)

/-! ### Acceptance -/

/-- A trap of the operation at the head of the CQ: the operation stays, unexecuted. -/
def State.cqTrap (s : State) (e : QEntry) (cause : Nat) (info : Word) : State :=
  let c := s.core
  let e' := { e with state := .stopped (e.state != .waiting) }
  (s.withCore { c with queues := { c.queues with cq := e' :: c.queues.cq.drop 1 } }).raiseQueue
    { src := 2, cause := cause, info := info, va := none, pc := none, flow := none, order := e.order, cycle := s.now }

/-- The feeds hold what an `mma` takes (R168 condition 6). -/
def Core.feedsReady (c : Core) (r : Rec) : Bool :=
  r.wop != 0x62 ||
    ((!r.feedA || decide (r.groups * feedBytes r.fmtA ≤ c.arrays.feedA.length)) &&
     (!r.feedB || decide (r.groups * feedBytes r.fmtB ≤ c.arrays.feedB.length)))

/-- G does not exceed the capacity of a feed X names (R169). -/
def Rec.feedOk (r : Rec) : Bool :=
  r.wop != 0x62 || !(r.feedA || r.feedB) || decide (r.groups ≤ (if r.fmtA = 0 then 128 else 64))

/-- The zero on the diagonal that stops an `mtrs` (R193). -/
def Core.zeroStop (c : Core) (r : Rec) : Option Nat :=
  if r.wop = 0x67 && r.op 3 1 == 0 then (c.leading r).zeroDiag (r.op 1 1 == 1) (r.op 2 1 == 1) else none

/-- Registers and BREAKDOWN of an `mtrs` with a zero on its diagonal. -/
def State.zeroDiagTrap (s : State) (e : QEntry) (r : Rec) (j : Nat) : State :=
  let c := s.core
  let f := { c.factor with
    fcol := fcolWord false opTrs true r.bank j
    fstat := putBits c.factor.fstat 8 4 4
    bkval := BitVec.ofNat 64 ((c.leading r).get j j + j * 2 ^ 32) }
  (s.withCore { c with factor := f }).cqTrap e causeBreakdown 4

/-- The uncorrectable error that the reads of an operation meet (R369). -/
def State.inspectReads (s : State) (regs : List Nat) (spans : List (Nat × Nat)) : State × Option Bool :=
  if s.mem.marks.isEmpty then (s, none)
  else
    let look (a : State × Option Bool) (place lo n : Nat) : State × Option Bool :=
      let r := a.1.inspectLocal place lo n
      (r.1, a.2.or r.2)
    let a := regs.foldl (fun a r => look a placeVrf (r * 4096) 4096) (s, none)
    spans.foldl (fun a e => look a placeSp e.1 e.2) a

/-- The places of a bank that an array operation reads: every cell, or the leading tile row by row (R173 to R175). -/
def Rec.cellRuns (r : Rec) : List (Nat × Nat) :=
  let b := r.bank * 16384
  if r.wop = 0x62 ∨ r.wop = 0x63 then [(b, 16384)]
  else if 0x64 ≤ r.wop ∧ r.wop < 0x69 then (List.range r.order).map fun i => (b + 128 * i, r.order) else []

/-- The error that the reads of an operation find in the core's own structures: its queue entry, cells and feed vectors (R367). -/
def Core.partError (c : Core) (order : Nat) (r : Rec) : Option Bool :=
  if c.damage.isEmpty then none
  else
    let cells := r.cellRuns.foldl (fun o e => o.or (c.damageIn partAcc e.1 e.2)) (c.damageIn partQueue order 1)
    let a := if r.wop = 0x62 && r.feedA then c.damageIn partFeed 0 (r.groups * feedBytes r.fmtA / 8) else none
    let b := if r.wop = 0x62 && r.feedB then c.damageIn partFeed 8192 (r.groups * feedBytes r.fmtB / 8) else none
    (cells.or a).or b

/-- What the whole writes of an operation leave of the errors: a bank that is filled has none, and feed vectors that go take theirs along. -/
def Core.partsDone (c : Core) (r : Rec) (fa fb : Nat) : Core :=
  let c := if r.wop = 0x60 ∨ r.wop = 0x61 then c.mend partAcc (r.bank * 16384) 16384 else c
  (c.shiftDamage partFeed 0 8192 (fa / 8)).shiftDamage partFeed 8192 8192 (fb / 8)

/-- What X has read for an operand place: registers of a block, or what it popped. -/
def Core.captured (c : Core) (r : Rec) (pops : List (Nat × (List Byte × List Byte))) (i : Nat) :
    List (List Byte × List Byte) :=
  if descKind (r.desc i) = 0 then (r.block i).map fun n => (c.vreg n, [])
  else (pops.filter fun e => e.1 == i).map (·.2)

/-- The bytes a drain gives (R174). -/
def Core.drainOut (c : Core) (r : Rec) : List Byte := drainBytes r.fmtD r.sat (bankCells (c.bankCellsOf r.bank))

/-- Feed vectors taken from a feed. -/
def takeFeed (n size : Nat) (f : List Byte) : List (List Byte × List Byte) :=
  (chunks size n (f.take (n * size))).map fun b => (b, [])

/-- Acceptance of X on this cycle (R89, R143, R144): tokens and slots are taken, sources read, walkers moved, last-read
marks applied, pushes planned, and the completion falls due. X's window closes for other accesses at its completion: an access after that,
be it inside [t, t + L − 1], finds X's result, where R90 leaves either value (DESIGN CHOICE, log entry 36). -/
def State.issueWide (s : State) (e : QEntry) (op : WideOp) : State :=
  let r : Rec := op.record
  let c := if e.state == .waiting then s.core.takeCq op else s.core
  let plan : Option FactorPlan := if r.isColumns then some (c.factorPlan r) else
    if r.wop = 0x69 then some { first := 0, cols := 0, breaks := false, nothing := false, pivot := bitsAt c.factor.pivdst 0 10 }
    else none
  let columns := match plan with
    | some f => f.cols
    | none => 0
  let sources := c.popSources r
  let taken := c.takeInputs sources
  let read := taken.heldSlots (sources.map (·.port))
  let (c, pops, spans) := taken.popRounds sources (if sources.isEmpty then 0 else c.rounds r)
  match s.inspectReads (c.readsOf r) (if r.wop = 0x61 ∨ r.wop = 0x62 then [] else spans), c.partError e.order r with
  | (s, some inj), _ => s.consumed inj
  | (s, none), some inj => s.consumed inj
  | (s, none), none =>
    let marks := (r.portsOf.filter fun p => p.1 != 0 && r.last p.1).map (·.2)
    let (c, released) := c.applyMarks marks
    let toPort := descKind (r.desc 0) == 1
    let k := if toPort then c.pushCount r columns else 0
    let at0 := (c.port (descPort (r.desc 0)))
    let (c, bases, published) := c.planPushes (descPort (r.desc 0)) k
    let fa := if r.wop = 0x62 && r.feedA then r.groups * feedBytes r.fmtA else 0
    let fb := if r.wop = 0x62 && r.feedB then r.groups * feedBytes r.fmtB else 0
    let dataA := if r.wop = 0x63 then (if toPort then [(c.drainOut r, [])] else [])
      else if fa = 0 then c.captured r pops 1 else takeFeed r.groups (feedBytes r.fmtA) c.arrays.feedA
    let dataB := if r.wop = 0x69 then [(c.vreg (bitsAt c.factor.pivdst 0 10), [])]
      else if fb = 0 then c.captured r pops 2 else takeFeed r.groups (feedBytes r.fmtB) c.arrays.feedB
    let t := s.now
    let wait : Nat := match plan with
      | some f => if r.isColumns then 8 + colCost r.wop r.order * f.cols else s.minLatency r
      | none => s.minLatency r
    let w : Window := {
      serial := c.units.serial, entry := { e with state := .begun }, op := op, issue := t, bound := t + r.lat, due := t + wait,
      src := c.readsOf r, dst := c.writesOf r, dataA := dataA, dataB := dataB, dataC := c.captured r pops 3,
      push := if toPort then some { desc := at0.desc, index := at0.index, bases := bases.map (·.2) } else none,
      slots := read ++ (if PortDesc.bound at0.desc then (bases.map (·.1)).eraseDups.map fun k => (PortDesc.cbn at0.desc, k) else []),
      effects := released ++ published, factor := plan, overSrc := [], overDst := [],
      fixed := [], closed := false,
      reads := if r.wop = 0x61 ∨ r.wop = 0x62 then (sources.map fun x =>
          let p := taken.port x.port
          { place := x.place, desc := p.desc, base := taken.slotBaseOf p, index := p.index }) else [] }
    let trsClear := r.wop == 0x67 && c.factor.op == opTrs
    let c := if c.damage.isEmpty then c else c.partsDone r fa fb
    let c := { c with
      arrays := { c.arrays with feedA := c.arrays.feedA.drop fa, feedB := c.arrays.feedB.drop fb }
      factor := if trsClear then { c.factor with fcol := putBits c.factor.fcol 9 1 0 } else c.factor
      queues := { c.queues with
        cq := c.queues.cq.drop 1, windows := c.queues.windows ++ [w],
        guarded := if c.chk then
            (c.queues.guarded.filter fun g => decide (t < g.bound)) ++ [{ bound := t + r.lat, src := w.src, dst := w.dst }]
          else [] }
      units := { c.units with
        serial := c.units.serial + 1
        cqNext := t + (if c.chk then 2 else 1)
        vecFree := if r.isArray then c.units.vecFree else t + c.cyclesPer r * r.regs
        mulFree := if r.wop = 0x62 then t + s.groupCycles r * r.groups else c.units.mulFree
        xferFree := if r.wop = 0x61 ∨ r.wop = 0x63 then t + 136 else c.units.xferFree } }
    (s.withCore c).postAt (t + wait) (.wideOpCompletion s.cur w.serial)

/-- The head of the CQ is offered to its unit (R145, R146, R168, R169). A port or a latency that fails R146 traps at once, even while slots or
feeds are awaited, and a window conflict is looked for once they are there: the rules do not say which comes first (DESIGN CHOICE, log
entry 54). -/
def State.acceptWide (s : State) (op : WideOp) : State :=
  let c := s.core
  let r : Rec := op.record
  match c.queues.cq with
  | [] => s.hold
  | e :: _ =>
    if !(e.state == .waiting || e.state == .begun || e.state == .again) || s.wireHolds || decide (s.now < c.units.cqNext) ||
        (e.state == .waiting && !c.cqTokens op) || !c.unitFree r s.now then s.hold
    else if !(r.portsOf.all fun p => c.portOk r p) || !r.feedOk || decide (r.lat < s.minLatency r) then
      s.cqTrap e causeIllegal (illegalInfo e.word 3)
    else if !(c.inputsReady (c.popSources r) && c.feedsReady r &&
        (descKind (r.desc 0) != 1 || c.outputReady (descPort (r.desc 0)) (c.pushCount r (c.columnsAsked r)))) then s.hold
    else if c.conflict s.now (c.readsOf r) (c.writesOf r) then
      s.cqTrap e causeHazard (BitVec.ofNat 64 e.word.toNat)
    else match c.zeroStop r with
      | some j => s.zeroDiagTrap e r j
      | none => s.issueWide e op

/-! ### Results -/

/-- 4 bytes of a register replaced. -/
def patchWord (bs : List Byte) (k : Nat) (v : BitVec 32) : List Byte :=
  bs.take (4 * k) ++ leBytes 4 v.toNat ++ bs.drop (4 * k + 4)

/-- The words of a run that are chosen take their value there; the others stay (R90). `k` is the word at which the bytes start. -/
def overlay (chosen : Nat → Bool) : Nat → List (Nat × BitVec 32) → List Byte → List Byte
  | k, (w, v) :: rest, a :: b :: c :: d :: bs =>
    if k = w then (if chosen k then leBytes 4 v.toNat else [a, b, c, d]) ++ overlay chosen (k + 1) rest bs
    else a :: b :: c :: d :: overlay chosen (k + 1) ((w, v) :: rest) bs
  | _, _, bs => bs

/-- The words of a register, from word `k` on, in which two values differ, with the second value. -/
def diffFrom : Nat → List Byte → List Byte → List (Nat × BitVec 32)
  | k, a :: b :: c :: d :: xs, a' :: b' :: c' :: d' :: ys =>
    if a = a' ∧ b = b' ∧ c = c' ∧ d = d' then diffFrom (k + 1) xs ys
    else (k, BitVec.ofNat 32 (leNat [a', b', c', d'])) :: diffFrom (k + 1) xs ys
  | _, _, _ => []

/-- The words in which an access with key `key` changes a register; none where it changes nothing. -/
def runOf (key reg : Nat) (old new : List Byte) : List OverRun :=
  match diffFrom 0 old new with
  | [] => []
  | ws => [{ key := key, reg := reg, words := ws }]

/-- A run among runs in rising order of key, behind those of its own key. -/
def insertRun (x : OverRun) : List OverRun → List OverRun
  | [] => [x]
  | y :: ys => if x.key < y.key then x :: y :: ys else y :: insertRun x ys

/-- Runs in rising order of key. -/
def sortRuns (l : List OverRun) : List OverRun := l.foldl (fun acc x => insertRun x acc) []

/-- A source register as the access `serial` used it: of each word that another access wrote in the window, either value (R90). -/
def chooseWords (serial reg : Nat) (alts : List OverRun) (bs : List Byte) : List Byte :=
  alts.foldl (fun bs x =>
    if x.reg = reg then overlay (fun k => Config.windowChoice serial (x.key * 2 ^ 20 + reg * 1024 + k)) 0 x.words bs else bs) bs

/-- The operand of a place, as the vector unit takes it (R134). -/
def srcOperand (op : WideOp) (i : Nat) (data : List (List Byte × List Byte)) : Src :=
  let r : Rec := op.record
  let cap := match i with
    | 1 => op.capA
    | 2 => op.capB
    | _ => op.capC
  match descKind (r.desc i) with
  | 0 => .regs (data.map (·.1))
  | 1 => .regs (data.map fun d => if d.2.isEmpty then d.1 else (d.1 ++ d.2 ++ zeroBytes 1920).take 4096)
  | 2 => .lane cap.toNat
  | _ => if descSel (r.desc i) = 1 then .lane r.imm else .absent

/-- The pivot register of a factor operation (R187). -/
def Window.pivot (w : Window) : Nat := match w.factor with
  | some f => f.pivot
  | none => 0

/-- The data of an operand place with the words settled that other accesses wrote in the window (R90). -/
def Window.choose (w : Window) (alts : List OverRun) (i : Nat) (data : List (List Byte × List Byte)) : List (List Byte × List Byte) :=
  let r : Rec := w.op.record
  if r.wop = 0x69 ∧ i = 2 then
    data.map fun d => (chooseWords w.serial w.pivot alts d.1, d.2)
  else if descKind (r.desc i) = 0 then
    List.zipWith (fun n (d : List Byte × List Byte) => (chooseWords w.serial n alts d.1, d.2)) (r.block i) data
  else data

/-- The operation with its sources as it uses them (R90). -/
def Window.sourced (w : Window) (alts : List OverRun) : Window :=
  if alts.isEmpty then w
  else { w with
    dataA := w.choose alts 1 w.dataA, dataB := w.choose alts 2 w.dataB, dataC := w.choose alts 3 w.dataC }

/-- The rows of a tile of bytes. -/
def rowsOf (fmt : Nat) (bs : List Byte) : List (List Nat) :=
  (chunks (tileBytes fmt / 128) 128 bs).map fun row => (chunks (fmtWidth fmt / 8) 128 row).map leNat

/-- The registers' worths a vector operation gives (R136). -/
def Core.vectorOut (c : Core) (w : Window) : List (List Byte) :=
  let r : Rec := w.op.record
  if r.wop = 0x69 then
    let tile := srcOperand w.op 1 w.dataA
    let bytes := (List.range r.regs).flatMap fun k => tile.bytes (fmtWidth r.fmtA) k
    let piv := lanesOf 32 ((w.dataB.getD 0 ([], [])).1)
    let rows := pivotRows r.order (r.op 1 1 == 1) piv (rowsOf r.fmtA bytes)
    chunks 4096 r.regs (rows.flatMap fun row => row.flatMap (leBytes (fmtWidth r.fmtA / 8)))
  else
    let old := if descKind (r.desc 0) = 0 then (r.block 0).map c.vreg else List.replicate r.regs zeroReg
    vecResult r (srcOperand w.op 1 w.dataA) (srcOperand w.op 2 w.dataB) (srcOperand w.op 3 w.dataC) old

/-- The pivots an `mlu` issue writes into its pivot register. -/
def Core.pivotOut (c : Core) (w : Window) : List Byte :=
  let reg := match w.factor with
    | some f => f.pivot
    | none => 0
  let piv := match c.columnRun w.op.record with
    | some f => f.pivots
    | none => []
  piv.foldl (fun bs e => patchWord bs e.1 (BitVec.ofNat 32 e.2)) (c.vreg reg)

/-- Words of a register that are fixed take their value there. -/
def pinned (runs : List OverRun) (reg : Nat) (bs : List Byte) : List Byte :=
  runs.foldl (fun bs x => if x.reg = reg then overlay (fun _ => true) 0 x.words bs else bs) bs

/-- The values X gives its VRF destination, by register; words that another access may have seen keep the value they had then. -/
def Core.destOut (c : Core) (w : Window) : List (Nat × List Byte) :=
  let r : Rec := w.op.record
  let out : List (Nat × List Byte) :=
    if r.wop = 0x65 then w.dst.map fun n => (n, c.pivotOut w)
    else if descKind (r.desc 0) = 0 then
      (if r.wop = 0x63 then (r.block 0).zip (chunks 4096 r.regs (c.drainOut r))
       else if r.isArray then []
       else (r.block 0).zip (c.vectorOut w))
    else []
  if w.fixed.isEmpty then out else out.map fun e => (e.1, pinned w.fixed e.1 e.2)

/-- The bytes of a destination register that X writes, as (first, count) spans: an `mlu` writes the lanes of its pivots only (R190), a
`vcvt` that narrows its PART (R158), a `vq4` its blocks and their scale bytes (R159). -/
def Core.spansOf (c : Core) (w : Window) : List (Nat × Nat) :=
  let r : Rec := w.op.record
  match r.wop with
  | 0x65 => match c.columnRun r with
    | some f => f.pivots.map fun p => (4 * p.1, 4)
    | none => []
  | 0x4C =>
    let n := fmtLanes r.fmtA * (fmtWidth r.fmtD / 8)
    if fmtLanes r.fmtA < fmtLanes r.fmtD then [(r.op 0 2 * n, n)] else [(0, 4096)]
  | 0x4D =>
    let n := fmtLanes r.fmtA / 32
    [(16 * (r.op 2 2 * n), 16 * n), (2048 + r.op 2 2 * n, n), (2176, 1920)]
  | _ => [(0, 4096)]

/-! ### Results that are seen before the operation completes (R90)

An access in the window of X reads each word of X's destination as it was or as X's result. What X gives a word may itself hang on such a
choice, so the words of X that another access may see are fixed first, in an order that is free; they are X's result from then on,
whatever is written to X's sources later. Word for word: an operation that works lane by lane fixes words one by one, each from the
same word of its sources; another fixes the choice of its sources, and with it its whole result. -/

/-- Each word of the result comes from the same word of the sources. -/
def Rec.laneWise (r : Rec) : Bool := decide (r.wop < 0x30) && fmtWidth r.fmtA == fmtWidth r.fmtD

/-- X writes a register that another operation in execution reads. -/
def Core.feeds (c : Core) (x : Window) : Bool := c.queues.windows.any fun z => z.serial != x.serial && x.dst.any z.src.contains

/-- Some operation in execution writes what another reads. -/
def Core.tangled (c : Core) : Bool := c.queues.windows.any c.feeds

/-- The words that `w` may read besides what stood there at its acceptance: those that others wrote meanwhile, and fixed results of
operations in execution. -/
def Core.alternatives (c : Core) (w : Window) : List OverRun :=
  if w.closed then []
  else sortRuns (w.overSrc ++ c.queues.windows.flatMap fun x =>
    if x.serial = w.serial then [] else x.fixed.filter fun e => w.src.contains e.reg)

/-- The word is fixed already. -/
def Window.holdsWord (w : Window) (reg k : Nat) : Bool := w.fixed.any fun x => x.reg == reg && x.words.any (·.1 == k)

/-- Fixes words of X's result, as a free choice number `n`. -/
def Core.fixWords (c : Core) (n : Nat) (w : Window) : Window :=
  let r : Rec := w.op.record
  let w' := w.sourced (c.alternatives w)
  let runs (v : Window) : List OverRun := (c.destOut v).flatMap fun e => runOf w.serial e.1 (c.vreg e.1) e.2
  if w.closed then w
  else if r.laneWise then
    let shown (reg k : Nat) : Bool := Config.windowChoice (2 ^ 80 + n) (w.serial * 2 ^ 20 + reg * 1024 + k) && !w.holdsWord reg k
    { w with fixed := w.fixed ++ (runs w').map fun x => { x with words := x.words.filter fun p => shown x.reg p.1 } }
  else if Config.windowChoice (2 ^ 80 + n) (w.serial * 2 ^ 20 + 2 ^ 19) then
    { w' with closed := true, overSrc := [], fixed := runs w' }
  else w

/-- One operation of those in execution fixes words. -/
def State.fixOne (s : State) : State :=
  let (k, s) := s.pickBelow s.core.queues.windows.length
  match s.core.queues.windows[k]? with
  | none => s
  | some w =>
    let c := s.core
    let s := s.withCore { c with queues := { c.queues with windows := c.queues.windows.set k (c.fixWords s.free w) } }
    { s with free := s.free + 1 }

/-- Operations in execution fix words, some number of times. -/
def State.fixMany : Nat → State → State
  | 0, s => s
  | n + 1, s => s.fixOne.fixMany n

/-- Words are fixed, as a free choice, before another access reads. -/
def State.fixSome (s : State) : State :=
  let (k, s) := s.pickBelow (8 * s.core.queues.windows.length)
  s.fixMany k

/-- Before an operation takes its sources, those that it may read from fix words. -/
def State.untangle (s : State) : State := if s.core.tangled then s.fixSome else s

/-! ### Writes and reads of registers in windows (R90) -/

/-- A window takes note of a write to a register that it reads or writes, in the given (first, count) spans of its bytes. -/
def Window.noteWrite (w : Window) (key reg : Nat) (spans : List (Nat × Nat)) (old new : List Byte) : Window :=
  { w with
    overSrc := if w.src.contains reg && !w.closed then w.overSrc ++ runOf key reg old new else w.overSrc
    overDst := if w.dst.contains reg then w.overDst ++ (spans.map fun e => (reg, e.1, e.2)).filter fun x => !w.overDst.contains x
      else w.overDst }

/-- Another access has written word `k` of a register of X's destination. -/
def Window.overwrote (w : Window) (reg k : Nat) : Bool :=
  w.overDst.any fun x => x.1 == reg && decide (x.2.1 < 4 * k + 4 ∧ 4 * k < x.2.1 + x.2.2)

/-- Another access has written a register: operations in execution that read or write it take note. -/
def Core.noteWrite (c : Core) (self : Option Nat) (key reg : Nat) (spans : List (Nat × Nat)) (old new : List Byte) : Core :=
  if c.queues.windows.any fun w => some w.serial != self && (w.src.contains reg || w.dst.contains reg) then
    { c with queues := { c.queues with
        windows := c.queues.windows.map fun w => if some w.serial == self then w else w.noteWrite key reg spans old new } }
  else c

/-- A register is written by an access, in the given (first, count) spans of its bytes: the operation `self`, or an `lv`, whose key is the
number of a free value. A word that is written in part keeps its error (R368). -/
def State.writeVreg (s : State) (self : Option Nat) (reg : Nat) (spans : List (Nat × Nat)) (bs : List Byte) : State :=
  let c := s.core
  let key := self.getD (2 ^ 40 + s.free)
  let c := (c.noteWrite self key reg spans (c.vreg reg) bs).setVreg reg bs
  spans.foldl (fun s e => s.coverLocal placeVrf (reg * 4096 + e.1) e.2)
    { s.withCore c with free := if self.isNone then s.free + 1 else s.free }

/-- The value of a register as a read by an `sv` finds it: words that an operation in execution will write may already hold
its result. -/
def State.viewVreg (s : State) (reg : Nat) : List Byte × State :=
  if !(s.core.queues.windows.any fun w => w.dst.contains reg) then (s.core.vreg reg, s)
  else
    let s := s.fixSome
    let alts := s.core.queues.windows.flatMap fun w => w.fixed.filter (·.reg == reg)
    (chooseWords (2 ^ 40 + s.free) reg (sortRuns alts) (s.core.vreg reg), { s with free := s.free + 1 })

/-! ### Ports of the array, cycle by cycle (R170) -/

/-- Cycles of one group of an `mma` in execution. -/
def Window.groupStep (w : Window) : Nat :=
  let r : Rec := w.op.record
  max 1 ((w.due - w.issue - 16) / max 1 r.groups)

/-- Bytes that an `mma` in execution has still to remove from a feed: the vector of group g goes in the cycle in which the group enters
(R167, R170). -/
def Window.feedLeft (w : Window) (feed : BitVec 2) (now : Nat) : Nat :=
  let r : Rec := w.op.record
  let (named, fmt) := if feed = 0 then (r.feedA, r.fmtA) else (r.feedB, r.fmtB)
  if r.wop = 0x62 && named then (r.groups - ((now - w.issue) / w.groupStep + 1)) * feedBytes fmt else 0

/-- Bytes of a feed that are taken: those not yet in use, and those that operations in execution have still to remove. -/
def Core.feedHeld (c : Core) (feed : BitVec 2) (now : Nat) : Nat :=
  (if feed = 0 then c.arrays.feedA.length else c.arrays.feedB.length) +
    (c.queues.windows.map fun w => w.feedLeft feed now).foldl (· + ·) 0

/-- A place's pop number `k` of an operation that reads its ports cycle by cycle. -/
def Core.popOf (c : Core) (x : PortRead) (k : Nat) : List Byte × List Byte :=
  c.popAt x.desc x.base ((x.index + k) % max 1 (PortDesc.period x.desc))

/-- The bytes of row `i` of an `mload` as they stand in the scratchpad now: `n` bytes of the stream of pops, which are pieces or multiples
of a row. -/
def Core.streamRow (c : Core) (x : PortRead) (i n : Nat) : List Byte :=
  let size := max 1 (PortDesc.size x.desc)
  let first := i * n / size
  (((List.range (max 1 (n / size))).flatMap fun k => (c.popOf x (first + k)).1).drop (i * n % size)).take n

/-- What a port gives `k` cycles after the issue: row `k` of an `mload`, the vector of the group that enters an `mma`. -/
def Core.readLate (c : Core) (w : Window) (k : Nat) (data : List (List Byte × List Byte)) (x : PortRead) : List (List Byte × List Byte) :=
  let r : Rec := w.op.record
  if r.wop = 0x61 then
    let n := tileBytes r.fmtA / 128
    let bs := data.flatMap (·.1)
    if k < 128 then [(bs.take (k * n) ++ c.streamRow x k n ++ bs.drop ((k + 1) * n), [])] else data
  else
    let step := w.groupStep * (if fmtQ4 (r.fmtOf x.place) then 2 else 1)
    if k % step = 0 && decide (k / step < data.length) then data.set (k / step) (c.popOf x (k / step)) else data

/-- The scratchpad words that row `i` of an `mload` reads, in pieces that lie within a run. -/
def PortRead.rowSpans (x : PortRead) (i n : Nat) : List (Nat × Nat) :=
  let d : PortDesc := x.desc
  let size := max 1 d.size
  let piece := max 1 (min d.run n)
  (List.range (n / piece)).map fun q =>
    let o := i * n + q * piece
    (d.runAt x.base ((x.index + o / size) % max 1 d.period) (o % size / max 1 d.run) + o % max 1 d.run, piece)

/-- The scratchpad words that an operation reads `k` cycles after its issue. -/
def Window.lateSpans (w : Window) (k : Nat) : List (Nat × Nat) :=
  let r : Rec := w.op.record
  w.reads.flatMap fun x =>
    if r.wop = 0x61 then (if k < 128 then x.rowSpans k (tileBytes r.fmtA / 128) else [])
    else
      let step := w.groupStep * (if fmtQ4 (r.fmtOf x.place) then 2 else 1)
      let n := if x.place = 1 then w.dataA.length else w.dataB.length
      if k % step = 0 && decide (k / step < n) then PortDesc.reads x.desc x.base ((x.index + k / step) % max 1 (PortDesc.period x.desc)) else []

/-- The uncorrectable error that the operations in execution meet at their ports in this cycle is consumed (R368, R369). -/
def State.inspectPorts (s : State) : State :=
  match s.inspectReads [] (s.core.queues.windows.flatMap fun w => w.lateSpans (s.now - w.issue)) with
  | (s, some inj) => s.consumed inj
  | (s, none) => s

/-- The operation after it has read its ports in this cycle. -/
def Core.readPorts (c : Core) (now : Nat) (w : Window) : Window :=
  w.reads.foldl (fun w x =>
    if x.place = 1 then { w with dataA := c.readLate w (now - w.issue) w.dataA x }
    else { w with dataB := c.readLate w (now - w.issue) w.dataB x }) w

/-- Row `i` of an `mdrain` goes to its port, in pieces that lie within a row of a push. -/
def State.drainRow (s : State) (w : Window) (p : PushPlan) (i : Nat) : State :=
  let n := tileBytes (Rec.fmtD w.op.record) / 128
  let bs := (((w.dataA.getD 0 ([], [])).1).drop (i * n)).take n
  let d : PortDesc := p.desc
  let size := max 1 d.size
  let piece := min d.run n
  (List.range (n / max 1 piece)).foldl (fun s q =>
    let o := i * n + q * piece
    let k := o / size
    s.spPut (d.runAt (p.bases.getD k 0) ((p.index + k) % max 1 d.period) (o % size / d.run) + o % d.run)
      ((bs.drop (q * piece)).take piece)) s

/-- The array's ports in a cycle: an operation reads and writes there what falls due in it (R170). -/
def State.streamPorts (s : State) (i : Fin 96) : State :=
  let c := s.cores[i]
  if c.queues.windows.isEmpty then s
  else s.onCore i fun s =>
    let s := s.inspectPorts
    let c := s.core
    let s := s.withCore { c with queues := { c.queues with windows := c.queues.windows.map (c.readPorts s.now) } }
    c.queues.windows.foldl (fun s w =>
      match w.push with
      | some p =>
        if Rec.wop w.op.record = 0x63 && decide (w.issue + 8 ≤ s.now ∧ s.now < w.issue + 136) then s.drainRow w p (s.now - w.issue - 8) else s
      | none => s) s

/-! ### Completion -/

/-- The register X writes: of a word that another access wrote meanwhile, either value stays, and of every other word X's (R90). -/
def settleDest (w : Window) (reg : Nat) (now out : List Byte) : List Byte :=
  if w.overDst.any (·.1 == reg) then
    overlay (fun k => w.overwrote reg k && !Config.windowChoice w.serial (2 ^ 70 + reg * 1024 + k)) 0 (diffFrom 0 out now) out
  else out

/-- Scale bytes of a list of registers' worths. -/
def scalesOf (fmt : Nat) (out : List (List Byte)) : List Byte :=
  if fmtQ4 fmt then out.flatMap fun b => (b.drop 2048).take 128 else []

/-- Code or element bytes of a list of registers' worths. -/
def codesOf (fmt : Nat) (out : List (List Byte)) : List Byte :=
  if fmtQ4 fmt then out.flatMap (·.take 2048) else out.flatten

/-- X pushes its data to its output port. -/
def State.pushWide (s : State) (w : Window) (bs scales : List Byte) : State :=
  match w.push with
  | some p => s.pushAll p.desc p.index p.bases bs scales
  | none => s

/-- GROW from its parts (R182). -/
def growWord (m0 v : Nat) : Word := BitVec.ofNat 64 (m0 * 2 ^ 32 + v)

/-- FSTAT with skipped columns added, saturating (R181). -/
def addSkipped (f : Word) (n : Nat) : Word := putBits f 16 16 (min 65535 (bitsAt f 16 16 + n))

/-- What an `mchol`, `mlu` or `mqr` issue leaves in the bank and the factor registers (R182, R186). -/
def Core.columnsDone (c : Core) (r : Rec) (f : FactorRun) : Core :=
  let stat := if c.goesOn r then c.factor.fstat else putBits (putBits c.factor.fstat 8 4 0) 16 16 0
  let regs := { c.factor with
    fcol := fcolWord (f.broke.isSome || decide (f.col ≠ r.order)) r.colOp f.broke.isSome r.bank f.col
    fstat := addSkipped stat f.skipped
    grow := growWord f.m0 f.grow
    mmax := BitVec.ofNat 64 f.mmax }
  let regs := match f.broke with
    | some b => { regs with
        fstat := putBits regs.fstat 8 4 b.cls, bkval := BitVec.ofNat 64 (b.value + b.row * 2 ^ 32) }
    | none => regs
  (({ c with factor := regs }).setBankCells r.bank (tileInto f.tile (c.bankCellsOf r.bank))).raiseFlags f.tile.flags

/-- The effect of `mshift` (R194). -/
def Core.shifted (c : Core) (w : Window) : Core :=
  let r : Rec := w.op.record
  let sigma := match srcOperand w.op 1 w.dataA with
    | .lane v => v % 2 ^ 32
    | _ => 0
  let s0 := if r.op 1 1 = 1 then c.factor.col else r.op 16 7
  if r.order ≤ s0 then c
  else
    let t := ((c.leading r).shift sigma s0)
    let c' := (c.setBankCells r.bank (tileInto t (c.bankCellsOf r.bank))).raiseFlags t.flags
    if c.factor.act && c.factor.bank == r.bank then
      let m : Nat := forRange s0 r.order (fun m i => magMax m (t.get i i)) c.factor.mmax.toNat
      let v := growth m (bitsAt c.factor.grow 32 32)
      let c' := c'.raiseFlags v.2
      { c' with factor := { c'.factor with
          mmax := BitVec.ofNat 64 m
          grow := growWord (bitsAt c.factor.grow 32 32) v.1 } }
    else c'

/-- The solutions of an `mtrs` and the flags it raises (R192). -/
def Core.solutions (c : Core) (w : Window) : List Byte × FpFlags :=
  let r : Rec := w.op.record
  w.dataA.foldl (fun (a : List Byte × FpFlags) d =>
    let x := solveVec (c.leading r) (r.op 1 1 == 1) (r.op 2 1 == 1) (r.op 3 1 == 1) (lanesOf 32 d.1)
    (a.1 ++ x.1.flatMap (leBytes 4), a.2.or x.2)) ([], FpFlags.none)

/-- The feed vectors of one source of `mma`, in order (R163). -/
def feedVectors (fmt : Nat) (data : List (List Byte × List Byte)) : List (List Num) :=
  if fmtQ4 fmt then data.flatMap fun d => [(feedPair d.1 d.2).1, (feedPair d.1 d.2).2]
  else data.map fun d => feedElems fmt d.1

/-- The VRF destination of X takes its result (R136). -/
def State.giveDest (s : State) (w : Window) : State :=
  (s.core.destOut w).foldl (fun s e => s.writeVreg (some w.serial) e.1 (s.core.spansOf w) (settleDest w e.1 (s.core.vreg e.1) e.2)) s

/-- The survivor count of a `vcompact` goes to the sequencer (R156). -/
def State.giveCount (s : State) (w : Window) : State :=
  if Rec.wop w.op.record = 0x4A then
    s.withCore (s.core.pushResult (BitVec.ofNat 64
      (compactCount w.op.record (srcOperand w.op 1 w.dataA) (srcOperand w.op 2 w.dataB))))
  else s

/-- The effect of X, its sources settled, on banks, factor registers, VRF and ports. -/
def State.performSourced (s : State) (w : Window) : State :=
  let c := s.core
  let r : Rec := w.op.record
  match r.wop with
  | 0x60 => s.withCore (c.setBankCells r.bank [])
  | 0x61 => s.withCore (c.setBankCells r.bank (bankOf (loadCells r.fmtA (w.dataA.flatMap (·.1)))))
  | 0x62 =>
    s.withCore (c.setBankCells r.bank (bankOf (mmaCells (cellDepth r.fmtA) r.tb (feedVectors r.fmtA w.dataA)
      (feedVectors r.fmtB w.dataB) (bankCells (c.bankCellsOf r.bank)))))
  | 0x63 =>
    let s := if descKind (r.desc 0) = 0 then s.giveDest w else s
    if r.op 1 1 = 1 then s.withCore (s.core.setBankCells r.bank []) else s
  | 0x67 =>
    let x := c.solutions w
    (s.withCore (c.raiseFlags x.2)).pushWide w x.1 []
  | 0x68 => s.withCore (c.shifted w)
  | _ =>
    if r.isColumns then
      match c.columnRun r with
      | some f =>
        let s := if r.wop = 0x65 then s.giveDest w else s
        (s.withCore (s.core.columnsDone r f)).pushWide w f.records.flatten []
      | none => s.withCore (c.setBankCells r.bank (tileInto (c.leading r) (c.bankCellsOf r.bank)))
    else if descKind (r.desc 0) = 0 then (s.giveDest w).giveCount w
    else
      let out := c.vectorOut w
      (s.pushWide w (codesOf r.fmtD out) (scalesOf r.fmtD out)).giveCount w

/-- The effect of X at its completion: its sources take what other accesses made of them, or not (R90). -/
def State.performWide (s : State) (w : Window) : State :=
  let s := s.untangle
  let w := (s.core.queues.windows.find? (·.serial == w.serial)).getD w
  s.performSourced (w.sourced (s.core.alternatives w))

/-- An entry that waits to push goes behind those that already wait. -/
def behindPushing (e : QEntry) : List QEntry → List QEntry
  | [] => [e]
  | x :: rest => match x.state with
    | .pushing _ _ => x :: behindPushing e rest
    | _ => e :: x :: rest

/-- Entries take the room there is in the CQ, and the rest waits to be placed. -/
def CoreQueues.place (q : CoreQueues) (room : Nat) (es : List QEntry) : CoreQueues :=
  { q with cq := q.cq ++ es.take room, unplaced := es.drop room }

/-- The sequencer of a core has a repetition to place in this cycle: there is room, and neither the stall wire nor a raised trap holds it (R69,
R78, R348). -/
def Core.places (c : Core) (now : Nat) : Bool :=
  !c.queues.unplaced.isEmpty && decide (c.seq.ready ≤ now) && !c.seq.wired && c.seq.trap.isNone && decide (c.cqHeld < Config.cqDepth)

/-- The next repetition enters the CQ, which takes the sequencer a cycle (R78, R85, R94). -/
def Core.placeNext (c : Core) (now : Nat) : Core :=
  { c with queues := c.queues.place 1 c.queues.unplaced, seq := { c.seq with ready := now + 1 } }

/-- X has completed (R78, R79, R143): its window closes, its slots are released or published, its tokens pushed. -/
def State.retireWide (s : State) (w : Window) : State :=
  let c := s.core
  let c := w.effects.foldl Core.slotDue c
  let (c, sp, sn) := c.pushCq w.op.sp w.op.sn
  let c := { c with queues := { c.queues with
    windows := c.queues.windows.filter (·.serial != w.serial)
    cq := if sp || sn then behindPushing { w.entry with state := .pushing sp sn } c.queues.cq else c.queues.cq } }
  s.withCore (c.queueDone s.now)

/-- An issue breaks down (R185 to R187, R350): the finished columns stand, with their pushes, and the issue goes back to
the head of the CQ and traps. -/
def State.breakWide (s : State) (w : Window) (cls : Nat) : State :=
  let s := s.performWide w
  let c := w.effects.foldl Core.slotDue s.core
  let e := { w.entry with state := .begun }
  (s.withCore { c with queues := { c.queues with
    windows := c.queues.windows.filter (·.serial != w.serial), cq := e :: c.queues.cq } }).cqTrap e causeBreakdown
    (BitVec.ofNat 64 cls)

/-- WIDE_OP_COMPLETION (R89, R147, R170, R179, R186). -/
def execWideOpCompletion (core : Fin 96) (serial : Nat) (s : State) : Answer :=
  .next (s.onCore core fun s =>
    match s.core.queues.windows.find? (·.serial == serial) with
    | none => s
    | some w =>
      let broke := match w.factor with
        | some f => if f.breaks then (s.core.columnRun w.op.record).bind (·.broke) else none
        | none => none
      match broke with
      | some b => s.breakWide w b.cls
      | none => (s.performWide w).retireWide w)

end Sys2Proof.Machine
end

