-- ==== Sys2Proof/Machine/Access.lean ====
section
/-! DEFINITION. The Access Sequencer: routing of queue-class words and their execution at the head of the LQ and SQ (R74,
R78, R79, R348, R349), effective addresses, the scratchpad window and translation (R196 to R200), and reads and writes of
bytes (R205 to R212, R274, R276). -/

namespace Sys2Proof.Machine

/-! ### Routing and execution -/

/-- What one attempt of the instruction at the head of the LQ or SQ comes to. -/
inductive Attempt where
  /-- completed -/
  | done (s : State)
  /-- completed with a value for the load-return queue (R201) -/
  | deliver (s : State) (v : Word)
  /-- it cannot go on; only what the state passed on says has changed -/
  | block (s : State)
  /-- it has gone on and is not complete -/
  | wait (s : State)
  /-- it has consumed an uncorrectable error and ends without any effect (R369, R371) -/
  | dead (s : State)
  /-- a trap, precise in its queue -/
  | trap (s : State) (cause : Nat) (info : Word) (va : Option Word)
  deriving DecidableEq, Repr

/-- A queue-class word is routed (R74, R78): its operands are captured and it takes an entry of its queue. -/
def State.route (s : State) (i : Instr) (lq : Bool) (codes : List OpCode) : State :=
  let c := s.core
  let full := if lq then Config.lqDepth ≤ c.queues.lq.length else Config.sqDepth ≤ c.queues.sq.length
  if !i.wf then s.illegal i
  else if full then s.hold
  else match c.readAll s.cur.val codes with
    | .stall => s.hold
    | .illegal => s.illegal i
    | .bad inj => s.consumed inj
    | .ok vs c =>
      let e : QEntry := { instr := i, word := wordOf i, caps := vs, base := 0, spbase := c.sys.spbase, landbase := c.sys.landbase,
                          order := c.queues.order, ties := [], state := .waiting }
      let q := if lq then { c.queues with lq := c.queues.lq ++ [e], order := c.queues.order + 1 }
        else { c.queues with sq := c.queues.sq ++ [e], order := c.queues.order + 1 }
      plainWord s { c with queues := q } 1

/-- The token bits of an LQ or SQ entry, from its word: wait and signal (R19, R79). -/
def QEntry.waits (e : QEntry) (lq : Bool) : Bool := if lq then e.word.getLsbD 24 else e.word.getLsbD 25
def QEntry.signals (e : QEntry) (lq : Bool) : Bool := if lq then e.word.getLsbD 22 else e.word.getLsbD 23

/-- The queue of a side. -/
def Core.side (c : Core) (lq : Bool) : List QEntry := if lq then c.queues.lq else c.queues.sq

def Core.setSide (c : Core) (lq : Bool) (l : List QEntry) : Core :=
  if lq then { c with queues := { c.queues with lq := l } } else { c with queues := { c.queues with sq := l } }

/-- The counter that a side waits on is non-zero: CQ→LQ for the LQ, CQ→SQ for the SQ. -/
def Core.hasToken (c : Core) (lq : Bool) : Bool := if lq then c.bank.tok.cqlq != 0 else c.bank.tok.cqsq != 0

/-- Takes the token; one from the CQ carries the SQ completions it follows (R211). -/
def Core.takeToken (c : Core) (lq : Bool) : Core :=
  let t := c.bank.tok
  if lq then
    { c.setBank { c.bank with tok := { t with cqlq := t.cqlq - 1, cqlqInfo := t.cqlqInfo.drop 1 } } with
      queues := { c.queues with lqKnows := max c.queues.lqKnows (t.cqlqInfo.headD 0) } }
  else c.setBank { c.bank with tok := { t with cqsq := t.cqsq - 1 } }

/-- The counter that a side pushes stands below 15. -/
def Core.canPush (c : Core) (lq : Bool) : Bool := if lq then decide (c.bank.tok.lqcq < 15) else decide (c.bank.tok.sqcq < 15)

/-- The unit of a side. -/
def sideUnit (lq : Bool) : Actor := if lq then .lq else .sq

/-- Pushes the token of a side. -/
def Core.pushToken (c : Core) (lq : Bool) : Core :=
  let t := c.bank.tok
  c.setBank { c.bank with tok :=
    if lq then { t with lqcq := t.lqcq + 1 } else { t with sqcq := t.sqcq + 1, sqcqInfo := t.sqcqInfo ++ [c.queues.sqDone] } }

/-- What a completed LQ access has seen of the core's own stores is known to every later one (R211, R319); a piece that has been
performed and is known is forgotten. -/
def Core.settleStores (c : Core) : Core :=
  let known := max c.queues.lqKnows c.queues.lqSeen
  let c := { c with queues := { c.queues with lqKnows := known } }
  if c.caches.stores.isEmpty then c
  else { c with caches := { c.caches with stores := c.caches.stores.filter fun w => !w.home || decide (known < w.store) } }

/-- The instruction at the head of a side has completed: it leaves its queue once its push is done (R78, R79). -/
def State.complete (s : State) (lq : Bool) (e : QEntry) : State :=
  let c := s.core.queueDone s.now
  let c := (if lq then c else { c with queues := { c.queues with sqDone := c.queues.sqDone + 1 } }).settleStores.dropFaults (sideUnit lq)
  if e.signals lq then
    (if c.canPush lq then s.withCore ((c.setSide lq ((c.side lq).drop 1)).pushToken lq)
     else s.withCore (c.setSide lq ({ e with state := .pushing (!lq) lq } :: (c.side lq).drop 1)))
  else s.withCore (c.setSide lq ((c.side lq).drop 1))

/-- A trap of the instruction at the head of a side: it stays in its queue, unexecuted (R348, R349); in a phase that is
being cancelled it is discarded (R375). -/
def State.engineTrap (s : State) (lq : Bool) (e : QEntry) (cause : Nat) (info : Word) (va : Option Word) : State :=
  let c := s.core
  match c.phase with
  | some r =>
    if r.cancelled then s.withCore ((c.setSide lq ((c.side lq).drop 1)).dropFaults (sideUnit lq))
    else (s.withCore (c.setSide lq ({ e with state := .stopped true } :: (c.side lq).drop 1))).raiseQueue
      { src := if lq then 1 else 3, cause := cause, info := info, va := va, pc := none, flow := none, order := e.order, cycle := s.now }
  | none => (s.withCore (c.setSide lq ({ e with state := .stopped true } :: (c.side lq).drop 1))).raiseQueue
      { src := if lq then 1 else 3, cause := cause, info := info, va := va, pc := none, flow := none, order := e.order, cycle := s.now }

/-- What an attempt leaves; `first` says that the instruction has just started, which is a change of its own. -/
def Attempt.settle (a : Attempt) (first lq : Bool) (e : QEntry) : State :=
  match a with
  | .done s => (s.complete lq e).settleOwed s.cur.val (sideUnit lq)
  | .deliver s v =>
    ((s.withCore (s.core.pushLoad v)).complete lq e).settleOwed s.cur.val (sideUnit lq)
  | .block s => if first then s else s.hold
  | .wait s => s
  | .dead s => (s.withCore (s.core.setSide lq ((s.core.side lq).filter fun x => x.order != e.order))).settleOwed s.cur.val (sideUnit lq)
  | .trap s cause info va => (s.engineTrap lq e cause info va).settleOwed s.cur.val (sideUnit lq)

/-! ### Effective addresses (R196 to R198) -/

/-- An address register. -/
def Core.areg (c : Core) (a : BitVec 4) : Word := c.aregs[a.toNat]

def Core.setAreg (c : Core) (a : BitVec 4) (v : Word) : Core := { c with aregs := c.aregs.set a.toNat v }

/-- The scratchpad byte an address names through the window of an entry (R198). -/
def QEntry.window (e : QEntry) (va : Word) : Option Nat :=
  if e.spbase.getLsbD 0 then
    let off := (va - (BitVec.ofNat 34 (bitsAt e.spbase 23 34)).signExtend 64 * 0x800000#64).toNat
    if off < 2 ^ 23 then some off else none
  else none

/-- The effective address of a scaled displacement (R205, R208). -/
def Core.ea (c : Core) (a : BitVec 4) (index : Word) (imm : BitVec 8) (scale : Nat) : Word :=
  c.areg a + index + sextN 8 imm * BitVec.ofNat 64 scale

/-- The address register an SQ word names (R208 to R210, R297). -/
def storeBase (i : Instr) : BitVec 4 :=
  match i with
  | .stB _ _ a _ _ | .stH _ _ a _ _ | .stW _ _ a _ _ | .stD _ _ a _ _ | .stxW _ _ a _ _ | .stxD _ _ a _ _ => a
  | .relD _ _ a _ _ => a
  | .sv _ _ _ _ _ _ a => a
  | .rowcopy _ _ a _ | .rowfill _ _ a _ | .rowand _ _ a _ | .rowor _ _ a _ | .rowxor _ _ a _ | .rownot _ _ a _
  | .rowmaj _ _ a _ => a
  | _ => 0

/-- The address of an SQ entry: the register as it stood when the instruction started, and a scaled displacement (R196). -/
def QEntry.ea (e : QEntry) (imm : BitVec 8) (scale : Nat) : Word := e.base + sextN 8 imm * BitVec.ofNat 64 scale

/-! ### The request table (R202) -/

/-- The image handle of the running item (R32). -/
def Core.handle (c : Core) : Word := match c.item with
  | some it => it.image
  | none => 0

/-- The registers of a block, as bytes. -/
def blockBytes (h1 w1 : BitVec 3) : Nat := 4096 * ((h1.toNat + 1) * (w1.toNat + 1))

/-- The bytes that an LQ or SQ instruction accesses as it starts, `base` being the value of its address register for a store;
a row of an `mld`. -/
def Core.span (c : Core) (e : QEntry) (base : Word) : Word × Nat :=
  let x := arg0 e.caps
  let at_ (imm : BitVec 8) (n : Nat) : Word × Nat := (base + sextN 8 imm * BitVec.ofNat 64 n, n)
  match e.instr with
  | .ldB _ _ a _ k | .ldBu _ _ a _ k => (c.ea a x k 1, 1)
  | .ldH _ _ a _ k | .ldHu _ _ a _ k => (c.ea a x k 2, 2)
  | .ldW _ _ a _ k | .ldWu _ _ a _ k | .ldroW _ _ a _ k | .ldxW _ _ a _ k => (c.ea a x k 4, 4)
  | .ldD _ _ a _ k | .ldroD _ _ a _ k | .ldxD _ _ a _ k => (c.ea a x k 8, 8)
  | .acq _ _ a _ _ => (c.areg a + x, 8)
  | .pf _ _ a _ _ => (c.areg a + x, 1)
  | .lv _ _ _ _ h1 w1 a => (c.areg a, blockBytes h1 w1)
  | .mld _ _ _ a _ =>
    (c.areg a + BitVec.ofNat 64 (bitsAt c.sys.mprog 0 16) * BitVec.signExtend 64 (BitVec.truncate 32 x), bitsAt x 48 16)
  | .pset _ _ a _ k => (c.ea a 0 k 64, 64)
  | .cbset _ _ a _ k => (c.ea a 0 k 16, 16)
  | .bind _ _ a _ k => (c.ea a 0 k 32, 32)
  | .tdef _ _ n count => (c.handle + BitVec.ofNat 64 (((c.image.map (·.tmoff)).getD 0) + 32 * n.toNat), 32 * count.toNat)
  | .amoAdd _ _ a _ _ _ _ _ _ | .amoAnd _ _ a _ _ _ _ _ _ | .amoOr _ _ a _ _ _ _ _ _ | .amoXor _ _ a _ _ _ _ _ _
  | .amoMin _ _ a _ _ _ _ _ _ | .amoMax _ _ a _ _ _ _ _ _ | .amoMinu _ _ a _ _ _ _ _ _ | .amoMaxu _ _ a _ _ _ _ _ _
  | .amoSwap _ _ a _ _ _ _ _ _ | .cas _ _ a _ _ _ => (c.areg a, 1)
  | .amoFadd _ _ a _ _ _ _ _ | .amoFmin _ _ a _ _ _ _ _ | .amoFmax _ _ a _ _ _ _ _ => (c.areg a, 1)
  | .stB _ _ _ _ k => at_ k 1
  | .stH _ _ _ _ k => at_ k 2
  | .stW _ _ _ _ k | .stxW _ _ _ _ k => at_ k 4
  | .stD _ _ _ _ k | .stxD _ _ _ _ k => at_ k 8
  | .relD _ _ _ _ _ => (base, 8)
  | .sv _ _ _ _ h1 w1 _ => (base, blockBytes h1 w1)
  | _ => (0, 0)

/-- The aligned 1 KiB blocks outside the window that `n` bytes touch: one entry of the request table each. -/
def QEntry.blocks (e : QEntry) (va : Word) (n : Nat) : Nat :=
  if n = 0 then 0
  else ((List.range ((va.toNat % 1024 + n + 1023) / 1024)).filter fun k =>
    (e.window (va - BitVec.ofNat 64 (va.toNat % 1024) + BitVec.ofNat 64 (1024 * k))).isNone).length

/-- The window through which an instruction's addresses go: `tdef` reads the image whatever SPBASE says (R215). -/
def QEntry.windowed (e : QEntry) : QEntry :=
  match e.instr with
  | .tdef .. => { e with spbase := 0 }
  | _ => e

/-- The entries an instruction takes as it starts. -/
def Core.entriesFor (c : Core) (e : QEntry) (base : Word) : Nat := e.windowed.blocks (c.span e base).1 (c.span e base).2

/-- The entries an instruction at the head of a queue holds: all of them from its start on. -/
def Core.headEntries (c : Core) (q : List QEntry) : Nat :=
  match q with
  | e :: _ => if e.state = .begun then c.entriesFor e e.base else 0
  | [] => 0

/-- The entries in use: the accesses in execution, and completed stores that have not been acknowledged. -/
def Core.entriesHeld (c : Core) : Nat :=
  c.headEntries c.queues.lq + c.headEntries c.queues.sq +
    (if c.caches.stores.isEmpty then 0
     else (((c.caches.stores.filter fun w => !w.home).map fun w => (w.store, w.pa / 1024)).eraseDups).length)

/-- All entries that an instruction needs are free. -/
def Core.tableRoom (c : Core) (e : QEntry) (base : Word) : Bool := decide (c.entriesHeld + c.entriesFor e base ≤ 8192)

/-! ### The head of a queue -/

/-- ILLEGAL found by the queue's own check: TRAPINFO [33:32] is 0b11 (R347). -/
def QEntry.refused (s : State) (e : QEntry) : Attempt := .trap s causeIllegal (illegalInfo e.word 3) none

/-- A word that a protected phase does not allow (R374). -/
def Core.phaseForbids (c : Core) : Bool := c.phase.isSome && !c.tl

/-- An entry that starts waits for a token, unless it has taken it before a trap set it aside. -/
def QEntry.lacks (e : QEntry) (lq : Bool) : Bool := e.waits lq && e.state == .waiting

/-- The instruction at the head of a side is tried. It starts once its token is there, a place in the load-return queue
where it delivers, its engine and the entries of the request table it needs are free, and the stall wire is not asserted (R69,
R78, R79, R201, R202); an error in its entry is consumed then (R369). A word that an open phase does not allow is refused each time it is tried (R374). -/
def State.engine (s : State) (lq delivers forbidden : Bool) (run : State → QEntry → Attempt) : State :=
  let c := s.core
  match c.side lq with
  | [] => s.hold
  | e :: rest =>
    match e.state with
    | .begun => if forbidden && c.phaseForbids then (QEntry.refused s e).settle false lq e else (run s e).settle false lq e
    | .waiting | .again =>
      let base := c.areg (storeBase e.instr)
      if (e.lacks lq && !c.hasToken lq) || s.wireHolds || !c.tableRoom e base || (delivers && decide (64 ≤ c.bank.loads.length)) ||
          decide (s.now < (if lq then c.units.lqNext else c.units.sqNext)) then s.hold
      else
        let c := if e.lacks lq then c.takeToken lq else c
        let c := { c with units := if lq then { c.units with lqNext := s.now + 1 } else { c.units with sqNext := s.now + 1 } }
        let e' := { e with state := .begun, base := base, ties := c.bindings }
        let s' := s.withCore (c.setSide lq (e' :: rest))
        if (c.damageIn partQueue e.order 1).isSome then (Attempt.dead (s'.consumed ((c.damageIn partQueue e.order 1).getD false))).settle true lq e'
        else if forbidden && c.phaseForbids then (QEntry.refused s' e').settle true lq e'
        else (run s' e').settle true lq e'
    | _ => s.hold

/-- A word of the LQ or SQ: the sequencer routes it, its engine executes it. -/
def queueWord (i : Instr) (lq : Bool) (codes : List OpCode) (delivers forbidden : Bool) (run : State → QEntry → Attempt)
    (s : State) : Answer :=
  .next (match s.actor with
    | .seq => s.route i lq codes
    | _ => s.engine lq delivers forbidden run)

/-- A word that early service does not have: there it traps ILLEGAL at the sequencer (R297, R397). -/
def fullWord (i : Instr) (lq : Bool) (codes : List OpCode) (delivers forbidden : Bool) (run : State → QEntry → Attempt)
    (s : State) : Answer :=
  if s.actor = .seq ∧ s.mgmt.stage ≠ .stage2 then .next (s.illegal i) else queueWord i lq codes delivers forbidden run s

/-- What a byte address stands for, once it is translated. -/
inductive Target where
  | sp (off : Nat)
  | line (pa : Nat)
  | zero
  | heat (pa : Nat)
  | reg (off : Nat)
  | local_ (off : Nat)
  deriving DecidableEq, Repr

/-- A run of bytes inside one line, with the leaf entry that translated it. -/
structure Seg where
  va : Word
  len : Nat
  target : Target
  owner : Tag
  leaf : Option XlatEntry
  deriving DecidableEq, Repr

/-- The target of a physical address. -/
def MemorySystem.target (m : MemorySystem) (pa : Nat) : Target :=
  match m.region pa with
  | .zero => .zero
  | .heat => .heat pa
  | .regs => .reg (pa - 0x00F0_0800_0000)
  | .localPage => .local_ (pa % 65536)
  | _ => .line pa

/-- Why an access does not go on. -/
inductive Stop where
  | block (s : State)
  | trap (s : State) (code : Nat) (va : Word)
  deriving DecidableEq, Repr

/-- The runs of `n` bytes from an address, cut at lines. -/
def cuts (va : Word) : Nat → Nat → List (Word × Nat)
  | 0, _ => []
  | fuel + 1, n =>
    if n = 0 then []
    else
      let k := min n (64 - va.toNat % 64)
      (va, k) :: cuts (va + BitVec.ofNat 64 k) fuel (n - k)

/-- The root an item's translations start from. -/
def Core.root (c : Core) : Nat := match c.item with
  | some it => it.root
  | none => 0

/-- A fault waits for its service, unless that ended with a declined fault (R354, R356). -/
def State.faultStop (s : State) (ev : Instr) (va : Word) : Stop :=
  match s.core.faultFor s.actor ev with
  | some f => if f.declined then .trap (s.withCore (s.core.dropFaults s.actor)) 0 va else .block s
  | none => .block (s.await ev)

/-- Translates the runs of an access in order (R197 to R199): the first that does not translate decides. `exact` says that
the access is an aligned 8-byte load or store, which alone reaches an engine (R231) and, as `ld.d` or `st.d`, a register (R274). -/
def State.mapRuns (s : State) (e : QEntry) (tag : Tag) (k : Kind) (exact : Bool) :
    List (Word × Nat) → Except Stop (List Seg)
  | [] => .ok []
  | (va, n) :: rest =>
    match e.window va with
    | some off => (s.mapRuns e tag k exact rest).map ({ va := va, len := n, target := .sp off, owner := 0, leaf := none } :: ·)
    | none =>
      if !canonical va then .error (.trap s 2 va)
      else match s.translate s.cur.val s.core.root va tag k with
        | .trap code => .error (.trap s code va)
        | .light ev => .error (s.faultStop ev va)
        | .stall => .error (.block s)
        | .pa a x =>
          let seg : Seg := { va := va, len := n, target := s.mem.target a, owner := s.tags.ownerOf a, leaf := some x }
          match seg.target, exact && (k == .read || k == .write), exact with
          | .reg _, false, _ => .error (.trap s 1 va)
          | .local_ _, _, false => .error (.trap s 1 va)
          | _, _, _ => (s.mapRuns e tag k exact rest).map (seg :: ·)

/-- The translated runs of `n` bytes from an address. -/
def State.mapAccess (s : State) (e : QEntry) (ea : Word) (n : Nat) (tag : Tag) (k : Kind) (exact : Bool) :
    Except Stop (List Seg) :=
  s.mapRuns e tag k exact (cuts ea (n / 64 + 2) n)

/-- The TLB takes the leaf entries of an access that it does not hold: a walk cache answered for them (R285). -/
def State.learn (s : State) (segs : List Seg) : State :=
  segs.foldl (fun s g => match g.leaf with
    | some x => if s.core.caches.tlb.contains x then s
      else s.withCore { s.core with caches := { s.core.caches with tlb := x :: s.core.caches.tlb } }
    | none => s) s

/-- An access to tagged pages that has been translated and waits for its data goes through (R269). -/
def State.oweSegs (s : State) (tag : Tag) (k : Kind) (segs : List Seg) : State :=
  if tag = 0 then s
  else segs.foldl (fun s g => match g.leaf with
    | some x => if pteT x.pte then s.owe s.actor (faultOf s.cur.val s.core.root g.va tag k) else s
    | none => s) s

/-- A stop as the outcome of an attempt: XLATE with its code (R197). -/
def Stop.attempt : Stop → Attempt
  | .block s => .block s
  | .trap s code va => .trap s causeXlate (BitVec.ofNat 64 code) (some va)

/-! ### Stores on their way to the home slices (R208, R211, R212, R309 to R312) -/

/-- The 16-byte granules of a run of bytes, each with its physical address (R311). -/
def granules : Nat → Nat → List Byte → List (Nat × List Byte)
  | 0, _, _ => []
  | fuel + 1, pa, bs =>
    if bs.isEmpty then []
    else
      let k := min bs.length (16 - pa % 16)
      (pa, bs.take k) :: granules fuel (pa + k) (bs.drop k)

/-- Bytes from `pa` on, with a piece laid over them. -/
def layOver (pa : Nat) (bs : List Byte) (w : StorePiece) : List Byte :=
  (bs.zipIdx pa).map fun x => if w.pa ≤ x.2 ∧ x.2 < w.pa + w.data.length then w.data.getD (x.2 - w.pa) 0 else x.1

/-- Where a store into the scratchpad stands among the core's stores. -/
def spPlace (off : Nat) : Nat := 2 ^ 60 + off

/-- The piece touches `n` bytes from `pa` on. -/
def StorePiece.meets (w : StorePiece) (pa n : Nat) : Bool := decide (w.pa < pa + n ∧ pa < w.pa + w.data.length)

/-- The core's completed stores of some bytes, oldest first. -/
def Core.ownStores (c : Core) (pa n : Nat) : List StorePiece :=
  if c.caches.stores.isEmpty then [] else c.caches.stores.filter fun w => w.meets pa n

/-- Bytes as the home slice holds them, with every completed store of the core merged in (R310). -/
def Core.merged (c : Core) (pa : Nat) (bs : List Byte) : List Byte :=
  ((c.ownStores pa bs.length).filter fun w => !w.home).foldl (layOver pa) bs

/-- An LQ access has seen the core's stores up to number `n`. -/
def State.sees (s : State) (n : Nat) : State :=
  if n ≤ s.core.queues.lqSeen then s
  else s.withCore { s.core with queues := { s.core.queues with lqSeen := n } }

/-- The newest of some stores. -/
def newest (l : List StorePiece) (n : Nat) : Nat := l.foldl (fun n w => max n w.store) n

/-- A piece read at the home slice: the core's stores that are ordered before the load are seen, and of the others a prefix, which is
a free choice for each piece (R211, R212). -/
def State.forwardPiece (s : State) (pa : Nat) (bs : List Byte) : List Byte × State :=
  let c := s.core
  let here := c.ownStores pa bs.length
  if here.isEmpty then (bs, s)
  else
    let open_ := ((here.filter fun w => !w.home && decide (c.queues.lqKnows < w.store)).map (·.store)).eraseDups
    let (k, s) := s.pickBelow (open_.length + 1)
    let upto := if k = 0 then c.queues.lqKnows else open_.getD (k - 1) 0
    ((here.filter fun w => !w.home && decide (w.store ≤ upto)).foldl (layOver pa) bs, s.sees (newest (here.filter (·.home)) upto))

/-- A run read at the home slice, piece by piece. -/
def State.forwardRun (s : State) (pa : Nat) (bs : List Byte) : List Byte × State :=
  if s.core.caches.stores.isEmpty then (bs, s)
  else (granules (bs.length / 16 + 2) pa bs).foldl (fun (a : List Byte × State) g =>
    let r := a.2.forwardPiece g.1 g.2
    (a.1 ++ r.1, r.2)) ([], s)

/-- A piece is performed at its home slice (R278, R309). -/
def State.performPiece (s : State) (i : Fin 96) (w : StorePiece) : State :=
  let s := s.writeHome (w.pa / 64) (w.pa % 64) w.data (dieOf i.val) w.owner
  let c := s.cores[i]
  { s with cores := s.cores.set i { c with caches := { c.caches with stores := c.caches.stores.map fun v =>
      if v = w then { v with home := true } else v } } }

/-- The bytes of a whole line that pieces make up, where they do. -/
def wholeLine (key : Nat) (l : List (Nat × List Byte)) : Option (List Byte) :=
  let mine := l.filter fun x => x.1 / 64 == key
  if (mine.map fun x => x.2.length).sum = 64 then
    some ((List.range 64).map fun k => match mine.find? fun x => decide (x.1 % 64 ≤ k ∧ k < x.1 % 64 + x.2.length) with
      | some x => x.2.getD (k - x.1 % 64) 0
      | none => 0)
  else none

/-- A piece arrives. Where the line holds an error and the store writes the whole line, the line is written as a whole, which removes
the error (R368). -/
def State.arrive (s : State) (i : Fin 96) (w : StorePiece) : State :=
  if s.mem.marks.isEmpty then s.performPiece i w
  else
    let c := s.cores[i]
    let mate (v : StorePiece) : Bool := !v.home && v.store == w.store && v.pa / 64 == w.pa / 64
    if !c.caches.stores.contains w then s
    else match wholeLine (w.pa / 64) ((c.caches.stores.filter mate).map fun v => (v.pa, v.data)) with
      | none => s.performPiece i w
      | some bs =>
        let s := s.writeHome (w.pa / 64) 0 bs (dieOf i.val) w.owner
        let c := s.cores[i]
        let stores := c.caches.stores.map fun v => if mate v then { v with home := true } else v
        { s with cores := s.cores.set i { c with caches := { c.caches with stores := stores } } }

/-- Stores of a core that a test names are performed, and with each of them those that precede it to its line (R322). -/
def State.performStores (s : State) (i : Fin 96) (hit : StorePiece → Bool) : State :=
  let all := ((s.cores[i]).caches.stores).filter fun w => !w.home
  if all.isEmpty then s
  else (all.filter fun w => hit w || all.any fun v => hit v && v.pa / 64 == w.pa / 64 && decide (w.store < v.store)).foldl
    (fun s w => s.arrive i w) s

/-- Every completed store of a core is performed at DEVICE scope. -/
def State.performAll (s : State) (i : Fin 96) : State := s.performStores i fun _ => true

/-- Every completed store of every core is performed: what has been translated goes before translations change. -/
def State.performEvery (s : State) : State := (List.finRange 96).foldl (fun s i => s.performAll i) s

/-- Time lets stores arrive: each that none precedes on the way to its line may be performed, as a free choice (log entry 38). One whose line
would have to come from memory that takes no access stays on its way (R293, R397). -/
def State.arrivals (s : State) (i : Fin 96) : State :=
  ((s.cores[i]).caches.stores).foldl (fun s w =>
    if w.home || ((s.cores[i]).caches.stores.any fun v => !v.home && v.pa / 64 == w.pa / 64 && decide (v.store < w.store)) then s
    else
      let r := s.choose true false
      let t := if r.1 then r.2.arrive i w else r.2
      if t.blocked then r.2 else t) s

/-- An access at the home slice follows the core's stores to its bytes that are ordered before it (R211), and sees those that have
been performed. -/
def State.orderHome (s : State) (pa n : Nat) : State :=
  if s.core.caches.stores.isEmpty then s
  else
    let s := s.performStores s.cur fun w => w.meets pa n && decide (w.store ≤ s.core.queues.lqKnows)
    s.sees (newest ((s.core.ownStores pa n).filter (·.home)) 0)

/-! ### Reading bytes (R205, R276, R277) -/

/-- The sectors of a line that a run touches, by number (address ÷ 32). -/
def sectorsOf (pa n : Nat) : List Nat :=
  (List.range ((pa + n - 1) / 32 - pa / 32 + 1)).map (pa / 32 + ·)

def Core.l1At (c : Core) (key : Nat) : Option Sector := c.caches.l1.find? (·.key == key)
def Core.roAt (c : Core) (key : Nat) : Option RoLine := c.caches.ro.find? (·.key == key)

/-- A read of the run needs no line from behind the L2. -/
def State.ready (s : State) (ro : Bool) (seg : Seg) : Bool :=
  match seg.target with
  | .line pa =>
    (s.mem.l2At (pa / 64)).isSome ||
      (if ro then (s.core.roAt (pa / 64)).isSome else (sectorsOf pa seg.len).all fun k => (s.core.l1At k).isSome)
  | _ => true

/-- The lines that are missing are asked for (R281, R282). -/
def State.askMissing (s : State) (ro : Bool) (segs : List Seg) : State :=
  segs.foldl (fun s seg => if s.ready ro seg then s else
    match seg.target with
    | .line pa => s.askLine s.cur.val (pa / 64)
    | _ => s) s

/-- What a read of bytes comes to: bytes, an error consumed from memory, or one from the core's own scratchpad. -/
inductive ReadOut where
  | bytes (bs : List Byte) (s : State)
  | bad (line : Nat) (place : ErrorPlace) (injected : Bool) (s : State)
  | own (injected : Bool) (s : State)
  deriving DecidableEq, Repr

/-- A sector of a line. -/
def sectorData (x : BitVec 512) (key : Nat) : BitVec 256 := BitVec.ofNat 256 (x.toNat >>> (256 * (key % 2)))

/-- L1 and RO lines that a core holds: 512 KiB and 256 KiB of 64 bytes (R7). -/
def l1Lines : Nat := 8192
def roLines : Nat := 4096

/-- The lines of some sectors, which stand by rising number, each once. -/
def linesOf : List Sector → List Nat
  | [] => []
  | x :: rest => match linesOf rest with
    | k :: ks => if x.key / 2 = k then k :: ks else x.key / 2 :: k :: ks
    | [] => [x.key / 2]

/-- The L1 takes a sector that it does not hold; when its lines are all in use another line goes, and which one is not promised. -/
def State.fillSector (s : State) (x : Sector) : State :=
  let l := s.core.caches.l1
  if l.any (·.key == x.key) then s
  else
    let lines := linesOf l
    let (gone, s) := if lines.contains (x.key / 2) || decide (lines.length < l1Lines) then (none, s)
      else
        let r := s.pickBelow lines.length
        (lines[r.1]?, r.2)
    s.withCore { s.core with caches := { s.core.caches with l1 := upsert (·.key) x (l.filter fun y => some (y.key / 2) != gone) } }

/-- The L1 fills the sectors of a line that it does not hold, with the core's completed stores merged in (R276, R310). -/
def State.fillL1 (s : State) (line : Nat) (x : BitVec 512) : State :=
  [2 * line, 2 * line + 1].foldl (fun s k =>
    s.fillSector { key := k, data := BitVec.ofNat 256 (leNat (s.core.merged (32 * k) (vecBytes (sectorData x k)))) }) s

/-- The RO cache takes a line; when it is full another one goes. -/
def State.fillRo (s : State) (x : RoLine) : State :=
  let l := s.core.caches.ro.filter (·.key != x.key)
  let (i, s) := if l.length < roLines then (l.length, s) else s.pickBelow l.length
  s.withCore { s.core with caches := { s.core.caches with ro := upsert (·.key) x (l.eraseIdx i) } }

/-- Sectors of a line that the L1 holds with other bytes than the home slice may have been replaced, as a free choice. -/
def State.replaceL1 (s : State) (keys : List Nat) : State :=
  keys.foldl (fun s k =>
    match s.core.l1At k, s.mem.l2At (k / 2) with
    | some x, some l =>
      let r := s.choose x.data (BitVec.ofNat 256 (leNat (s.core.merged (32 * k) (vecBytes (sectorData l.data k)))))
      if r.1 = x.data then r.2
      else r.2.withCore { r.2.core with caches := { r.2.core.caches with l1 := r.2.core.caches.l1.filter (·.key != k) } }
    | _, _ => s) s

/-- The bytes of one sector: as the L1 holds it, which includes every completed store of the core, or from the line that its home
slice has sent. -/
def State.sectorBytes (s : State) (k : Nat) (x : BitVec 512) (lo hi : Nat) : List Byte × State :=
  match s.core.l1At k with
  | some v => (((vecBytes v.data).take hi).drop lo, s.sees (newest (s.core.ownStores (32 * k + lo) (hi - lo)) 0))
  | none => s.forwardRun (32 * k + lo) (((vecBytes (sectorData x k)).take hi).drop lo)

/-- The bytes of a run, sector by sector. -/
def State.sectorRun (s : State) (pa n : Nat) (x : BitVec 512) : List Byte × State :=
  (sectorsOf pa n).foldl (fun (a : List Byte × State) k =>
    let r := a.2.sectorBytes k x (max pa (32 * k) - 32 * k) (min (pa + n) (32 * k + 32) - 32 * k)
    (a.1 ++ r.1, r.2)) ([], s)

/-- The bytes of a run of one line on the data path (R205, R276). -/
def State.readData (s : State) (pa n : Nat) (owner : Tag) : ReadOut :=
  let s := s.replaceL1 (sectorsOf pa n)
  if (sectorsOf pa n).all fun k => (s.core.l1At k).isSome then
    let r := s.sectorRun pa n 0
    .bytes r.1 r.2
  else match s.readHome (pa / 64) (dieOf s.cur.val) owner with
    | (s, .bad p inj) => .bad (pa / 64) p inj s
    | (s, .data x) =>
      let r := s.sectorRun pa n x
      .bytes r.1 (r.2.fillL1 (pa / 64) x)

/-- The bytes of a run of one line through the RO cache (R206): a line it holds may be older than memory, and may have been
replaced. -/
def State.readRo (s : State) (pa n : Nat) (owner : Tag) : ReadOut :=
  let line := pa / 64
  let kept := match s.core.roAt line, s.mem.l2At line with
    | some x, some l => s.choose (some x) (if x.data = l.data then some x else none)
    | o, _ => (o, s)
  match kept with
  | (some x, s) => .bytes (lineBytes x.data (pa % 64) n) s
  | (none, s) => match s.readHome line (dieOf s.cur.val) owner with
    | (s, .bad p inj) => .bad line p inj s
    | (s, .data x) => .bytes (lineBytes x (pa % 64) n) (s.fillRo { key := line, data := x })

/-- The page whose heat a byte of the heat window shows (R291). -/
def MemorySystem.heatByte (m : MemorySystem) (pa : Nat) : Byte :=
  let o := pa - 0x00F0_0000_0000
  if o < 0x0060_0000 then peek m.heat o
  else if o < 0x0100_0000 then 0
  else
    let p := o / 0x0100_0000 - 1
    let page := o % 0x0100_0000
    if p < 4 && decide (page * 65536 < m.boardCap.toList.getD p 0) then
      peek m.heat ((0x0100_0000_0000 + p * 2 ^ 40) / 65536 + page)
    else 0

/-- The bytes of one run. -/
def State.readSeg (s : State) (ro : Bool) (seg : Seg) : ReadOut :=
  match seg.target with
  | .sp off =>
    (match s.inspectLocal placeSp off seg.len with
     | (s, some inj) => .own inj s
     | (s, none) => .bytes (s.core.spBytes off seg.len) (s.sees (newest (s.core.ownStores (spPlace off) seg.len) 0)))
  | .line pa => if ro then s.readRo pa seg.len seg.owner else s.readData pa seg.len seg.owner
  | .heat pa => .bytes ((List.range seg.len).map fun i => s.mem.heatByte (pa + i)) s
  | _ => .bytes (zeroBytes seg.len) s

/-- The bytes of an access, run by run. -/
def State.readSegs (s : State) (ro : Bool) : List Seg → ReadOut
  | [] => .bytes [] s
  | seg :: rest =>
    match s.readSeg ro seg with
    | .bytes bs s => (match s.readSegs ro rest with
      | .bytes more s => .bytes (bs ++ more) s
      | r => r)
    | r => r

/-- An error that an access of the core consumes (R369, R371): it delivers nothing; the owner's handling, or that of the
core's own arrays, follows. -/
def State.consumeLine (s : State) (line : Nat) (place : ErrorPlace) (injected : Bool) : State :=
  s.post (.ownerHandling { place := place, line := line, consumer := .item s.cur s.core.sys.ctx, injected := injected })

/-- Reads the bytes of an access and goes on with them. -/
def State.withBytes (s : State) (ro : Bool) (segs : List Seg) (f : State → List Byte → Attempt) : Attempt :=
  match s.readSegs ro segs with
  | .bytes bs s => f s bs
  | .bad line p inj s => .dead (s.consumeLine line p inj)
  | .own inj s => .dead (s.consumed inj)

/-- The line of a run has come while others of its load are still awaited: the L1 fills what it does not hold of it (R276), so that the load
finds it there even if the home slice has to give the line up meanwhile. A line that holds an error is left to the load itself. -/
def State.keepLine (s : State) (seg : Seg) : State :=
  match seg.target with
  | .line pa =>
    if (s.mem.l2At (pa / 64)).isNone || (sectorsOf pa seg.len).all (fun k => (s.core.l1At k).isSome) then s
    else match s.readHome (pa / 64) (dieOf s.cur.val) seg.owner with
      | (t, .data x) => t.fillL1 (pa / 64) x
      | (_, .bad ..) => s
  | _ => s

/-- Translates, reads and goes on: a load of `n` bytes. -/
def State.load (s : State) (e : QEntry) (ea : Word) (n : Nat) (tag : Tag) (k : Kind) (exact : Bool)
    (f : State → List Seg → List Byte → Attempt) : Attempt :=
  match s.mapAccess e ea n tag k exact with
  | .error r => r.attempt
  | .ok segs =>
    let s := s.learn segs
    if segs.all (s.ready (k == .ro)) then s.withBytes (k == .ro) segs fun s bs => f s segs bs
    else .block (((if k == .ro then s else segs.foldl State.keepLine s).askMissing (k == .ro) segs).oweSegs tag k segs)

/-! ### Writing bytes (R208, R276 to R278) -/

/-- The L1's present sectors take a store of this core. -/
def Core.patchL1 (c : Core) (pa : Nat) (bs : List Byte) : Core :=
  if c.caches.l1.isEmpty then c
  else
    let fix (x : Sector) : Sector :=
      let lo := max pa (x.key * 32)
      let hi := min (pa + bs.length) (x.key * 32 + 32)
      if lo < hi then
        { x with data := putBits x.data (8 * (lo - x.key * 32)) (8 * (hi - lo)) (leNat ((bs.drop (lo - pa)).take (hi - lo))) }
      else x
    { c with caches := { c.caches with l1 := c.caches.l1.map fix } }

/-- Writes one run where it is performed. Writes to the heat window are discarded (R291). -/
def State.writeSeg (s : State) (seg : Seg) (bs : List Byte) : State :=
  match seg.target with
  | .sp off => s.spPut off bs
  | .line pa =>
    (s.withCore (s.core.patchL1 pa bs)).writeHome (pa / 64) (pa % 64) bs (dieOf s.cur.val) seg.owner
  | _ => s

/-- Writes an access, run by run. -/
def State.writeSegs (s : State) : List Seg → List Byte → State
  | [], _ => s
  | seg :: rest, bs => (s.writeSeg seg (bs.take seg.len)).writeSegs rest (bs.drop seg.len)

/-- The pieces of a store of a run, as the store in completion. -/
def Core.piecesOf (c : Core) (seg : Seg) (pa : Nat) (bs : List Byte) : List StorePiece :=
  (granules (bs.length / 16 + 2) pa bs).map fun g =>
    { store := c.queues.sqDone + 1, va := seg.va + BitVec.ofNat 64 (g.1 - pa), pa := g.1, data := g.2, owner := seg.owner, home := false }

/-- A store into the scratchpad is remembered until every later load is known to follow it (R319); one that it covers is forgotten. -/
def Core.noteSp (c : Core) (va : Word) (off : Nat) (bs : List Byte) : Core :=
  let w : StorePiece := { store := c.queues.sqDone + 1, va := va, pa := spPlace off, data := bs, owner := 0, home := true }
  { c with caches := { c.caches with stores :=
      (c.caches.stores.filter fun v => !decide (w.pa ≤ v.pa ∧ v.pa + v.data.length ≤ w.pa + bs.length)) ++ [w] } }

/-- A run is stored: performed at CORE scope, where a write of the scratchpad is performed at once, and a write of memory goes into
the L1's sectors and on its way to the home slice (R208, R309). -/
def State.storeSeg (s : State) (seg : Seg) (bs : List Byte) : State :=
  match seg.target with
  | .sp off =>
    let s := s.spPut off bs
    s.withCore (s.core.noteSp seg.va off bs)
  | .line pa =>
    let c := s.core.patchL1 pa bs
    s.withCore { c with caches := { c.caches with stores := c.caches.stores ++ c.piecesOf seg pa bs } }
  | _ => s

/-- A store, run by run. -/
def State.storeSegs (s : State) : List Seg → List Byte → State
  | [], _ => s
  | seg :: rest, bs => (s.storeSeg seg (bs.take seg.len)).storeSegs rest (bs.drop seg.len)

/-- A site that has not joined the calendar holds accesses to it (R397). -/
def State.sitesJoined (s : State) (segs : List Seg) : Bool :=
  segs.all fun seg => match seg.target with
    | .line pa => (s.sites[siteOf (lineSite (pa / 64))]).joined
    | _ => true

/-- Translates and writes: a store. -/
def State.store (s : State) (e : QEntry) (ea : Word) (bs : List Byte) (tag : Tag) (k : Kind) (exact : Bool)
    (f : State → List Seg → Attempt) : Attempt :=
  match s.mapAccess e ea bs.length tag k exact with
  | .error r => r.attempt
  | .ok segs => if s.sitesJoined segs then f (s.learn segs) segs else .block s

/-! ### Pops of completion FIFOs (R241, R242, R304) -/

def Core.channel (c : Core) (k : Nat) : Channel := lookupD { jobs := [], run := none, fifo := [], ready := 0, flt := [] } c.channels k

def Core.setChannel (c : Core) (k : Nat) (x : Channel) : Core := { c with channels := assign c.channels k x }

/-- The L1 lines of a command's destination go from the popping core's L1. -/
def Core.forgetLines (c : Core) (lines : List Nat) : Core :=
  { c with caches := { c.caches with l1 := c.caches.l1.filter fun x => !lines.contains (x.key / 2) } }

/-- A pop of a channel's FIFO: the oldest element, or 0 where it is empty. -/
def Core.popDone (c : Core) (k : Nat) : Word × Core :=
  let ch := c.channel k
  match ch.fifo with
  | [] => (0, c)
  | d :: rest => (d.word, (c.setChannel k { ch with fifo := rest }).forgetLines d.lines)

/-- A pop of the row-operation FIFO. -/
def Core.popRow (c : Core) : Word × Core :=
  match c.rowFifo with
  | [] => (0, c)
  | d :: rest => (d.word, { c with rowFifo := rest }.forgetLines d.lines)

/-- COMPLETION_POP (R242): the oldest element of the channel's FIFO goes to the load-return queue. -/
def execCompletionPop (s : State) : Answer :=
  let r := s.core.popDone s.focus.chan.val
  .next (s.withCore (r.2.pushLoad r.1))

/-- ROW_COMPLETION_POP (R304). -/
def execRowCompletionPop (s : State) : Answer :=
  let r := s.core.popRow
  .next (s.withCore (r.2.pushLoad r.1))

/-! ### Lines dropped by an acquire (R220) -/

/-- Drops L1 and RO lines that a test on their physical line names. -/
def Core.dropLines (c : Core) (gone : Nat → Bool) : Core :=
  { c with caches := { c.caches with
      l1 := c.caches.l1.filter fun x => !gone (x.key / 2), ro := c.caches.ro.filter fun x => !gone x.key } }

end Sys2Proof.Machine
end

