-- ==== Sys2Proof/Machine/AccessWords.lean ====
section
/-! DEFINITION. The words of the Access Sequencer: address registers (R203), loads (R204 to R207), stores (R208 to R210,
R266), the matrix feed (R165, R166) and the configuration group (R213 to R217). -/

namespace Sys2Proof.Machine

/-! ### Address registers (R203) -/

/-- An aop word, whose effect on its register is `f` of the register and the captured operand. -/
def aopWord (i : Instr) (a : BitVec 4) (codes : List OpCode) (f : Word → Word → Word) (s : State) : Answer :=
  queueWord i true codes false false (fun s e =>
    .done (s.withCore (s.core.setAreg a (f (s.core.areg a) (arg0 e.caps))))) s

/-- AMOV (R203). -/
def execAmov (wn sn : Bool) (a : BitVec 4) (x : OpCode) (s : State) : Answer :=
  aopWord (.amov wn sn a x) a [x] (fun _ v => v) s

/-- AADD (R203). -/
def execAadd (wn sn : Bool) (a : BitVec 4) (x : OpCode) (s : State) : Answer :=
  aopWord (.aadd wn sn a x) a [x] (fun r v => r + v) s

/-- AADDI (R203). -/
def execAaddi (wn sn : Bool) (a : BitVec 4) (imm : BitVec 14) (s : State) : Answer :=
  aopWord (.aaddi wn sn a imm) a [] (fun r _ => r + sextN 14 imm) s

/-- AGET (R203). -/
def execAget (wn sn : Bool) (a : BitVec 4) (s : State) : Answer :=
  queueWord (.aget wn sn a) true [] true false (fun s _ => .deliver s (s.core.areg a)) s

/-! ### Loads (R204, R205) -/

/-- A loaded value as its form extends it (R204). -/
def extendLoad (size : Nat) (signed : Bool) (bs : List Byte) : Word :=
  if signed then wordOfInt (signedOf (8 * size) (leNat bs)) else BitVec.ofNat 64 (leNat bs)

/-- The tag of an access kind: XTAG for `ldx` and `stx`, else CTX (R199). -/
def Core.tagFor (c : Core) (k : Kind) : Tag :=
  match k with
  | .xread | .xwrite => c.sys.xtag
  | _ => c.sys.ctx

/-- A load word that reaches memory and the scratchpad only. -/
def loadWord (i : Instr) (a : BitVec 4) (x : OpCode) (imm : BitVec 8) (size : Nat) (signed : Bool) (k : Kind) (s : State) :
    Answer :=
  queueWord i true [x] true false (fun s e =>
    s.load e (s.core.ea a (arg0 e.caps) imm size) size (s.core.tagFor k) k false fun s _ bs =>
      .deliver s (extendLoad size signed bs)) s

/-- LD_B (R205). -/
def execLdB (wn sn : Bool) (a : BitVec 4) (x : OpCode) (imm : BitVec 8) (s : State) : Answer :=
  loadWord (.ldB wn sn a x imm) a x imm 1 true .read s

/-- LD_BU (R205). -/
def execLdBu (wn sn : Bool) (a : BitVec 4) (x : OpCode) (imm : BitVec 8) (s : State) : Answer :=
  loadWord (.ldBu wn sn a x imm) a x imm 1 false .read s

/-- LD_H (R205). -/
def execLdH (wn sn : Bool) (a : BitVec 4) (x : OpCode) (imm : BitVec 8) (s : State) : Answer :=
  loadWord (.ldH wn sn a x imm) a x imm 2 true .read s

/-- LD_HU (R205). -/
def execLdHu (wn sn : Bool) (a : BitVec 4) (x : OpCode) (imm : BitVec 8) (s : State) : Answer :=
  loadWord (.ldHu wn sn a x imm) a x imm 2 false .read s

/-- LD_W (R205). -/
def execLdW (wn sn : Bool) (a : BitVec 4) (x : OpCode) (imm : BitVec 8) (s : State) : Answer :=
  loadWord (.ldW wn sn a x imm) a x imm 4 true .read s

/-- LD_WU (R205). -/
def execLdWu (wn sn : Bool) (a : BitVec 4) (x : OpCode) (imm : BitVec 8) (s : State) : Answer :=
  loadWord (.ldWu wn sn a x imm) a x imm 4 false .read s

/-- LDRO_W (R206). -/
def execLdroW (wn sn : Bool) (a : BitVec 4) (x : OpCode) (imm : BitVec 8) (s : State) : Answer :=
  loadWord (.ldroW wn sn a x imm) a x imm 4 true .ro s

/-- LDRO_D (R206). -/
def execLdroD (wn sn : Bool) (a : BitVec 4) (x : OpCode) (imm : BitVec 8) (s : State) : Answer :=
  loadWord (.ldroD wn sn a x imm) a x imm 8 false .ro s

/-- LDX_W (R266). -/
def execLdxW (wn sn : Bool) (a : BitVec 4) (x : OpCode) (imm : BitVec 8) (s : State) : Answer :=
  loadWord (.ldxW wn sn a x imm) a x imm 4 true .xread s

/-- A request of a core to the tag allocator, which answers as the cycle ends (R260). -/
def State.tagRequest (s : State) (waits : Bool) : Attempt :=
  match s.takeGrant with
  | some (t, s) => .deliver s (t.zeroExtend 64)
  | none => if s.tags.asks s.cur.val then .block s else .wait (s.askTag s.cur.val waits)

/-- An aligned 8-byte load of a register (R274); a read of TAGNEW allocates as `tagnew.nb` does (R261), and before full service obtains 0
(R397). -/
def State.loadReg (s : State) (off : Nat) : Attempt :=
  if off = 0x20000 then (if s.mgmt.stage = .stage2 then s.tagRequest false else .deliver s 0) else .deliver s (s.regRead off)

/-- An aligned 8-byte load in the local-engine page (R231, R241, R303). -/
def State.loadLocal (s : State) (off : Nat) (va : Word) : Attempt :=
  if 0x800 ≤ off ∧ off < 0x880 then
    .deliver (s.withCore (s.core.popDone ((off - 0x800) / 8)).2) (s.core.popDone ((off - 0x800) / 8)).1
  else if off = 0x1000 then .deliver (s.withCore s.core.popRow.2) s.core.popRow.1
  else .trap s causeXlate 1 (some va)

/-- A load of 8 bytes: an aligned one also reaches the engines of the core, and as a plain load the registers (R231, R274). -/
def loadDouble (i : Instr) (a : BitVec 4) (x : OpCode) (imm : BitVec 8) (k : Kind) (s : State) : Answer :=
  queueWord i true [x] true false (fun s e =>
    let ea := s.core.ea a (arg0 e.caps) imm 8
    s.load e ea 8 (s.core.tagFor k) k (ea.toNat % 8 == 0) fun s segs bs =>
      match segs with
      | [g] => (match g.target with
        | .reg off => s.loadReg off
        | .local_ off => s.loadLocal off ea
        | _ => .deliver s (BitVec.ofNat 64 (leNat bs)))
      | _ => .deliver s (BitVec.ofNat 64 (leNat bs))) s

/-- LD_D (R205). -/
def execLdD (wn sn : Bool) (a : BitVec 4) (x : OpCode) (imm : BitVec 8) (s : State) : Answer :=
  loadDouble (.ldD wn sn a x imm) a x imm .read s

/-- LDX_D (R266). -/
def execLdxD (wn sn : Bool) (a : BitVec 4) (x : OpCode) (imm : BitVec 8) (s : State) : Answer :=
  loadDouble (.ldxD wn sn a x imm) a x imm .xread s

/-! ### lv and sv (R207, R210) -/

/-- Writes the registers of a block in block order. -/
def State.writeBlock (s : State) : List Nat → List Byte → State
  | [], _ => s
  | r :: rest, bs => (s.writeVreg none r [(0, 4096)] (bs.take 4096)).writeBlock rest (bs.drop 4096)

/-- The registers of a block as a read finds them. -/
def State.viewBlock (s : State) : List Nat → List Byte × State
  | [] => ([], s)
  | r :: rest =>
    let (bs, s) := s.viewVreg r
    let (more, s) := s.viewBlock rest
    (bs ++ more, s)

/-- LV (R207). -/
def execLv (wn sn : Bool) (row col : BitVec 5) (h1 w1 : BitVec 3) (a : BitVec 4) (s : State) : Answer :=
  queueWord (.lv wn sn row col h1 w1 a) true [] false false (fun s e =>
    let regs := xferRegs row col h1 w1
    if (s.core.setSide true []).conflict s.now [] regs then
      .trap s causeHazard (BitVec.ofNat 64 e.word.toNat) none
    else s.load e (s.core.areg a) (4096 * regs.length) s.core.sys.ctx .read false fun s _ bs =>
      .done (s.writeBlock regs bs)) s

/-- SV (R210). -/
def execSv (wp sp : Bool) (row col : BitVec 5) (h1 w1 : BitVec 3) (a : BitVec 4) (s : State) : Answer :=
  queueWord (.sv wp sp row col h1 w1 a) false [] false true (fun s e =>
    let regs := xferRegs row col h1 w1
    if (s.core.setSide false []).conflict s.now regs [] then
      .trap s causeHazard (BitVec.ofNat 64 e.word.toNat) none
    else match s.inspectReads regs [] with
      | (s, some inj) => .dead (s.consumed inj)
      | (s, none) =>
        let r := s.viewBlock regs
        r.2.store e e.base r.1 s.core.sys.ctx .write false fun s segs => .done (s.storeSegs segs r.1)) s

/-! ### Stores (R208, R209) -/

/-- A store word that reaches memory and the scratchpad only. -/
def storeWord (i : Instr) (x : OpCode) (imm : BitVec 8) (size : Nat) (k : Kind) (s : State) : Answer :=
  queueWord i false [x] false true (fun s e =>
    let bs := leBytes size (arg0 e.caps).toNat
    s.store e (e.ea imm size) bs (s.core.tagFor k) k false fun s segs => .done (s.storeSegs segs bs)) s

/-- ST_B (R208). -/
def execStB (wp sp : Bool) (a : BitVec 4) (x : OpCode) (imm : BitVec 8) (s : State) : Answer :=
  storeWord (.stB wp sp a x imm) x imm 1 .write s

/-- ST_H (R208). -/
def execStH (wp sp : Bool) (a : BitVec 4) (x : OpCode) (imm : BitVec 8) (s : State) : Answer :=
  storeWord (.stH wp sp a x imm) x imm 2 .write s

/-- ST_W (R208). -/
def execStW (wp sp : Bool) (a : BitVec 4) (x : OpCode) (imm : BitVec 8) (s : State) : Answer :=
  storeWord (.stW wp sp a x imm) x imm 4 .write s

/-- STX_W (R266). -/
def execStxW (wp sp : Bool) (a : BitVec 4) (x : OpCode) (imm : BitVec 8) (s : State) : Answer :=
  storeWord (.stxW wp sp a x imm) x imm 4 .xwrite s

/-- A channel takes a command (R233): four at most, the executing one counted. -/
def Core.pushCopy (c : Core) (k : Nat) (w : Word) : Option Core :=
  let ch := c.channel k
  if 4 ≤ ch.jobs.length then none
  else
    some (c.setChannel k { ch with jobs := ch.jobs ++ [{ word := w, tag := c.sys.ctx, order := c.nextCopy }] })

/-- COPY_START_WORD (R232, R233): the engine push of a start word. -/
def execCopyStartWord (core : Fin 96) (chan : BitVec 4) (word : Word) (s : State) : Answer :=
  .next (s.onCore core fun s =>
    match s.core.pushCopy chan.toNat word with
    | some c => s.withCore c
    | none => s.hold)

/-- Every dirty line of the home slices is written back to the Cistern: what they held is then performed at SYSTEM scope
(R309). -/
def State.writeBackAll (s : State) : State :=
  (s.mem.l2.filter (·.dirty)).foldl (fun s l => s.writeBackL2 l) s

/-- An aligned 8-byte store in the local-engine page (R231). A push performs every earlier store of the SQ at DEVICE scope (R233,
R322 note 6). -/
def State.storeLocal (s : State) (off : Nat) (v va : Word) : Attempt :=
  if off < 0x400 ∧ off % 64 = 0 then
    match s.core.pushCopy (off / 64) v with
    | some c => .done ((s.withCore c).performAll s.cur)
    | none => .block s
  else .trap s causeXlate 1 (some va)

/-- A store to a register (R274); a store to QDOOR is an engine push, which performs every earlier store of the SQ at SYSTEM scope
(R40). -/
def State.storeReg (s : State) (off : Nat) (v : Word) : State :=
  if off < 0x400 ∧ off % 0x40 = 0x20 then ((s.performAll s.cur).writeBackAll).regWrite off v else s.regWrite off v

/-- A store of 8 bytes: an aligned one also reaches the engines of the core, and as a plain store the registers (R231, R274). -/
def storeDouble (i : Instr) (x : OpCode) (imm : BitVec 8) (k : Kind) (s : State) : Answer :=
  queueWord i false [x] false true (fun s e =>
    let ea := e.ea imm 8
    let v := arg0 e.caps
    let bs := leBytes 8 v.toNat
    s.store e ea bs (s.core.tagFor k) k (ea.toNat % 8 == 0) fun s segs =>
      match segs with
      | [g] => (match g.target with
        | .reg off => .done (s.storeReg off v)
        | .local_ off => s.storeLocal off v ea
        | _ => .done (s.storeSegs segs bs))
      | _ => .done (s.storeSegs segs bs)) s

/-- ST_D (R208). -/
def execStD (wp sp : Bool) (a : BitVec 4) (x : OpCode) (imm : BitVec 8) (s : State) : Answer :=
  storeDouble (.stD wp sp a x imm) x imm .write s

/-- STX_D (R266). -/
def execStxD (wp sp : Bool) (a : BitVec 4) (x : OpCode) (imm : BitVec 8) (s : State) : Answer :=
  storeDouble (.stxD wp sp a x imm) x imm .xwrite s

/-- A piece lies, in part at least, in a region that a binding of a table ties to the word at `ea` (R209, R216). -/
def bindsPiece (ties : List (Nat × Binding)) (ea : Word) (w : StorePiece) : Bool :=
  ties.any fun b => bitsAt b.2 128 64 == ea.toNat &&
    decide (bitsAt b.2 0 64 < w.va.toNat + w.data.length ∧ w.va.toNat < bitsAt b.2 0 64 + bitsAt b.2 64 64)

/-- The writes that a release of the word at `ea` covers are performed at its scope (R209, R316): the core's completed stores to regions bound
when the release started, and for SYSTEM scope what the home slices hold of them and of other agents' writes. At CORE scope they have
been performed, and the core's own acquires of the word are to see them (R315). -/
def State.releaseAt (s : State) (ties : List (Nat × Binding)) (ea : Word) (scope : BitVec 2) : State :=
  if scope = 0 then
    s.withCore { s.core with queues := { s.core.queues with released := assign s.core.queues.released ea.toNat s.core.queues.sqDone } }
  else
    let s := s.performStores s.cur (bindsPiece ties ea)
    if scope = 3 then s.writeBackAll else s

/-- REL_D (R209). -/
def execRelD (wp sp : Bool) (a : BitVec 4) (x : OpCode) (scope : BitVec 2) (s : State) : Answer :=
  queueWord (.relD wp sp a x scope) false [x] false true (fun s e =>
    let bs := leBytes 8 (arg0 e.caps).toNat
    if e.base.toNat % 8 ≠ 0 then .trap s causeAlign 1 (some e.base)
    else if (s.core.damageIn partBinding 0 64).isSome then .dead (s.consumed ((s.core.damageIn partBinding 0 64).getD false))
    else s.store e e.base bs s.core.sys.ctx .write false fun s segs =>
      let s := (s.releaseAt e.ties e.base scope).storeSegs segs bs
      let s := if scope = 0 then s else s.performStores s.cur fun w => w.store == s.core.queues.sqDone + 1
      .done (if scope = 3 then s.writeBackAll else s)) s

/-! ### mld (R165, R166) -/

/-- The bytes a feed holds. -/
def Core.feed (c : Core) (feed : BitVec 2) : List Byte := if feed = 0 then c.arrays.feedA else c.arrays.feedB

/-- A row enters a feed and MPROG.ROW moves on. -/
def Core.feedRow (c : Core) (feed : BitVec 2) (bs : List Byte) (row : Nat) : Core :=
  { c.mend partFeed (feed.toNat * 8192 + (c.feed feed).length / 8) (bs.length / 8) with
    arrays := if feed = 0 then { c.arrays with feedA := c.arrays.feedA ++ bs } else { c.arrays with feedB := c.arrays.feedB ++ bs }
    sys := { c.sys with mprog := BitVec.ofNat 64 (row % 2 ^ 16) } }

/-- MLD (R165): row by row, each when its feed has room for it and the request table its entries (R202). -/
def execMld (wn sn : Bool) (feed : BitVec 2) (a : BitVec 4) (x : OpCode) (s : State) : Answer :=
  queueWord (.mld wn sn feed a x) true [x] false false (fun s e =>
    let d := arg0 e.caps
    let stride : Word := BitVec.signExtend 64 (BitVec.truncate 32 d)
    let rows := bitsAt d 32 16
    let bpr := bitsAt d 48 16
    let r := bitsAt s.core.sys.mprog 0 16
    if rows = 0 ∨ bpr = 0 ∨ bpr % 64 ≠ 0 ∨ 4096 < bpr then e.refused s
    else if rows ≤ r then .done (s.withCore { s.core with sys := { s.core.sys with mprog := 0 } })
    else if 65536 < s.core.feedHeld feed s.now + bpr || 8192 < s.core.entriesHeld then .block s
    else
      s.load e (s.core.areg a + BitVec.ofNat 64 r * stride) bpr s.core.sys.ctx .read false fun s _ bs =>
        if r + 1 < rows then .wait (s.withCore (s.core.feedRow feed bs (r + 1)))
        else .done (s.withCore (s.core.feedRow feed bs 0))) s

/-! ### The configuration group (R213 to R217) -/

/-- The operation of a list that completes last. -/
def lastDue : List Window → Option Window
  | [] => none
  | w :: rest => match lastDue rest with
    | some v => if v.due < w.due then some w else some v
    | none => some w

/-- Attaches the release or publication of slot `k` to the operation in execution that is the last to complete of those that read or push
into the slot; where there is none it is due at once (R138). -/
def Core.afterSlot (c : Core) (k : Nat) (x : SlotEffect) : Core :=
  match lastDue (c.queues.windows.filter fun w => w.slots.contains (x.buf, k)) with
  | some w => { c with queues := { c.queues with
      windows := c.queues.windows.map fun v => if v.serial = w.serial then { v with effects := v.effects ++ [x] } else v } }
  | none => c.slotDue x

/-- A port takes a new descriptor (R138). -/
def Core.loadPort (c : Core) (port : Nat) (d : PortDesc) : Core :=
  let p := c.port port
  let c := if PortDesc.bound p.desc && p.slot.isSome then
      c.afterSlot (p.slot.getD 0) { buf := PortDesc.cbn p.desc, publish := PortDesc.output p.desc }
    else c
  c.setPort port { set := true, desc := d, index := 0, slot := none }

/-- PSET (R138, R214). -/
def execPset (wn sn : Bool) (a : BitVec 4) (port : BitVec 3) (imm : BitVec 8) (s : State) : Answer :=
  queueWord (.pset wn sn a port imm) true [] false false (fun s e =>
    let ea := s.core.ea a 0 imm 64
    if ea.toNat % 64 ≠ 0 then e.refused s
    else s.load e ea 64 s.core.sys.ctx .read false fun s _ bs =>
      let d : PortDesc := BitVec.ofNat 512 (leNat bs)
      if d.wf then .done (s.withCore (s.core.loadPort port.toNat d)) else e.refused s) s

/-- A well-formed circular-buffer descriptor (R141). -/
def bufDescOk (d : BitVec 128) : Bool :=
  let n := bitsAt d 64 32
  let size := bitsAt d 32 32
  let base := bitsAt d 0 32
  bitsAt d 96 32 == 0 && decide (1 ≤ n ∧ n ≤ 256 ∧ 64 ≤ size ∧ base + size * n ≤ 2 ^ 23) && size % 64 == 0 && base % 64 == 0

/-- CBSET (R141, R214). -/
def execCbset (wn sn : Bool) (a : BitVec 4) (buf : BitVec 4) (imm : BitVec 8) (s : State) : Answer :=
  queueWord (.cbset wn sn a buf imm) true [] false true (fun s e =>
    let ea := s.core.ea a 0 imm 16
    if ea.toNat % 16 ≠ 0 then e.refused s
    else s.load e ea 16 s.core.sys.ctx .read false fun s _ bs =>
      let d : BitVec 128 := BitVec.ofNat 128 (leNat bs)
      if bufDescOk d then
        .done (s.withCore (s.core.setBuf buf.toNat
          { set := true, desc := d, filled := 0, free := bitsAt d 64 32, pptr := 0, cptr := 0 }))
      else e.refused s) s

/-- Templates from index `n` on take their 32-byte entries and become valid (R215). -/
def Core.loadTemplates (c : Core) (n : Nat) (entries : List (List Byte)) : Core :=
  { c.mend partTemplate n entries.length with arrays := { c.arrays with
      templates := (entries.zipIdx n).foldl (fun t e => poke t e.2 (BitVec.ofNat 256 (leNat e.1))) c.arrays.templates
      tvalid := (entries.zipIdx n).foldl (fun v e => v ||| (1#64 <<< e.2)) c.arrays.tvalid } }

/-- TDEF (R215): the window does not hide the image. -/
def execTdef (wn sn : Bool) (tmpl : BitVec 6) (count : BitVec 8) (s : State) : Answer :=
  queueWord (.tdef wn sn tmpl count) true [] false false (fun s e =>
    match s.core.image with
    | none => e.refused s
    | some img =>
      if img.tmcount < tmpl.toNat + count.toNat then e.refused s
      else s.load { e with spbase := 0 } (s.core.handle + BitVec.ofNat 64 (img.tmoff + 32 * tmpl.toNat)) (32 * count.toNat)
          0 .read false fun s _ bs =>
        .done (s.withCore (s.core.loadTemplates tmpl.toNat (chunks 32 64 bs)))) s

/-- A well-formed binding descriptor (R216). -/
def bindingOk (b : BitVec 256) : Bool :=
  let len := bitsAt b 64 64
  bitsAt b 192 64 == 0 && bitsAt b 128 3 == 0 && canonical (BitVec.ofNat 64 (bitsAt b 128 64)) &&
    decide (1 ≤ len ∧ len ≤ 2 ^ 48) && canonical (BitVec.ofNat 64 (bitsAt b 0 64 + len - 1))

/-- BIND (R216). -/
def execBind (wn sn : Bool) (a : BitVec 4) (entry : BitVec 6) (imm : BitVec 8) (s : State) : Answer :=
  queueWord (.bind wn sn a entry imm) true [] false false (fun s e =>
    let ea := s.core.ea a 0 imm 32
    if ea.toNat % 32 ≠ 0 then e.refused s
    else s.load e ea 32 s.core.sys.ctx .read false fun s _ bs =>
      let b : Binding := BitVec.ofNat 256 (leNat bs)
      if bindingOk b then .done (s.withCore { s.core.mend partBinding entry.toNat 1 with bindings := assign s.core.bindings entry.toNat b })
      else e.refused s) s

/-- UNBIND (R217). -/
def execUnbind (wn sn : Bool) (entry : BitVec 6) (s : State) : Answer :=
  queueWord (.unbind wn sn entry) true [] false false (fun s _ =>
    .done (s.withCore { s.core.mend partBinding entry.toNat 1 with bindings := unassign s.core.bindings entry.toNat })) s

end Sys2Proof.Machine
end

