-- ==== Sys2Proof/Machine/OrderLog.lean ====
section
/-! DEFINITION. The order log (R385 to R390): entries written, and the turns that replay gives. -/

namespace Sys2Proof.Machine

def State.setOrder (s : State) (o : OrderLog) : State := { s with order := o }

/-! ### Writing (R386, R387) -/

/-- An entry of the log. -/
def logEntry (gts src kind obj seq : Nat) : BitVec 128 :=
  BitVec.ofNat 128 (gts % 2 ^ 48 + src % 256 * 2 ^ 48 + kind % 16 * 2 ^ 56 + obj % 2 ^ 40 * 2 ^ 64 + seq % 2 ^ 24 * 2 ^ 104)

/-- An entry takes its place among those of its GTS: by source number, behind the earlier ones of its own source (R386). -/
def placeEntry (e : BitVec 128) : List (BitVec 128) → List (BitVec 128)
  | [] => [e]
  | x :: rest => if bitsAt e 48 8 < bitsAt x 48 8 then e :: x :: rest else x :: placeEntry e rest

/-- The last entries of the buffer that have a GTS. -/
def OrderLog.sameTime (o : OrderLog) (gts : Nat) : List (BitVec 128) :=
  if o.recent.all (fun x => bitsAt x 0 48 == gts % 2 ^ 48) && decide (o.recent.length ≤ o.tail.toNat) then o.recent else []

/-- ORDER_LOG_ENTRY (R386): entries stand in the order of (GTS, SRC). The entry that fills the buffer sets OVF and logs a CONTROL event;
what comes after in the order is dropped. A log without a size of its range takes no entry and sets OVF (R14). -/
def State.logChoice (s : State) (kind src obj seq : Nat) : State :=
  let o := s.order
  let n := bitsAt o.base 0 5
  if n < 8 ∨ 28 < n then s.setOrder { o with ovf := true }
  else
    let now := o.sameTime s.clock.gts
    let first := o.tail.toNat - now.length
    let l := (placeEntry (logEntry s.clock.gts src kind obj seq) now).take (2 ^ n - first)
    let tail := first + l.length
    let s := (s.agentStore (bitsAt o.base 12 45 * 2 ^ 12 + 16 * first) (l.flatMap vecBytes)).setOrder
      { o with tail := BitVec.ofNat 32 (max o.tail.toNat tail), recent := l, ovf := o.ovf || decide (2 ^ n ≤ tail) }
    if o.tail.toNat < 2 ^ n ∧ 2 ^ n ≤ tail then s.control! else s

/-! ### Replay (R388 to R390) -/

/-- Entry `i` of the replay log. -/
def State.replayEntry (s : State) (i : Nat) : BitVec 128 :=
  BitVec.ofNat 128 (s.mem.number (bitsAt s.order.replayBase 12 45 * 2 ^ 12 + 16 * i) 16)

/-- KIND, OBJ and SEQ of an entry. -/
def entryKind (e : BitVec 128) : Nat := bitsAt e 56 4
def entryObj (e : BitVec 128) : Nat := bitsAt e 64 40
def entrySeq (e : BitVec 128) : Nat := bitsAt e 104 24

/-- The first unconsumed entry from `i` on that belongs to an object, among `n`. -/
def State.nextEntry (s : State) (kind : Nat) (same : Nat → Bool) : Nat → Nat → Option (Nat × BitVec 128)
  | 0, _ => none
  | n + 1, i =>
    let e := s.replayEntry i
    if !s.order.consumed.contains i && entryKind e == kind && same (entryObj e) then some (i, e)
    else s.nextEntry kind same n (i + 1)

/-- Every requester that replay holds is tried again. -/
def State.wakeHeld (s : State) : State := s.order.waiting.foldl (fun s h => s.post (.replayRelease h)) s

/-- An object leaves replay (R390). -/
def State.diverge (s : State) (kind key : Nat) : State :=
  let o := s.order
  (s.setOrder { o with diverged := true, left := (kind, key) :: o.left }).control!.wakeHeld

/-- The turn of a choice in replay: `none` where it is held. `key` names the object, `same` tells its entries, `mine` an
entry that names this choice now, and `gone` one whose requester has retired. -/
def State.turn (s : State) (kind key : Nat) (same : Nat → Bool) (mine gone : Nat → Nat → Bool) : Option State :=
  if s.order.left.contains (kind, key) then some s
  else match s.nextEntry kind same s.order.replayCount.toNat 0 with
    | none => some (s.diverge kind key)
    | some (i, e) =>
      if mine (entryObj e) (entrySeq e) then
        some ((s.setOrder { s.order with consumed := i :: s.order.consumed }).wakeHeld)
      else if gone (entryObj e) (entrySeq e) then some (s.diverge kind key)
      else none

/-- A requester is held (R388). -/
def State.holdChoice (s : State) (h : HeldChoice) : State :=
  if s.order.waiting.contains h then s else s.setOrder { s.order with waiting := s.order.waiting ++ [h] }

/-- REPLAY_RELEASE (R388): a held requester is let try again; a Weir firing and a run come back as events, an atomic at the
head of its LQ. -/
def execReplayRelease (held : HeldChoice) (s : State) : Answer :=
  let s := s.setOrder { s.order with waiting := s.order.waiting.filter (· != held) }
  .next (match held with
    | .atomic _ => s
    | .firing e => s.postFor { s.focus with entry := ⟨e.toNat, e.isLt⟩ } s.now .pendingFiring
    | .run coll msg => s.post (.runMsg coll msg))

/-- DIVERGENCE (R390): the object leaves replay. -/
def execDivergence (kind : BitVec 4) (obj : BitVec 40) (s : State) : Answer := .next (s.diverge kind.toNat obj.toNat)

end Sys2Proof.Machine
end

