-- ==== Sys2Proof/Machine/Sync.lean ====
section
/-! DEFINITION. The synchronisation group (R218 to R223). -/

namespace Sys2Proof.Machine

/-! ### Reads at the performance point (R220, R225) -/

/-- The bytes of one run as they stand behind the L1: in the scratchpad, at the home slice, or for SYSTEM scope at the
Cistern, once a line that is dirty in the L2 has been recalled (R227). -/
def State.readPoint (s : State) (system : Bool) (seg : Seg) : ReadOut :=
  match seg.target with
  | .line pa =>
    match if system then s.agentRead (pa / 64) else s.readHome (pa / 64) (dieOf s.cur.val) seg.owner with
    | (s, .bad p inj) => .bad (pa / 64) p inj s
    | (s, .data x) => .bytes (lineBytes x (pa % 64) seg.len) s
  | _ => s.readSeg false seg

/-- The line is in its home slice, or needs none; an access of SYSTEM scope is performed at the Cistern, and none of the reads that the
calendar carries (R281). -/
def State.atHome (s : State) (system : Bool) (seg : Seg) : Bool :=
  match seg.target with
  | .line pa => if system then !s.siteHolds pa else (s.mem.l2At (pa / 64)).isSome
  | _ => true

/-- The core's own stores of a run that are ordered before an access behind the L1 are performed (R211). -/
def State.orderRun (s : State) (seg : Seg) : State :=
  match seg.target with
  | .line pa => s.orderHome pa seg.len
  | _ => s

/-- The core's own L1 sectors of a run go, by an atomic on it (R226). -/
def State.forgetRun (s : State) (seg : Seg) : State :=
  match seg.target with
  | .line pa => s.withCore { s.core with caches := { s.core.caches with
      l1 := s.core.caches.l1.filter fun x => !(sectorsOf pa seg.len).contains x.key } }
  | _ => s

/-- The bytes that an ordered load has read behind the L1 stand in the core's own L1 from then on, where it holds their sector: no later load
of them goes back to an older value (R312). -/
def State.freshRun (s : State) (seg : Seg) (bs : List Byte) : State :=
  match seg.target with
  | .line pa => s.withCore (s.core.patchL1 pa (s.core.merged pa bs))
  | _ => s

/-- Translates an aligned access of at most 8 bytes, reads it behind the L1 and goes on. -/
def State.loadPoint (s : State) (e : QEntry) (ea : Word) (n : Nat) (k : Kind) (system : Bool) (f : State → Seg → List Byte → Attempt) :
    Attempt :=
  match s.mapAccess e ea n s.core.sys.ctx k false with
  | .error r => r.attempt
  | .ok [] => .block s
  | .ok (seg :: _) =>
    if !s.sitesJoined [seg] then .block s
    else if s.atHome system seg then
      match ((s.learn [seg]).orderRun seg).readPoint system seg with
      | .bytes bs s => f s seg bs
      | .bad line p inj s => .dead (s.consumeLine line p inj)
      | .own inj s => .dead (s.consumed inj)
    else
      match seg.target with
      | .line pa => .block (if system then s else (s.askLine s.cur.val (pa / 64)).oweSegs s.core.sys.ctx k [seg])
      | _ => .block s

/-! ### Bindings (R216, R220) -/

/-- A binding ties the word at an address to some region. -/
def Core.ties (c : Core) (ea : Word) : Bool := c.bindings.any fun b => bitsAt b.2 128 64 == ea.toNat

/-- An acquire of a word (R220): where a binding names it, every L1 and RO line goes; the core may invalidate more lines
than those of the bound regions. -/
def Core.acquire (c : Core) (ea : Word) : Core := if c.ties ea then c.dropLines fun _ => true else c

/-- An acquire of a word; the core's own stores that its releases of the word at CORE scope cover are in the home slices by then, where the
loads that follow find them (R315). -/
def State.acquireAt (s : State) (ea : Word) : State :=
  let s := match s.core.queues.released.find? (·.1 == ea.toNat) with
    | some r => s.performStores s.cur fun w => decide (w.store ≤ r.2) && bindsPiece s.core.bindings ea w
    | none => s
  s.withCore (s.core.acquire ea)

/-! ### The words -/

/-- The core's completed stores are performed at a scope (R309): in the home slices, and for SYSTEM scope behind them. -/
def State.performAt (s : State) (scope : BitVec 2) : State :=
  if scope = 0 then s
  else
    let s := s.performAll s.cur
    if scope = 3 then s.writeBackAll else s

/-- FENCE (R219). -/
def execFence (wn sn : Bool) (inv : Bool) (scope : BitVec 2) (s : State) : Answer :=
  queueWord (.fence wn sn inv scope) true [] false false (fun s _ =>
    let s := s.performAt scope
    .done (if inv then s.withCore { s.core with caches := { s.core.caches with l1 := [] } } else s)) s

/-- ACQ (R220). -/
def execAcq (wn sn : Bool) (a : BitVec 4) (x : OpCode) (scope : BitVec 2) (s : State) : Answer :=
  queueWord (.acq wn sn a x scope) true [x] true false (fun s e =>
    let ea := s.core.areg a + arg0 e.caps
    if ea.toNat % 8 ≠ 0 then .trap s causeAlign 1 (some ea)
    else if (s.core.damageIn partBinding 0 64).isSome then .dead (s.consumed ((s.core.damageIn partBinding 0 64).getD false))
    else s.loadPoint e ea 8 .read (scope == 3) fun s seg bs =>
      .deliver ((s.freshRun seg bs).acquireAt ea) (BitVec.ofNat 64 (leNat bs))) s

/-- The runs of a range, cut at pages. -/
def pageRuns (va : Word) : Nat → Nat → List (Word × Nat)
  | 0, _ => []
  | fuel + 1, n =>
    if n = 0 then []
    else
      let k := min n (65536 - va.toNat % 65536)
      (va, k) :: pageRuns (va + BitVec.ofNat 64 k) fuel (n - k)

/-- The physical runs of a range under CTX (R221, R222): what has no valid translation, or lies in the window, is skipped. -/
def State.probeRuns (s : State) (e : QEntry) (va : Word) (n : Nat) : State × List (Nat × Nat) :=
  (pageRuns va (n / 65536 + 2) n).foldl (fun (a : State × List (Nat × Nat)) r =>
    if (e.window r.1).isSome then a
    else match a.1.probe a.1.cur.val a.1.core.root r.1 a.1.core.sys.ctx with
      | (s, some pa) => (s, a.2 ++ [(pa, r.2)])
      | (s, none) => (s, a.2)) (s, [])

/-- A line overlaps one of the runs. -/
def lineIn (runs : List (Nat × Nat)) (key : Nat) : Bool :=
  runs.any fun r => decide (r.1 < key * 64 + 64 ∧ key * 64 < r.1 + r.2)

/-- RO lines go, and the core's stores to such lines that are ordered before are in the home slices, from which an `ldro` behind it fills
(R221, R322 note 1, R325). -/
def State.invalidateRo (s : State) (hit : Nat → Bool) : State :=
  let s := s.performStores s.cur fun w => decide (w.store ≤ s.core.queues.lqKnows) && hit (w.pa / 64)
  s.withCore { s.core with caches := { s.core.caches with ro := s.core.caches.ro.filter fun l => !hit l.key } }

/-- ROINV (R221). -/
def execRoinv (wn sn : Bool) (s : State) : Answer :=
  queueWord (.roinv wn sn) true [] false false (fun s _ => .done (s.invalidateRo fun _ => true)) s

/-- ROINV over a range (R221). -/
def execRoinvRange (wn sn : Bool) (a : BitVec 4) (x : OpCode) (s : State) : Answer :=
  queueWord (.roinvRange wn sn a x) true [x] false false (fun s e =>
    let r := s.probeRuns e (s.core.areg a) (arg0 e.caps).toNat
    .done (r.1.invalidateRo (lineIn r.2))) s

/-- Dirty lines of some runs are written back from the home slices (R222). -/
def State.cleanDevice (s : State) (runs : List (Nat × Nat)) : State :=
  (s.mem.l2.filter fun l => l.dirty && lineIn runs l.key).foldl (fun s l => s.writeBackL2 l) s

/-- Dirty lines of some runs are written back from the Cistern. -/
def State.cleanSystem (s : State) (runs : List (Nat × Nat)) : State :=
  (s.mem.cistern.filter fun l => l.dirty && lineIn runs l.key).foldl (fun s l => s.cisternClean l) s

/-- CLEAN (R222). -/
def execClean (wn sn : Bool) (a : BitVec 4) (x : OpCode) (scope : BitVec 2) (s : State) : Answer :=
  queueWord (.clean wn sn a x scope) true [x] false false (fun s e =>
    let n := (arg0 e.caps).toNat
    if 2 ^ 32 < n then e.refused s
    else
      let r := s.probeRuns e (s.core.areg a) n
      let s := r.1.cleanDevice r.2
      .done (if scope = 3 then s.cleanSystem r.2 else s)) s

/-- PF (R223): the device may drop a prefetch, and this one always does. -/
def execPf (wn sn : Bool) (a : BitVec 4) (x : OpCode) (target : BitVec 2) (s : State) : Answer :=
  queueWord (.pf wn sn a x target) true [x] false false (fun s _ => .done s) s

end Sys2Proof.Machine
end

