-- ==== Sys2Proof/Machine/Amo.lean ====
section
/-! DEFINITION. Atomics (R224 to R229) and their order log (R387, R388). -/

namespace Sys2Proof.Machine

/-! ### Performing (R226, R227) -/

/-- Writes the result of an atomic where it is performed. -/
def State.putAtomic (s : State) (seg : Seg) (scope : BitVec 2) (bs : List Byte) : State :=
  match seg.target with
  | .sp off => s.spPut off bs
  | .line pa =>
    if scope = 3 then s.agentStore pa bs else s.writeHome (pa / 64) (pa % 64) bs (dieOf s.cur.val) seg.owner
  | _ => s

/-! ### Logging and replay (R387, R388) -/

/-- The physical granule of an atomic whose order is recorded: PA [43:4], host memory excepted. -/
def State.loggedGranule (s : State) (seg : Seg) : Option Nat :=
  match seg.target with
  | .line pa => if s.mem.region pa = .host then none else some (bitsOf pa 43 4)
  | _ => none

/-- An item in replay has the number that an entry's SEQ holds. -/
def Item.named (it : Item) (l : Nat) : Bool := it.log && it.replay && it.lin % 2 ^ 24 == l

/-- The LAUNCH that the walker serves has an item of that number still to come: it is one of the record's, and has not ended. -/
def State.itemAhead (s : State) (l : Nat) : Bool :=
  match s.control.job with
  | none => false
  | some j => j.record.getLsbD 146 && j.replay && decide (l < j.total) &&
      !s.control.commands.any fun a => a.id == j.command && a.ends.any (·.1 == l)

/-- The item that an entry's SEQ names has retired, or its command has completed: no item of that number is on a core, or is still to be placed
there (R390). SEQ does not tell the items of different commands apart (R387), so an item of another command counts too (DEDUCED, log entry
56). -/
def State.itemGone (s : State) (l : Nat) : Bool :=
  !((List.finRange 96).any (fun i => match (s.cores[i]).item with
      | some it => it.named l
      | none => false) || s.control.requeued.any (Item.named · l) || s.itemAhead l)

/-- The turn of an ordered atomic: the state to go on from, or none while replay holds it. -/
def State.atomicTurn (s : State) (seg : Seg) (ord : Bool) : Option State :=
  let c := s.core
  if ord && c.itemFlag Item.log && c.itemFlag Item.replay then
    match s.loggedGranule seg with
    | some g =>
      if s.order.waiting.contains (.atomic s.cur) then none
      else s.turn 1 g (· == g) (fun _ q => some (q % 2 ^ 24) == c.item.map (·.lin % 2 ^ 24)) fun _ q => s.itemGone q
    | none => some s
  else some s

/-- The entry of an ordered atomic that has been performed; nothing is written while REPLAY is set (R388). -/
def State.atomicLogged (s : State) (seg : Seg) (ord : Bool) : State :=
  let c := s.core
  match c.item, s.loggedGranule seg with
  | some it, some g =>
    if ord && it.log && !it.replay && !s.order.replay then s.logChoice 1 s.cur.val g it.lin else s
  | _, _ => s

/-- An atomic at the head of the LQ: what its release covers is performed first, and then `f` of the old value is written, or nothing where it
gives none (R225, R228, R229, R313). -/
def State.atomic (s : State) (e : QEntry) (ea : Word) (n : Nat) (scope : BitVec 2) (acq rel ord : Bool)
    (f : Nat → Option Nat) : Attempt :=
  if ea.toNat % n ≠ 0 then .trap s causeAlign 1 (some ea)
  else State.loadPoint (if rel then s.releaseAt e.ties ea scope else s) e ea n .atomic (scope == 3) fun s seg bs =>
    match s.atomicTurn seg ord with
    | none => .block (s.holdChoice (.atomic s.cur))
    | some s =>
      let old := leNat bs
      let s := match f old with
        | some v => (s.forgetRun seg).putAtomic seg scope (leBytes n v)
        | none => s.forgetRun seg
      let s := s.atomicLogged seg ord
      .deliver (if acq then s.acquireAt ea else s) (BitVec.ofNat 64 old)

/-- An amo word. -/
def amoWord (i : Instr) (a : BitVec 4) (x : OpCode) (n : Nat) (scope : BitVec 2) (acq rel ord : Bool)
    (f : Nat → Nat → Nat → Nat) (s : State) : Answer :=
  queueWord i true [x] true true (fun s e =>
    s.atomic e (s.core.areg a) n scope acq rel ord fun old => some (f n old ((arg0 e.caps).toNat % 2 ^ (8 * n)))) s

/-- A floating-point amo: one RNE rounding, no flag (R225). -/
def floatAmo (f : Num → Num → Num) (_ x y : Nat) : Nat := fp32.put rcRNE 0 0 false (f (fp32.decode x) (fp32.decode y))

/-- AMO_ADD (R225). -/
def execAmoAdd (wn sn : Bool) (a : BitVec 4) (x : OpCode) (size : Bool) (scope : BitVec 2) (acq rel ord : Bool) (s : State) :
    Answer :=
  amoWord (.amoAdd wn sn a x size scope acq rel ord) a x (if size then 8 else 4) scope acq rel ord
    (fun n x y => (x + y) % 2 ^ (8 * n)) s

/-- AMO_AND (R225). -/
def execAmoAnd (wn sn : Bool) (a : BitVec 4) (x : OpCode) (size : Bool) (scope : BitVec 2) (acq rel ord : Bool) (s : State) :
    Answer :=
  amoWord (.amoAnd wn sn a x size scope acq rel ord) a x (if size then 8 else 4) scope acq rel ord
    (fun _ x y => x &&& y) s

/-- AMO_OR (R225). -/
def execAmoOr (wn sn : Bool) (a : BitVec 4) (x : OpCode) (size : Bool) (scope : BitVec 2) (acq rel ord : Bool) (s : State) :
    Answer :=
  amoWord (.amoOr wn sn a x size scope acq rel ord) a x (if size then 8 else 4) scope acq rel ord
    (fun _ x y => x ||| y) s

/-- AMO_XOR (R225). -/
def execAmoXor (wn sn : Bool) (a : BitVec 4) (x : OpCode) (size : Bool) (scope : BitVec 2) (acq rel ord : Bool) (s : State) :
    Answer :=
  amoWord (.amoXor wn sn a x size scope acq rel ord) a x (if size then 8 else 4) scope acq rel ord
    (fun _ x y => x ^^^ y) s

/-- AMO_MIN (R225). -/
def execAmoMin (wn sn : Bool) (a : BitVec 4) (x : OpCode) (size : Bool) (scope : BitVec 2) (acq rel ord : Bool) (s : State) :
    Answer :=
  amoWord (.amoMin wn sn a x size scope acq rel ord) a x (if size then 8 else 4) scope acq rel ord
    (fun n x y => if signedOf (8 * n) y < signedOf (8 * n) x then y else x) s

/-- AMO_MAX (R225). -/
def execAmoMax (wn sn : Bool) (a : BitVec 4) (x : OpCode) (size : Bool) (scope : BitVec 2) (acq rel ord : Bool) (s : State) :
    Answer :=
  amoWord (.amoMax wn sn a x size scope acq rel ord) a x (if size then 8 else 4) scope acq rel ord
    (fun n x y => if signedOf (8 * n) x < signedOf (8 * n) y then y else x) s

/-- AMO_MINU (R225). -/
def execAmoMinu (wn sn : Bool) (a : BitVec 4) (x : OpCode) (size : Bool) (scope : BitVec 2) (acq rel ord : Bool) (s : State) :
    Answer :=
  amoWord (.amoMinu wn sn a x size scope acq rel ord) a x (if size then 8 else 4) scope acq rel ord
    (fun _ x y => min x y) s

/-- AMO_MAXU (R225). -/
def execAmoMaxu (wn sn : Bool) (a : BitVec 4) (x : OpCode) (size : Bool) (scope : BitVec 2) (acq rel ord : Bool) (s : State) :
    Answer :=
  amoWord (.amoMaxu wn sn a x size scope acq rel ord) a x (if size then 8 else 4) scope acq rel ord
    (fun _ x y => max x y) s

/-- AMO_SWAP (R225). -/
def execAmoSwap (wn sn : Bool) (a : BitVec 4) (x : OpCode) (size : Bool) (scope : BitVec 2) (acq rel ord : Bool) (s : State) :
    Answer :=
  amoWord (.amoSwap wn sn a x size scope acq rel ord) a x (if size then 8 else 4) scope acq rel ord
    (fun _ _ y => y) s

/-- AMO_FADD (R225). -/
def execAmoFadd (wn sn : Bool) (a : BitVec 4) (x : OpCode) (scope : BitVec 2) (acq rel ord : Bool) (s : State) : Answer :=
  amoWord (.amoFadd wn sn a x scope acq rel ord) a x 4 scope acq rel ord (floatAmo (fun x y => x.add false y)) s

/-- AMO_FMIN (R225). -/
def execAmoFmin (wn sn : Bool) (a : BitVec 4) (x : OpCode) (scope : BitVec 2) (acq rel ord : Bool) (s : State) : Answer :=
  amoWord (.amoFmin wn sn a x scope acq rel ord) a x 4 scope acq rel ord (floatAmo (Num.min)) s

/-- AMO_FMAX (R225). -/
def execAmoFmax (wn sn : Bool) (a : BitVec 4) (x : OpCode) (scope : BitVec 2) (acq rel ord : Bool) (s : State) : Answer :=
  amoWord (.amoFmax wn sn a x scope acq rel ord) a x 4 scope acq rel ord (floatAmo (Num.max)) s

/-- CAS (R229): at DEVICE scope, an acquire and a release. -/
def execCas (wn sn : Bool) (a : BitVec 4) (x new : OpCode) (size : Bool) (s : State) : Answer :=
  let n := if size then 8 else 4
  queueWord (.cas wn sn a x new size) true [x, new] true true (fun s e =>
    s.atomic e (s.core.areg a) n 2 true true false fun old =>
      if old = (arg0 e.caps).toNat % 2 ^ (8 * n) then some ((arg1 e.caps).toNat % 2 ^ (8 * n)) else none) s

end Sys2Proof.Machine
end

