-- ==== Sys2Proof/Machine/Clause.lean ====
section
/-! DEFINITION. The clause buffer (R85 to R88): `patch` and `tx`. -/

namespace Sys2Proof.Machine

/-! ### patch (R86) -/

/-- The lowest bit of a descriptor in a record: 0 D, 1 A, 2 B, 3 C. -/
def descBase (i : Nat) : Nat := 16 + 24 * i

/-- An origin or operand code written into a descriptor. -/
def patchOrigin (r : BitVec 256) (i v : Nat) : BitVec 256 :=
  match descKind (Rec.desc r i) with
  | 0 => putBits r (descBase i + 12) 10 v
  | 2 => putBits r (descBase i) 6 v
  | _ => putBits (putBits r (descBase i + 12) 10 v) (descBase i + 11) 1 1

/-- One nibble of `ports`. -/
def patchPort (r : BitVec 256) (i v : Nat) : BitVec 256 :=
  if 8 ≤ v then r
  else if descKind (Rec.desc r i) = 1 then putBits r (descBase i + 12) 3 v
  else putBits r (descBase i + 11) 1 1

/-- The record with the bits a select names replaced. -/
def patchRecord (r : BitVec 256) (field v : Nat) : BitVec 256 :=
  match field with
  | 0 | 1 | 2 | 3 => patchOrigin r field v
  | 4 => putBits r 112 10 v
  | 5 => putBits r 144 16 v
  | 6 => putBits r 160 16 v
  | 7 => putBits r 122 10 v
  | 8 => putBits r 132 9 v
  | 9 | 10 | 11 | 12 => putBits r (176 + 16 * (field - 9)) 16 v
  | 13 => patchPort (patchPort (patchPort (patchPort r 0 (v / 4096)) 1 (v / 256 % 16)) 2 (v / 16 % 16)) 3 (v % 16)
  | 14 => putBits r 141 3 v
  | _ => putBits r 0 16 v

/-- The bits of value that a select names: how many, from bit 0 on. -/
def patchWidth (r : BitVec 256) (field : Nat) : Nat :=
  match field with
  | 0 | 1 | 2 | 3 => if descKind (Rec.desc r field) = 2 then 6 else 10
  | 4 => 10
  | 7 => 10
  | 8 => 9
  | 14 => 3
  | _ => 16

/-- The record that a `patch` of a template amends (R85). -/
def Core.clauseFor (c : Core) (t : BitVec 6) : BitVec 256 :=
  if c.clause.valid && c.clause.tmpl == t then c.clause.buf else peek c.arrays.templates t.toNat

/-- The error that a read of that record finds (R367). -/
def Core.clauseError (c : Core) (t : BitVec 6) : Option Bool :=
  if c.clause.valid && c.clause.tmpl == t then c.damageIn partClause 0 1 else c.damageIn partTemplate t.toNat 1

/-- An entry that has completed and waits to push. -/
def EntryState.completed (x : EntryState) : Bool :=
  match x with
  | .pushing _ _ => true
  | _ => false

/-- A `tdef` that loads a template is routed and not complete (R28), one that a trap has parked counted. -/
def Core.tdefPending (c : Core) (t : BitVec 6) : Bool :=
  (c.queues.lq ++ c.queues.parkL).any fun e => !e.state.completed && match e.instr with
    | .tdef _ _ n count => decide (n.toNat ≤ t.toNat ∧ t.toNat < n.toNat + count.toNat)
    | _ => false

/-- PATCH (R85, R86). -/
def execPatch (tmpl : BitVec 6) (field : BitVec 4) (value : BitVec 16) (s : State) : Answer :=
  let c := s.core
  let r := c.clauseFor tmpl
  .next (
    if c.tdefPending tmpl then s.hold
    else if !c.arrays.tvalid.getLsbD tmpl.toNat then s.illegal (.patch tmpl field value)
    else if (c.clauseError tmpl).isSome then s.consumed ((c.clauseError tmpl).getD false)
    else if 2 ^ patchWidth r field.toNat ≤ value.toNat then s.illegal (.patch tmpl field value)
    else plainWord s { c.mend partClause 0 1 with clause := { buf := patchRecord r field.toNat value.toNat, valid := true, tmpl := tmpl } } 1)

/-! ### tx (R85) -/

/-- The instruction a record stands for, by its WOP; a reserved WOP never passes R88. -/
def wideInstr (op : WideOp) : Instr :=
  match Rec.wop op.record with
  | 0x00 => .vadd op
  | 0x01 => .vsub op
  | 0x02 => .vmul op
  | 0x03 => .vfma op
  | 0x04 => .vfms op
  | 0x05 => .vmin op
  | 0x06 => .vmax op
  | 0x07 => .vabs op
  | 0x08 => .vneg op
  | 0x09 => .vrcp op
  | 0x0A => .vrsqrt op
  | 0x0B => .vsqrt op
  | 0x0C => .vexp2 op
  | 0x0D => .vlog2 op
  | 0x0E => .vtanh op
  | 0x0F => .vscale op
  | 0x20 => .viadd op
  | 0x21 => .visub op
  | 0x22 => .vimul op
  | 0x23 => .vand op
  | 0x24 => .vor op
  | 0x25 => .vxor op
  | 0x26 => .vnot op
  | 0x27 => .vshl op
  | 0x28 => .vshr op
  | 0x29 => .vsar op
  | 0x2A => .vimin op
  | 0x2B => .vimax op
  | 0x2C => .viminu op
  | 0x2D => .vimaxu op
  | 0x2E => .vcmp op
  | 0x2F => .vsel op
  | 0x40 => .vrsum op
  | 0x41 => .vrmax op
  | 0x42 => .vrmin op
  | 0x43 => .vcsum op
  | 0x44 => .vmov op
  | 0x45 => .vbcast op
  | 0x46 => .vext op
  | 0x47 => .vins op
  | 0x48 => .viota op
  | 0x49 => .vperm op
  | 0x4A => .vcompact op
  | 0x4B => .vtrans op
  | 0x4C => .vcvt op
  | 0x4D => .vq4 op
  | 0x4E => .vdq4 op
  | 0x60 => .mzero op
  | 0x61 => .mload op
  | 0x62 => .mma op
  | 0x63 => .mdrain op
  | 0x64 => .mchol op
  | 0x65 => .mlu op
  | 0x66 => .mqr op
  | 0x67 => .mtrs op
  | 0x68 => .mshift op
  | _ => .mpiv op

/-- The operand codes of scalar broadcasts, in the order A, B, C (R72, R74). -/
def Rec.scalarCodes (r : Rec) : List OpCode :=
  ([1, 2, 3].filter fun i => descKind (r.desc i) == 2).map fun i => BitVec.ofNat 6 (descSel (r.desc i))

/-- The captured value of a place: the values were read for the scalar places in order. -/
def Rec.capturedAt (r : Rec) (vs : List Word) (i : Nat) : Word :=
  if descKind (r.desc i) = 2 then
    argN vs (([1, 2, 3].filter fun k => decide (k < i) && descKind (r.desc k) == 2).length)
  else 0

/-- Repetition `k` of `n` of a `tx` (R79, R85): waits belong to the first, signals to the last. -/
def txOp (word : IWord) (wp wn sp sn : Bool) (r : Rec) (vs : List Word) (n k : Nat) : WideOp :=
  { record := r, word := word, wp := wp && k == 0, wn := wn && k == 0, sp := sp && k + 1 == n, sn := sn && k + 1 == n,
    capA := r.capturedAt vs 1, capB := r.capturedAt vs 2, capC := r.capturedAt vs 3 }

/-- The CQ entry of an operation. -/
def Core.txEntry (c : Core) (word : IWord) (op : WideOp) : QEntry :=
  { instr := wideInstr op, word := word, caps := [], base := 0, spbase := c.sys.spbase, landbase := c.sys.landbase,
    order := c.queues.order, ties := [], state := .waiting }

/-- TX (R85): with room in the CQ, operands are captured and the clause is used up; each repetition takes a CQ entry, the first now and each other
in a cycle of its own (R78, R94), and nothing else is routed meanwhile. -/
def execTx (wp wn sp sn : Bool) (tmpl : BitVec 6) (rep1 : BitVec 8) (s : State) : Answer :=
  let i := Instr.tx wp wn sp sn tmpl rep1
  let c := s.core
  let r : Rec := c.clauseFor tmpl
  .next (
    if c.tdefPending tmpl then s.hold
    else if Config.cqDepth ≤ c.cqHeld then s.hold
    else if !c.arrays.tvalid.getLsbD tmpl.toNat then s.illegal i
    else if (c.clauseError tmpl).isSome then s.consumed ((c.clauseError tmpl).getD false)
    else if !r.ok then s.raiseSeq causeIllegal (illegalInfo (wordOf i) 1)
    else match c.readAll s.cur.val r.scalarCodes with
      | .stall => s.hold
      | .illegal => s.raiseSeq causeIllegal (illegalInfo (wordOf i) 1)
      | .bad inj => s.consumed inj
      | .ok vs c =>
        let n := rep1.toNat + 1
        let es := (List.range n).map fun k => c.txEntry (wordOf i) (txOp (wordOf i) wp wn sp sn r vs n k)
        let q := { c.queues.place 1 es with order := c.queues.order + 1 }
        plainWord s { c with clause := { c.clause with valid := false }, queues := q } 1)

end Sys2Proof.Machine
end

