-- ==== Sys2Proof/Machine/RowIssue.lean ====
section
/-! DEFINITION. The row group (R296 to R299): the checks of its words and the push of a command. -/

namespace Sys2Proof.Machine

/-! ### Descriptors (R296) -/

abbrev RowDesc := BitVec 512

def RowDesc.dst (d : RowDesc) : Word := BitVec.ofNat 64 (bitsAt d 0 64)
/-- Source `k`: 0 is A, 1 is B, 2 is C. -/
def RowDesc.src (d : RowDesc) (k : Nat) : Word := BitVec.ofNat 64 (bitsAt d (64 + 64 * k) 64)
def RowDesc.len (d : RowDesc) : Nat := bitsAt d 256 32
def RowDesc.pattern (d : RowDesc) : Nat := bitsAt d 320 64
def RowDesc.barv (d : RowDesc) : Bool := d.getLsbD 384
def RowDesc.psel (d : RowDesc) : Bool := d.getLsbD 385
/-- The barrier as a scratchpad byte offset. -/
def RowDesc.barrier (d : RowDesc) : Nat := bitsAt d 397 19 * 16

/-- How many sources a function uses (R297). -/
def rowSources (fn : Nat) : Nat :=
  match fn with
  | 0 => 1
  | 1 => 0
  | 5 => 1
  | 6 => 3
  | _ => 2

/-- Reserved bits, unused sources, PATTERN and PSEL are zero where R296 says so, and LEN is no more than 1 MiB. -/
def RowDesc.wf (d : RowDesc) (fn : Nat) : Bool :=
  bitsAt d 416 96 == 0 && bitsAt d 386 11 == 0 && bitsAt d 288 32 == 0 &&
    ((List.range 3).all fun k => decide (k < rowSources fn) || d.src k == 0) &&
    (!d.psel || fn == 1) && (d.psel || d.pattern == 0) && decide (d.len ≤ 1048576)

/-- The operand addresses a function uses, in the order of R298. -/
def RowDesc.operands (d : RowDesc) (fn : Nat) : List Word := d.dst :: (List.range (rowSources fn)).map fun k => d.src k

/-! ### The push (R298, R299) -/

/-- The row-operation queue takes a command; it holds 4. -/
def Core.pushRow (c : Core) (fn : Nat) (d : RowDesc) : Option Core :=
  if 4 ≤ c.rows.length then none
  else some { c with rows := c.rows ++ [{ fn := fn, desc := d, tag := c.sys.ctx, begun := false, fills := [], fast := 0,
                                          fall := 0, status := 0, lines := [] }] }

/-- The push of a checked descriptor. It performs every earlier store of the SQ at DEVICE scope (R299). While the queue is full the
entry keeps what was checked (DEDUCED, log entry 49: a write of the descriptor that is not ordered before the push may be seen or not, R245). -/
def State.pushKept (s : State) (e : QEntry) (fn : Nat) (d : RowDesc) : Attempt :=
  match s.core.pushRow fn d with
  | some c => .done ((s.withCore c).performAll s.cur)
  | none =>
    if e.caps.isEmpty then
      .wait (s.withCore (s.core.setSide false ({ e with caps := (List.range 8).map fun k => BitVec.ofNat 64 (bitsAt d (64 * k) 64) } ::
        (s.core.side false).drop 1)))
    else .block s

/-- The descriptor that an entry keeps. -/
def QEntry.kept (e : QEntry) : RowDesc := BitVec.ofNat 512 (leNat (e.caps.flatMap fun v => leBytes 8 v.toNat))

/-- The checks of R298 on a descriptor, and the push. -/
def State.pushChecked (s : State) (e : QEntry) (fn : Nat) (d : RowDesc) : Attempt :=
  if !RowDesc.wf d fn then e.refused s
  else if RowDesc.len d = 0 ∨ RowDesc.len d % 1024 ≠ 0 then .trap s causeAlign 5 (some (RowDesc.dst d))
  else match (RowDesc.operands d fn).find? fun v => v.toNat % 1024 != 0 with
    | some v => .trap s causeAlign 4 (some v)
    | none => s.pushKept e fn d

/-- A word of the row group with function code `fn` (R297, R298). -/
def rowWord (i : Instr) (fn : Nat) (imm : BitVec 8) (s : State) : Answer :=
  fullWord i false [] false true (fun s e =>
    let off := e.ea imm 64
    if !e.caps.isEmpty then s.pushKept e fn e.kept
    else if 2 ^ 23 ≤ off.toNat then e.refused s
    else if off.toNat % 64 ≠ 0 then .trap s causeAlign 2 (some off)
    else match s.inspectLocal placeSp off.toNat 64 with
      | (s, some inj) => .dead (s.consumed inj)
      | (s, none) => s.pushChecked e fn (BitVec.ofNat 512 (leNat (s.core.spBytes off.toNat 64)))) s

/-- ROWCOPY (R297). -/
def execRowcopy (wp sp : Bool) (a : BitVec 4) (imm : BitVec 8) (s : State) : Answer :=
  rowWord (.rowcopy wp sp a imm) 0 imm s

/-- ROWFILL (R297). -/
def execRowfill (wp sp : Bool) (a : BitVec 4) (imm : BitVec 8) (s : State) : Answer :=
  rowWord (.rowfill wp sp a imm) 1 imm s

/-- ROWAND (R297). -/
def execRowand (wp sp : Bool) (a : BitVec 4) (imm : BitVec 8) (s : State) : Answer :=
  rowWord (.rowand wp sp a imm) 2 imm s

/-- ROWOR (R297). -/
def execRowor (wp sp : Bool) (a : BitVec 4) (imm : BitVec 8) (s : State) : Answer :=
  rowWord (.rowor wp sp a imm) 3 imm s

/-- ROWXOR (R297). -/
def execRowxor (wp sp : Bool) (a : BitVec 4) (imm : BitVec 8) (s : State) : Answer :=
  rowWord (.rowxor wp sp a imm) 4 imm s

/-- ROWNOT (R297). -/
def execRownot (wp sp : Bool) (a : BitVec 4) (imm : BitVec 8) (s : State) : Answer :=
  rowWord (.rownot wp sp a imm) 5 imm s

/-- ROWMAJ (R297). -/
def execRowmaj (wp sp : Bool) (a : BitVec 4) (imm : BitVec 8) (s : State) : Answer :=
  rowWord (.rowmaj wp sp a imm) 6 imm s

end Sys2Proof.Machine
end

