-- ==== Sys2Proof/Machine/Faults.lean ====
section
/-! DEFINITION. The service of faults (R285, R286, R354 to R356): walks, A and D bits, compressed pages, materialisation
(R256 to R258), page requests and their answers, and translation for the units that wait for none of it. -/

namespace Sys2Proof.Machine

/-! ### Requesters -/

/-- The number of an engine of a core as a requester: units 0 to 15 are block-transfer channels, 16 the row engine, 17 the
overlay loader. -/
def engineSource (core unit : Nat) : Nat := 256 + core * 32 + unit

/-- The source number a record carries for a requester (R355). -/
def sourceNumber (x : Nat) : Nat := if 256 ≤ x then (x - 256) / 32 else x

/-- The core a requester belongs to. -/
def requesterCore (x : Nat) : Option (Fin 96) := if sourceNumber x < 96 then some (coreOf (sourceNumber x)) else none

/-- Changes the pending faults of every core. -/
def State.mapFaults (s : State) (g : List PendingFault → List PendingFault) : State :=
  { s with cores := s.cores.map fun c => if c.faults.isEmpty then c else { c with faults := g c.faults } }

/-- Declines the faults that a test names. -/
def declineAll (hit : PendingFault → Bool) (l : List PendingFault) : List PendingFault :=
  l.map fun f => if hit f then { f with declined := true } else f

/-- A fault that cannot be served: the requester is told. -/
def State.refuse (s : State) (ev : Instr) (source : Nat) : State :=
  if 256 ≤ source then { s with pages := { s.pages with failed := source :: s.pages.failed } }
  else s.mapFaults (declineAll (·.event == ev))

/-- A fault turns into another one, which is served in its stead (R354). -/
def State.convert (s : State) (ev new : Instr) : State :=
  let s := s.mapFaults fun l => l.map fun f => if f.event == ev then { f with event := new } else f
  if s.agenda.any (·.instr == new) then s else s.post new

/-- The cores for which a fault is served: those that wait for it, and the core that the event speaks for. -/
def State.waitersOf (s : State) (ev : Instr) : List (Fin 96) :=
  s.cur :: ((List.finRange 96).filter fun i => (s.cores[i]).faults.any fun f => f.event == ev)

/-! ### Walks and PTE bits (R285, R286) -/

/-- A translation enters the TLB of a core and the walk cache of its die. -/
def State.fillXlat (s : State) (i : Fin 96) (e : XlatEntry) : State :=
  let c := s.cores[i]
  ({ s with cores := s.cores.set i { c.mend partTlb e.page 1 with caches := { c.caches with tlb := e :: c.caches.tlb } } }).cacheEntry (some (dieOf i.val)) e

/-- WALK_MISS (R285): the tables are read. What the walk ends with decides: a translation, a declined fault, a compressed page, or a
page request. An uncorrectable error in a table is handled and the fault declined (R371). -/
def execWalkMiss (req : FaultReq) (s : State) : Answer :=
  let ev := Instr.walkMiss req
  let r := s.serveWalk ((requesterCore req.source).map fun i => dieOf i.val) req.root req.va
  .next (match r.2 with
    | .leaf e => (match requesterCore req.source with
      | some i => (r.1.fillXlat i e).served ev
      | none => r.1.served ev)
    | .declined => r.1.refuse ev req.source
    | .compressed pte => r.1.convert ev (.compressedFault req pte)
    | .invalid => r.1.convert ev (.pageRequest req (if req.write then 1 else 0))
    | .bad _ => r.1.refuse ev req.source)

/-- The entry that a service is about cannot be read: copies of it go, and the walk that follows is declined (R371). -/
def State.lostPte (s : State) (ev : Instr) (pte : Nat) : State := (s.dropXlat (·.pteAddr == pte)).served ev

/-- The service of an accessed or a dirty fault: an entry that is no valid leaf any more is read afresh. -/
def State.serveMark (s : State) (ev : Instr) (pte : Nat) (write : Bool) : State :=
  match s.tableRead pte with
  | (s, none) => s.lostPte ev pte
  | (s, some p) => (if pteV p && pteL p then s.markPte (s.waitersOf ev) pte write else s.rereadPte (s.waitersOf ev) pte).served ev

/-- ACCESSED_FAULT (R286). -/
def execAccessedFault (pte : Nat) (s : State) : Answer := .next (s.serveMark (.accessedFault pte) pte false)

/-- DIRTY_FAULT (R286). -/
def execDirtyFault (pte : Nat) (s : State) : Answer := .next (s.serveMark (.dirtyFault pte) pte true)

/-! ### Pages of memory -/

/-- The entries of a store in `[lo, lo + n)`. -/
def sliceOf {w : Nat} (m : Sparse w) (lo n : Nat) : Sparse w := keepBelow (dropTo m lo) (lo + n)

/-- Copies `n` values inside a store. -/
def copyWithin {w : Nat} (m : Sparse w) (src dst n : Nat) : Sparse w :=
  keepBelow m dst ++ ((sliceOf m src n).map fun e => (e.1 - src + dst, e.2)) ++ dropTo m (dst + n)

/-- Sets `n` values of a store to zero. -/
def clearIn {w : Nat} (m : Sparse w) (dst n : Nat) : Sparse w := keepBelow m dst ++ dropTo m (dst + n)

/-- The copies of a page that hold an uncorrectable error which a read would consume, the first of them. -/
def MemorySystem.badLine (m : MemorySystem) (page : Nat) : Option Nat :=
  (m.marks.find? fun k => decide (k.place ≤ placeDram) && k.key / 1024 == page && m.poisoned k.key).map (·.key)

/-- A page of memory is written whole by an engine: errors in its words go, and every cached copy (R300, R368). -/
def State.pageWritten (s : State) (page : Nat) : State :=
  let s := s.discardPage page
  s.setMem { s.mem with marks := s.mem.marks.filter fun k => !(k.place == placeDram && k.key / 1024 == page) }

/-- A source row as the row engine reads it: the Cistern's data, or DRAM's (R300). -/
def State.rowSource (s : State) : Nat → Nat → State × Except (Nat × ErrorPlace × Bool) (List Byte)
  | 0, _ => (s, .ok [])
  | n + 1, key =>
    match s.inspectCistern key with
    | (s, some (p, inj)) => (s, .error (key, p, inj))
    | (s, none) =>
      let x := match s.mem.cisternAt key with
        | some c => c.data
        | none => s.mem.dramLine key
      match s.rowSource n (key + 1) with
      | (s, .ok bs) => (s, .ok (vecBytes x ++ bs))
      | r => r

/-- Lines read by ordinary reads through the Cistern of their home site (R256). -/
def State.readThrough (s : State) : Nat → Nat → State × Except (Nat × ErrorPlace × Bool) (List Byte)
  | 0, _ => (s, .ok [])
  | n + 1, key =>
    match s.agentRead key with
    | (s, .bad p inj) => (s, .error (key, p, inj))
    | (s, .data x) =>
      match s.readThrough n (key + 1) with
      | (s, .ok bs) => (s, .ok (vecBytes x ++ bs))
      | r => r

/-- Every row of a page of DRAM is activated once. -/
def State.activatePage (s : State) (page : Nat) : State :=
  (List.range 64).foldl (fun s j => s.activateLine (page / 64 + 16 * j)) s

/-- A row of a page lies in a pseudo-channel that takes no activation (R292). -/
def State.pageHeld (s : State) (page : Nat) : Bool :=
  !(s.sites[siteOf (lineSite (page / 64))]).alerting.isEmpty && (List.range 64).any fun j => s.lineHeld (page / 64 + 16 * j)

/-- A page is written with the bytes given, by rows. -/
def State.putPage (s : State) (f : Nat) (bs : List Byte) : State :=
  ((s.setMem { s.mem with dram := pokeN (w := 8) s.mem.dram f bs }).pageWritten (f / 65536)).activatePage f

/-- The row engine fills page `f` with zeros (R256). -/
def State.zeroPage (s : State) (f : Nat) : State :=
  ((s.setMem { s.mem with dram := clearIn s.mem.dram f 65536 }).pageWritten (f / 65536)).activatePage f

/-- The row engine fills page `f` from page `p` (R256), whose lines have been cleaned at DEVICE scope and whose dirty lines in the Cistern are
written back, as for any row operation. Inside the row-intact region rows are read in DRAM; outside it each 1 KiB is read through the Cistern. -/
def State.fillPage (s : State) (p f : Nat) : State × Option (Nat × ErrorPlace × Bool) :=
  let s := (s.cleanDevice [(p, 65536)]).cleanSystem [(p, 65536)]
  if s.rowIntact p then
    let s := (s.mem.marks.filter fun k => decide (k.place ≤ placeDram) && k.key / 1024 == p / 65536).foldl
      (fun s k => (s.inspectCistern k.key).1) s
    ((((s.activatePage p).setMem { s.mem with dram := copyWithin s.mem.dram p f 65536 }).pageWritten (f / 65536)).activatePage f, none)
  else match s.readThrough 1024 (p / 64) with
    | (s, .error e) => (s, some e)
    | (s, .ok bs) => (s.putPage f bs, none)

/-! ### Heavy faults of a pool (R257, R286) -/

/-- The pool of a site is empty: the fault becomes a page request that names the site. -/
def State.poolEmpty (s : State) (ev : Instr) (req : FaultReq) (site : Nat) (kind : BitVec 4) : State :=
  s.convert ev (.pageRequest { req with site := site } kind)

/-! ### Materialisation (R256, R258) -/

/-- A tag's page enters the directory; A and D of the entry are set in the same service (R254). -/
def State.installPrivate (s : State) (who : List (Fin 96)) (key c f pte : Nat) : State :=
  (s.setTags { s.tags with dir := ((key, c), f) :: s.tags.dir, used := f :: s.tags.used }).markPte who pte true

/-- An error consumed on behalf of an access whose fault is being served (R371): the fault is declined. -/
def State.serviceError (s : State) (ev : Instr) (req : FaultReq) (line : Nat) (place : ErrorPlace) (injected : Bool) : State :=
  let who : Consumer := match requesterCore req.source with
    | some i => .item i req.tag
    | none => .host
  (s.post (.ownerHandling { place := place, line := line, consumer := who, injected := injected })).refuse ev req.source

/-- An error in the base page. -/
def State.baseError (s : State) (ev : Instr) (req : FaultReq) (line : Nat) : State :=
  match s.inspectLine line with
  | (s, some (p, inj)) => s.serviceError ev req line p inj
  | (s, none) => s.served ev

/-- A tag is LIVE or RETIRING. -/
def TagUnit.inUse (t : TagUnit) (c : Nat) : Bool := t.isLive c || t.tags.any fun e => e.1 == c

/-- The accesses that asked for a tag's page are owed it, even if the tag retires meanwhile (R269). -/
def State.oweAccess (s : State) (ev : Instr) (req : FaultReq) : State :=
  if 256 ≤ req.source then s.owe .seq req
  else ((s.cores[coreOf req.source]).faults.filter fun f => f.event == ev).foldl (fun s f => s.owe f.unit req) s

/-- A materialisation has its page. -/
def State.materialised (s : State) (ev : Instr) (req : FaultReq) (key f pte : Nat) : State :=
  ((s.installPrivate (s.waitersOf ev) key req.tag.toNat f pte).oweAccess ev req).served ev

/-- MATERIALISATION (R256), the entry `e` at `pte` having been read. A page that the tag holds by now is owed to the access as well (R269). It
waits for pseudo-channels that an alert holds (R292). -/
def State.materialise (s : State) (ev : Instr) (req : FaultReq) (pte : Nat) (e : Word) : State :=
  let base := ptePage e
  let zero := base == Machine.zeroPage
  let key := if zero then pte else base
  let site := if zero then bitsAt req.va 16 3 else lineSite (base / 64)
  if !pteV e || !pteT e || !s.tags.inUse req.tag.toNat then (s.rereadPte (s.waitersOf ev) pte).served ev
  else if (s.tags.ownPage? key req.tag.toNat).isSome then ((s.rereadPte (s.waitersOf ev) pte).oweAccess ev req).served ev
  else match s.tags.freePage site with
    | none => s.poolEmpty ev req site 2
    | some f =>
      if s.pageHeld f || (!zero && s.pageHeld base) then s.hold
      else if zero then (s.zeroPage f).materialised ev req key f pte
      else match s.mem.badLine (base / 65536) with
        | some line => s.baseError ev req line
        | none => match s.fillPage base f with
          | (s, none) => s.materialised ev req key f pte
          | (s, some (line, p, inj)) => s.serviceError ev req line p inj

/-- MATERIALISATION (R256). -/
def execMaterialisation (req : FaultReq) (pte : Nat) (s : State) : Answer :=
  .next (match s.tableRead pte with
    | (s, none) => s.refuse (.materialisation req pte) req.source
    | (s, some e) => s.materialise (.materialisation req pte) req pte e)

/-! ### Compressed pages (R286, R288) -/

/-- The place in a site's store that the HANDLE of an entry names (R284). -/
def State.imagePlace (s : State) (i : Fin 8) (p : Word) : Nat := bitsAt (s.tiers[i]).csbase 16 41 * 65536 + bitsAt p 12 45 * 4096

/-- A site's store holds an image where the HANDLE of an entry says. -/
def State.holdsImage (s : State) (i : Fin 8) (p : Word) : Bool := (s.tiers[i]).images.any fun x => x.place == s.imagePlace i p

/-- The site whose store an entry's HANDLE counts in: the rule names none. One that holds an image there which was stored for this
entry, else the one that VA[18:16] names where it holds one there, else the lowest that does, else that of VA[18:16] (DESIGN CHOICE,
log entry 21). -/
def State.imageSite (s : State) (va : Word) (pte : Nat) : Fin 8 :=
  let p := s.pteAt pte
  let near := siteOf (bitsAt va 16 3)
  match (List.finRange 8).find? fun i => (s.tiers[i]).images.any fun x => x.place == s.imagePlace i p && x.pte == pte with
  | some i => i
  | none => if s.holdsImage near p then near else ((List.finRange 8).find? fun i => s.holdsImage i p).getD near

/-- The image at a place goes from its store. -/
def TierUnit.dropImage (t : TierUnit) (place : Nat) : TierUnit := { t with images := t.images.filter (·.place != place) }

/-- An entry that maps a page at `f`, other bits kept (R286, R290). -/
def pteMapped (p : Word) (f : Nat) : Word := putBits (putBits p 11 46 0 ||| 1) 16 41 (f / 65536)

/-- `n` free values of 64 bits, as bytes. -/
def freeBytes (from_ : Nat) : Nat → List Byte
  | 0 => []
  | n + 1 => leBytes 8 (Config.freeWord from_).toNat ++ freeBytes (from_ + 1) n

/-- 64 KiB that no rule fixes. -/
def State.freePageBytes (s : State) : State × AgentData := ({ s with free := s.free + 8192 }, .bytes (freeBytes s.free 8192))

/-- The 64 KiB that the bytes at a place of a store stand for: the page whose image was put there, where they are still that image, and
free values where they are not (the compression is not described). -/
def State.readImage (s : State) (i : Fin 8) (place : Nat) : State × AgentData :=
  match (s.tiers[i]).images.find? (·.place == place) with
  | none => s.freePageBytes
  | some x =>
    match s.agentRun place (Config.compressedImage x.page).length with
    | (s, .bytes bs) => if bs = Config.compressedImage x.page then (s, .bytes x.page) else s.freePageBytes
    | r => r

/-- An image of a site's store is expanded into page `f`, and its store space is freed; an error in the image is given back. -/
def State.expand (s : State) (who : List (Fin 96)) (i : Fin 8) (pte f : Nat) : State × Option (Nat × ErrorPlace × Bool) :=
  let place := s.imagePlace i (s.pteAt pte)
  match s.readImage i place with
  | (s, .bad line p inj) => (s, some (line, p, inj))
  | (s, .bytes bs) =>
    let s := { s with tiers := s.tiers.set i ((s.tiers[i]).dropImage place) }
    ((s.putPage f bs).writePte who pte (pteMapped (s.pteAt pte) f), none)

/-- A page of a pool is in use. -/
def State.usePage (s : State) (f : Nat) : State := s.setTags { s.tags with used := f :: s.tags.used }

/-- The service of a compressed page whose entry, `p`, has been read. -/
def State.decompress (s : State) (ev : Instr) (req : FaultReq) (pte : Nat) (p : Word) : State :=
  let i := s.imageSite req.va pte
  if pteV p || !pteImage p 0 then s.served ev
  else match s.tags.freePage i.val with
    | none => s.poolEmpty ev req i.val 3
    | some f =>
      if s.pageHeld f then s.hold
      else match s.expand (s.waitersOf ev) i pte f with
        | (s, none) => (s.usePage f).served ev
        | (s, some (line, p, inj)) => s.serviceError ev req line p inj

/-- COMPRESSED_FAULT (R286). -/
def execCompressedFault (req : FaultReq) (pte : Nat) (s : State) : Answer :=
  .next (match s.tableRead pte with
    | (s, none) => s.refuse (.compressedFault req pte) req.source
    | (s, some p) => s.decompress (.compressedFault req pte) req pte p)

/-! ### Page requests (R355, R356) -/

/-- Two faults share one request: root, page, tag and kind agree. -/
def sameRequest (a : FaultReq) (ka : BitVec 4) (b : FaultReq) (kb : BitVec 4) : Bool :=
  a.root == b.root && a.va.toNat / 65536 == b.va.toNat / 65536 && a.tag == b.tag && ka == kb

/-- The 32 bytes of a record (R355): a pool kind names the site. -/
def pageRecord (gts rid : Nat) (gen : BitVec 16) (req : FaultReq) (kind : BitVec 4) : List Byte :=
  leBytes 8 gts ++ leBytes 8 (rid + gen.toNat * 2 ^ 16 + sourceNumber req.source * 2 ^ 32 + kind.toNat * 2 ^ 40 +
    req.tag.toNat * 2 ^ 48) ++ leBytes 8 (if kind.toNat < 2 then req.va.toNat else req.site) ++ leBytes 8 req.root

/-- The lowest identifier that no outstanding request holds, at or after `k`, among `n`. -/
def PageUnit.freeRid (p : PageUnit) : Nat → Nat → Option Nat
  | 0, _ => none
  | n + 1, k => if p.outstanding.any (·.rid == k) then p.freeRid n (k + 1) else some k

/-- PRLOG lies in its range (R14). -/
def PageUnit.sized (p : PageUnit) : Bool := decide (4 ≤ bitsAt p.base 0 4 ∧ bitsAt p.base 0 4 ≤ 12)

/-- There is room for a record. -/
def PageUnit.room (p : PageUnit) : Bool := decide ((p.prtail - p.prhead).toNat < 2 ^ bitsAt p.base 0 4)

/-- The identifier that the next record takes; none where it has to wait. -/
def PageUnit.nextRid (p : PageUnit) : Option Nat := if p.room then p.freeRid 1024 0 else none

def State.setPages (s : State) (p : PageUnit) : State := { s with pages := p }

/-- Raises a vector of the host (R391). -/
def State.interrupt (s : State) (v : Nat) : State :=
  { s with mgmt := { s.mgmt with interrupts := s.mgmt.interrupts ++ [v] } }

/-- The requester of a page request has ended: a core whose fault is gone. -/
def State.requestGone (s : State) (req : FaultReq) (kind : BitVec 4) : Bool :=
  decide (req.source < 96) && !(s.cores[coreOf req.source]).faults.any fun f => f.event == .pageRequest req kind

/-- A requester joins a request that its fault matches. -/
def PageReq.join (r : PageReq) (req : FaultReq) (kind : BitVec 4) : PageReq :=
  if sameRequest r.req r.kind req kind && !r.waiters.contains req.source then { r with waiters := r.waiters ++ [req.source] }
  else r

/-- A request waits for room; it keeps the time at which its fault was taken. -/
def PageUnit.defer (p : PageUnit) (req : FaultReq) (kind : BitVec 4) (gts : Nat) : PageUnit :=
  { p with waiting := p.waiting ++ [{ req := req, kind := kind, gts := gts }] }

/-- The time at which the fault of a request was taken: now, unless it has waited. -/
def PageUnit.since (p : PageUnit) (req : FaultReq) (kind : BitVec 4) (now : Nat) : Nat :=
  match p.waiting.find? fun w => w.req == req && w.kind == kind with
  | some w => w.gts
  | none => now

/-- PAGE_REQUEST (R355). -/
def execPageRequest (req : FaultReq) (kind : BitVec 4) (s : State) : Answer :=
  let since := s.pages.since req kind s.clock.gts
  let p := { s.pages with waiting := s.pages.waiting.filter fun w => !(w.req == req && w.kind == kind) }
  .next (
    if s.requestGone req kind then s.setPages p
    else if p.outstanding.any (fun r => sameRequest r.req r.kind req kind) then
      s.setPages { p with outstanding := p.outstanding.map (·.join req kind) }
    else if !p.sized then
      (if p.logged then s else s.control!).setPages { p.defer req kind since with logged := true }
    else match p.nextRid with
      | none => s.setPages (p.defer req kind since)
      | some rid =>
        let gen : BitVec 16 := peek p.gens rid + 1
        let slot := bitsAt p.base 12 45 * 2 ^ 12 + 32 * (p.prtail.toNat % 2 ^ bitsAt p.base 0 4)
        let s := s.setPages { p with
          prtail := p.prtail + 1
          gens := poke p.gens rid gen
          outstanding := p.outstanding ++ [{ rid := rid, gen := gen, req := req, kind := kind, waiters := [req.source] }] }
        (s.recordStore (hostPlace slot) (pageRecord since rid gen req kind)).interrupt 16)

/-- Frees an identifier; requests that wait for one are tried again. -/
def State.freeRequest (s : State) (rid : Nat) : State :=
  (s.setPages { s.pages with outstanding := s.pages.outstanding.filter (·.rid != rid) }).retryPages

/-- The faults of a request's waiting cores. -/
def PageReq.covers (r : PageReq) (f : PendingFault) : Bool :=
  match f.event with
  | .pageRequest q k => sameRequest r.req r.kind q k && r.waiters.contains q.source
  | _ => false

/-- A materialisation whose pool was empty is tried again (R257): those that cores wait for, and those of engines. -/
def State.retryPool (s : State) (r : PageReq) : State :=
  let again := s.cores.toList.flatMap fun c => (c.faults.filter r.covers).map (·.origin)
  let s := s.mapFaults fun l => l.map fun f => if r.covers f then { f with event := f.origin } else f
  let s := again.eraseDups.foldl (fun s ev => if s.agenda.any (·.instr == ev) then s else s.post ev) s
  (r.waiters.filter fun x => decide (256 ≤ x)).foldl (fun s x => match s.serveWalk (some (dieOf (sourceNumber x))) r.req.root r.req.va with
    | (s, .leaf e) => s.post (.materialisation { r.req with source := x, site := 0 } e.pteAddr)
    | (s, _) => s) s

/-- PAGE_REQUEST_SUCCESS (R356): every waiting requester translates afresh; where a pool was empty, the materialisation is tried again. -/
def execPageRequestSuccess (rid gen : BitVec 16) (s : State) : Answer :=
  .next (match s.pages.outstanding.find? fun r => r.rid == rid.toNat && r.gen == gen with
    | none => s.control!
    | some r =>
      (if r.kind = 2 then s.retryPool r else s.mapFaults (·.filter fun f => !r.covers f)).freeRequest r.rid)

/-- PAGE_REQUEST_FAILURE (R356): every waiting requester is declined. -/
def execPageRequestFailure (rid gen : BitVec 16) (s : State) : Answer :=
  .next (match s.pages.outstanding.find? fun r => r.rid == rid.toNat && r.gen == gen with
    | none => s.control!
    | some r =>
      let s := s.mapFaults (declineAll r.covers)
      (s.setPages { s.pages with failed := s.pages.failed ++ r.waiters.filter fun x => decide (256 ≤ x) }).freeRequest r.rid)

/-- Requesters that have ended wait no more; a request that nobody waits for gives its identifier back (R356). -/
def State.forgetRequests (s : State) (gone : Nat → Bool) : State :=
  let p := s.pages
  let left := p.outstanding.map fun r => { r with waiters := r.waiters.filter fun x => !gone x }
  (s.setPages { p with
    outstanding := left.filter fun r => !r.waiters.isEmpty
    waiting := p.waiting.filter fun w => !gone w.req.source
    failed := p.failed.filter fun x => !gone x }).retryPages

/-! ### Engines (R244, R300, R354) -/

/-- How an engine's access translates: an address, a wait, or failed service. -/
inductive EngineXlat where
  | pa (a : Nat) (owner : Tag) (e : XlatEntry)
  | wait (s : State)
  | fail (s : State)
  deriving DecidableEq, Repr

/-- A page request of this requester stands out or waits. -/
def PageUnit.awaits (p : PageUnit) (source : Nat) : Bool :=
  p.outstanding.any (fun r => r.waiters.contains source) || p.waiting.any fun w => w.req.source == source

/-- An engine waits for an event, which is posted once. -/
def State.engineWait (s : State) (ev : Instr) : EngineXlat := .wait (if s.agenda.any (·.instr == ev) then s.hold else s.post ev)

/-- Translation for an engine of a core: it suspends on a fault and asserts no stall wire. -/
def State.engineXlat (s : State) (core source root : Nat) (va : Word) (tag : Tag) (k : Kind) : EngineXlat :=
  if s.pages.failed.contains source then .fail (s.setPages { s.pages with failed := s.pages.failed.filter (· != source) })
  else if s.pages.awaits source then .wait s.hold
  else if !canonical va then .fail s
  else match s.translateFor core source root va tag k with
    | .pa a e => .pa a (s.tags.ownerOf a) e
    | .light ev => s.engineWait ev
    | .trap _ => .fail s
    | .stall => .wait s.hold

/-! ### The Sluice (R39, R43, R48) -/

/-- Translation for the Sluice and the walker, which wait for no fault: a compressed page is expanded at once. -/
def State.sluiceXlat (s : State) (root : Nat) (va : Word) (k : Kind) : State × AgentXlat :=
  if !canonical va then (s, .fail)
  else match s.serveWalk none root va with
  | (s, .compressed pte) =>
    (match s.tags.freePage (s.imageSite va pte).val with
     | some f =>
       (match s.expand [] (s.imageSite va pte) pte f with
        | (s, none) => (s.usePage f).agentXlat root va 0 k
        | (s, some (line, p, inj)) =>
          (s.post (.ownerHandling { place := p, line := line, consumer := .host, injected := inj }), .fail))
     | none => (s, .fail))
  | (s, w) => s.agentWalked w root va 0 k

/-- What a read of the Sluice gives. -/
inductive SluiceRead where
  | bytes (bs : List Byte)
  | fault
  | wait
  | bad (line : Nat) (place : ErrorPlace) (injected : Bool)
  deriving DecidableEq, Repr

/-- Bytes that the Sluice reads where they lie: in memory, in the zero page or in the heat window. Registers and the local-engine page take no
such access (R231, R274), and a read there fails as one without a translation (DESIGN CHOICE, log entry 53). -/
def State.sluiceBytes (s : State) (pa n : Nat) : State × SluiceRead :=
  match s.mem.region pa with
  | .regs => (s, .fault)
  | .localPage => (s, .fault)
  | .heat => (s, .bytes ((List.range n).map fun k => s.mem.heatByte (pa + k)))
  | _ => match s.agentRun pa n with
    | (s, .bad line p inj) => (s, .bad line p inj)
    | (s, .bytes bs) => (s, .bytes bs)

/-- A read by the Sluice, cut at lines. -/
def State.sluiceRead (s : State) (root : Nat) : Word → Nat → Nat → State × SluiceRead
  | _, 0, _ => (s, .bytes [])
  | va, fuel + 1, n =>
    if n = 0 then (s, .bytes [])
    else
      let k := min n (64 - va.toNat % 64)
      match s.sluiceXlat root va .read with
      | (s, .wait) => (s, .wait)
      | (s, .pa a) =>
        if s.siteHolds a then (s, .wait)
        else (match s.sluiceBytes a k with
         | (s, .bytes bs) =>
           (match s.sluiceRead root (va + BitVec.ofNat 64 k) fuel (n - k) with
            | (s, .bytes rest) => (s, .bytes (bs ++ rest))
            | r => r)
         | r => r)
      | (s, _) => (s, .fault)

end Sys2Proof.Machine
end

