-- ==== Sys2Proof/Machine/Sluice.lean ====
section
/-! DEFINITION. The Sluice (R38 to R46): queues, the order in which commands start, the kinds of commands but LAUNCH and
COLL, completion words, and the Weir (R47 to R50). -/

namespace Sys2Proof.Machine

/-! ### Commands (R41, R42) -/

def cmdKind (c : Command) : Nat := bitsAt c 0 8
def cmdW (c : Command) : Bool := c.getLsbD 8
def cmdIntr (c : Command) : Bool := c.getLsbD 9
def cmdTag (c : Command) : Nat := bitsAt c 32 32
def cmdWord (c : Command) : Word := BitVec.ofNat 64 (bitsAt c 64 64)
/-- RECADDR or COLLADDR. -/
def cmdAddr (c : Command) : Word := BitVec.ofNat 64 (bitsAt c 128 64)
def cmdTset (c : Command) : BitVec 96 := BitVec.ofNat 96 (bitsAt c 192 96)
def cmdDev (c : Command) : Nat := bitsAt c 288 3
def cmdCmp (c : Command) : BitVec 3 := BitVec.ofNat 3 (bitsAt c 136 3)
def cmdValue (c : Command) : Word := BitVec.ofNat 64 (bitsAt c 192 64)
def cmdMask (c : Command) : Word := BitVec.ofNat 64 (bitsAt c 256 64)
/-- WADDR or SADDR. -/
def cmdTarget (c : Command) : Word := BitVec.ofNat 64 (bitsAt c 320 64)
def cmdBound (c : Command) : Word := BitVec.ofNat 64 (bitsAt c 384 64)

/-- Bits of a command that are fields of its kind, as (lowest bit, width). -/
def cmdFields (kind : Nat) : List (Nat × Nat) :=
  match kind with
  | 1 => [(128, 64), (192, 96), (288, 3)]
  | 2 => [(128, 64)]
  | 3 => [(128, 8), (136, 3), (140, 4), (192, 64), (256, 64), (320, 64)]
  | 4 => [(128, 8), (136, 2), (192, 64), (320, 64)]
  | 5 => [(128, 16)]
  | 6 => [(128, 6), (134, 1), (135, 1), (136, 3), (144, 4), (192, 64), (256, 64), (320, 64), (384, 64)]
  | _ => []

/-- The command with its fields cleared: what is left is reserved. -/
def cmdReserved (c : Command) : BitVec 512 :=
  (((0, 10) :: (32, 96) :: cmdFields (cmdKind c)).foldl (fun x f => putBits x f.1 f.2 0) c)

/-- What R41 asks of a command beside its kind's own limits: reserved fields zero, a known kind and an aligned word. -/
def cmdCommonOk (c : Command) : Bool :=
  decide (1 ≤ cmdKind c ∧ cmdKind c ≤ 7) && cmdReserved c == 0 && (cmdWord c).toNat % 8 == 0

/-- The limits of a kind's own fields (R41, R42). The fields of WAIT that R42 marks WORD only are ignored in the other WAITs
(DESIGN CHOICE, log entry 48). -/
def cmdKindOk (c : Command) : Bool :=
  match cmdKind c with
  | 1 => (cmdAddr c).toNat % 64 == 0
  | 2 => (cmdAddr c).toNat % 64 == 0
  | 3 => (match bitsAt c 128 8 with
    | 0 => true
    | 1 => decide ((cmdCmp c).toNat < 6) && (cmdTarget c).toNat % 8 == 0
    | 2 => true
    | _ => false)
  | 4 => decide (bitsAt c 128 8 < 2) && decide (2 ≤ bitsAt c 136 2) && (cmdTarget c).toNat % 8 == 0
  | 6 => c.getLsbD 135 || (decide ((cmdCmp c).toNat < 6) && (cmdTarget c).toNat % 8 == 0)
  | _ => true

def cmdOk (c : Command) : Bool := cmdCommonOk c && cmdKindOk c

/-- The step that starts a command; a command of a reserved kind starts and completes as R41 says. -/
def commandStep (q : Fin 16) (c : Command) : Instr :=
  match cmdKind c with
  | 1 => .launch q c
  | 2 => .coll q c
  | 3 => (match bitsAt c 128 8 with
    | 1 => .waitWord q c
    | 2 => .waitQevent q c
    | _ => .waitGts q c)
  | 4 => if bitsAt c 128 8 = 1 then .signalAdd q c else .signalStore q c
  | 5 => .phasefence q c
  | 6 => if c.getLsbD 135 then .disarm q c else .arm q c
  | _ => .marker q c

/-! ### Queues (R38, R39, R45, R46) -/

/-- Statuses of R44. -/
def stOk : Nat := 1
def stFault : Nat := 2
def stUe : Nat := 3
def stKilled : Nat := 4
def stTimeout : Nat := 5
def stMismatch : Nat := 6
def stLinkLost : Nat := 7

def State.setControl (s : State) (c : ControlPlane) : State := { s with control := c }

def State.queue (s : State) (q : Nat) : SluiceQueue := s.control.queues[queueOf q]

/-- The root of a queue's address space. -/
def State.queueRoot (s : State) (q : Nat) : Nat := (s.queue q).rootPa

/-- The command that a queue's head is: a fired one that stands before the next ring command, else that one. -/
def State.headCommand (s : State) (q : SluiceQueue) : Option Command :=
  let ring : Option Command :=
    if q.head = q.tail then none else some (s.mem.lineAt (q.slot q.head.toNat / 64))
  match q.fired with
  | (c, t) :: _ => if t = q.head then some c else ring
  | [] => ring

/-- Effective priority (R46). -/
def SluiceQueue.effective (q : SluiceQueue) : Nat := min 3 (q.prio + q.aged)

/-- The switch to full service is due: the Sluice starts nothing until it has been made (R398). -/
def State.switching (s : State) : Bool := s.mgmt.stage == .stage1 && s.siteUp == 255

/-- The slot of the head is at a site that has not joined: its read waits (R397). -/
def State.slotHeld (s : State) (q : SluiceQueue) : Bool := q.ringNext && s.siteHolds (q.slot q.head.toNat)

/-- The step that a ready head would be started by (R46), but for the switch of stage. -/
def State.headWants (s : State) (i : Fin 16) : Option Instr :=
  let q := s.control.queues[i]
  if s.mgmt.stage = .stage0 ∨ s.mgmt.idle ≠ 0 ∨ !q.enabled ∨ q.error ∨ !q.sized ∨ q.starting.isSome then none
  else if s.slotHeld q then none
  else if s.ringBad q then some (.doorbell i q.tail)
  else match s.headCommand q with
    | none => none
    | some c =>
      if cmdW c && s.control.commands.any (fun a => a.queue == i.val) then none
      else if cmdOk c && cmdKind c == 1 && s.control.job.isSome then none
      else if cmdOk c && cmdKind c == 2 && decide (8 ≤ s.fabric.colls.length) then none
      else some (commandStep i c)

/-- How far queue `i` lies behind the queue last started at its effective priority: 1 is next. -/
def State.turnOf (s : State) (i : Fin 16) : Nat :=
  let last := lookupD 15 s.control.lastServed (s.control.queues[i]).effective
  (i.val + 15 - last) % 16

/-- The better of two ready heads. -/
def State.betterHead (s : State) (a b : Fin 16 × Instr) : Fin 16 × Instr :=
  let pa := (s.control.queues[a.1]).effective
  let pb := (s.control.queues[b.1]).effective
  if pa < pb ∨ (pa = pb ∧ s.turnOf b.1 < s.turnOf a.1) then b else a

/-- Heads that are ready, but for the switch of stage: they age (R46, R398). -/
def State.agingHeads (s : State) : List (Fin 16 × Instr) :=
  (List.finRange 16).filterMap fun i => (s.headWants i).map fun x => (i, x)

/-- The ready heads: none while the stage switches (R398). -/
def State.readyHeads (s : State) : List (Fin 16 × Instr) := if s.switching then [] else s.agingHeads

/-- The head that the Sluice starts next (R46). -/
def State.sluiceNext (s : State) : Option (Fin 16 × Instr) :=
  match s.readyHeads with
  | [] => none
  | h :: rest => some (rest.foldl s.betterHead h)

/-- A doorbell wakes an idle device (R399). -/
def State.rouse (s : State) (w : WakeCause) : State := if s.mgmt.idle = 0 then s else s.postOnce (.wake w)

/-- A queue that is not served has a LOGSIZE out of range: what depends on it is not done, and its first use is logged (R14). -/
def State.flagSize (s : State) (i : Fin 16) : State :=
  let q := s.control.queues[i]
  if q.flagged then s else s.control!.setQueue i { q with flagged := true }

/-- DOORBELL (R39). A ring whose LOGSIZE is out of range has no size to check against: a served queue is stopped for it, and for
another the doorbell is ignored (R14). -/
def execDoorbell (i : Fin 16) (t : BitVec 32) (s : State) : Answer :=
  let q := s.control.queues[i]
  .next (
    if !q.sized then (if q.enabled then s.ringCheck i else s.flagSize i)
    else if (t - q.head).toNat ≤ 2 ^ q.logSize ∧ (t - q.tail).toNat ≤ 2 ^ q.logSize then
      (((s.setQueue i { q with tail := t }).ringCheck i).wakeHeld).rouse .doorbell
    else s.stopQueue i 1)

/-- ERROR_CLEAR (R38). -/
def execErrorClear (s : State) : Answer :=
  let q := s.control.queues[s.focus.queue]
  .next ((s.setQueue s.focus.queue { q with error := false, errcode := 0 }).ringCheck s.focus.queue)

/-- PRIORITY_AGING (R46): the head has stood ready for another whole 2 ms. -/
def execPriorityAging (s : State) : Answer :=
  let q := s.control.queues[s.focus.queue]
  .next (if (q.aged + 1) * 2000000 ≤ q.headSince then s.setQueue s.focus.queue { q with aged := q.aged + 1 } else s.hold)

/-! ### Starting and completing commands (R43 to R45) -/

/-- A Weir entry's focus. -/
def entryFocus (n : Nat) : Focus := { Focus.zero with entry := ⟨n % 64, Nat.mod_lt _ (by decide)⟩ }

/-- Space has freed in a queue's FIFO: the entries that hold a pending firing for it try again (R49). PENDING_FIRING lets the lowest entry
go first, which R49 says of firings of one cycle only (DESIGN CHOICE, log entry 26). -/
def State.retryFirings (s : State) (q : Nat) : State :=
  s.control.firings.foldl (fun s f =>
    if f.stage == .pending && f.tq == q then s.postFor (entryFocus f.entry) s.now .pendingFiring else s) s

/-- The slot of the head is read at SYSTEM scope (R40, R280). -/
def State.readSlot (s : State) (q : SluiceQueue) : State :=
  if q.ringNext && s.slotOk q (q.slot q.head.toNat) then (s.agentRead (q.slot q.head.toNat / 64)).1 else s

/-- The head leaves its queue: it has been read, and what comes next ages afresh. -/
def State.takeHead (s : State) (i : Fin 16) : State :=
  let s := s.readSlot s.control.queues[i]
  let q := { s.control.queues[i] with headSince := 0, aged := 0 }
  let served := assign s.control.lastServed (s.control.queues[i]).effective i.val
  let s := s.setControl { s.control with lastServed := served }
  match q.fired with
  | (_, t) :: rest =>
    if t = q.head then (s.setQueue i { q with fired := rest }).retryFirings i.val
    else s.setQueue i { q with head := if q.head = q.tail then q.head else q.head + 1 }
  | [] => s.setQueue i { q with head := if q.head = q.tail then q.head else q.head + 1 }

/-- A command starts: its number, and the state with it active. A blocking one, and a LAUNCH until the walker has
dispatched its last item, lets nothing else of its queue start. -/
def State.beginCommand (s : State) (i : Fin 16) (c : Command) (w : CmdWait) (holds : Bool) : Nat × State :=
  let id := s.control.nextCmd
  let s := s.takeHead i
  let q := s.control.queues[i]
  let s := s.setQueue i { q with starting := if holds then some id else q.starting }
  (id, s.setControl { s.control with
    nextCmd := id + 1
    commands := s.control.commands ++
      [{ id := id, queue := i.val, cmd := c, wait := w, left := 0, tags := [], ends := [], started := !holds }] })

/-- The focus that names a queue and nothing else. -/
def queueFocus (i : Fin 16) : Focus := { Focus.zero with queue := i }

/-- The completion word of a command (R44): the state after its write, or `none` beside a state in which the write waits for a
page in flight (R290) or a site that has not joined (R397). A word in the heat window is discarded (R291; log entry 26). -/
def State.writeCompletion (s : State) (root : Nat) (c : Command) (status detail : Nat) : State × Bool :=
  let va := cmdWord c
  if va = 0 then (s, true)
  else if va.toNat % 8 ≠ 0 then (s.control!, true)
  else match s.sluiceXlat root va .write with
    | (s, .pa a) =>
      if s.siteHolds a then (s, false)
      else if (s.mem.region a).cached then (s.agentStore a (leBytes 8 (status + detail * 2 ^ 8 + cmdTag c * 2 ^ 32)), true)
      else if s.mem.region a = .heat then (s, true)
      else (s.control!, true)
    | (s, .wait) => (s, false)
    | (s, .fail) => (s.control!, true)

/-- A started command waits in another way. -/
def State.awaitWith (s : State) (id : Nat) (w : CmdWait) : State :=
  s.setControl { s.control with commands := s.control.commands.map fun a => if a.id == id then { a with wait := w } else a }

/-- QDONE advances, the command is no longer active and the interrupt is raised (R44). -/
def State.leaveActive (s : State) (a : ActiveCmd) : State :=
  let i := queueOf a.queue
  let s := s.setControl { s.control with commands := s.control.commands.filter (·.id != a.id) }
  let q := s.control.queues[i]
  let s := s.setQueue i { q with
    qdone := q.qdone + 1, starting := if q.starting = some a.id then none else q.starting }
  if cmdIntr a.cmd then s.interrupt a.queue else s

/-- COMPLETION_WORD (R44): everything is performed at SYSTEM scope, the word is written, QDONE advances and the interrupt is
raised. A command whose word waits stays active, and tries again. -/
def State.completeOne (s : State) (a : ActiveCmd) (status detail : Nat) : State :=
  match s.writeBackAll.writeCompletion (s.queueRoot a.queue) a.cmd status detail with
  | (s, true) => s.leaveActive a
  | (s, false) => (s.awaitWith a.id (.completing status detail)).postFor (queueFocus (queueOf a.queue)) s.now (.marker (queueOf a.queue) a.cmd)

/-- A waiting command whose wait another command's completion may have ended. -/
def State.waitOver (s : State) (a : ActiveCmd) : Bool :=
  match a.wait with
  | .qevent => !(s.queue (bitsAt a.cmd 140 4)).qdone.ult (cmdValue a.cmd)
  | .fence ids => !s.control.commands.any fun b => ids.contains b.id
  | _ => false

/-- WAIT QEVENT and PHASEFENCE commands whose wait is over complete. -/
def State.settleWaits : Nat → State → State
  | 0, s => s
  | n + 1, s =>
    match s.control.commands.find? s.waitOver with
    | some a => (s.completeOne a stOk 0).settleWaits n
    | none => s

/-- A command completes, and with it what waited for it; requesters that replay holds are tried again (R390). -/
def State.finishCommand (s : State) (id status detail : Nat) : State :=
  match s.control.commands.find? (·.id == id) with
  | none => s
  | some a => ((s.completeOne a status detail).settleWaits s.control.commands.length).wakeHeld

/-- A command that starts and completes at once. -/
def State.finishNow (s : State) (i : Fin 16) (c : Command) (status detail : Nat) : State :=
  let r := s.beginCommand i c .items true
  r.2.finishCommand r.1 status detail

/-- A read for a command has consumed an uncorrectable error (R43, R371). -/
def State.commandError (s : State) (i : Fin 16) (line : Nat) (p : ErrorPlace) (inj : Bool) : State :=
  s.post (.ownerHandling { place := p, line := line, consumer := .command i, injected := inj })

/-- The commands of a queue that wait in one way. -/
def State.waiting (s : State) (i : Fin 16) (w : CmdWait) : Option ActiveCmd :=
  s.control.commands.find? fun a => a.queue == i.val && a.wait == w

/-- A SIGNAL or an ARM starts, or goes on where its accesses have waited: its number. -/
def State.beginAccess (s : State) (i : Fin 16) (c : Command) : Nat × State :=
  match s.waiting i .access with
  | some a => (a.id, s)
  | none => s.beginCommand i c .access true

/-- A SIGNAL or an ARM, begun from `old`, waits for memory, and tries again (R290, R397). -/
def State.accessWaits (s old : State) (i : Fin 16) (x : Instr) : State :=
  if (old.waiting i .access).isSome then s.hold else s.postFor (queueFocus i) s.now x

/-! ### WAIT (R43) -/

/-- Cycles of the clock in force that a number of nanoseconds takes, rounded up. -/
def State.cyclesFor (s : State) (ns : Nat) : Nat := (ns * s.clock.hertz - s.clock.frac + 999999999) / 1000000000

/-- WAIT GTS looks at the time: it completes, or looks again when GTS will have reached VALUE. -/
def State.lookGts (s : State) (i : Fin 16) (id : Nat) (c : Command) : State :=
  let v := (cmdValue c).toNat
  if v ≤ s.clock.gts then s.finishCommand id stOk 0
  else s.postFor (queueFocus i) (s.now + s.cyclesFor (v - s.clock.gts)) .waitGtsComplete

/-- WAIT_GTS (R43). -/
def execWaitGts (i : Fin 16) (c : Command) (s : State) : Answer :=
  .next (
    if !cmdOk c then s.finishNow i c stFault 2
    else
      let r := s.beginCommand i c .gts true
      r.2.lookGts i r.1 c)

/-- WAIT_GTS_COMPLETE (R43). -/
def execWaitGtsComplete (s : State) : Answer :=
  .next (match s.waiting s.focus.queue .gts with
    | some a => s.lookGts s.focus.queue a.id a.cmd
    | none => s)

/-- A read of an aligned word at DEVICE scope: its value, or an error. -/
inductive WordRead where
  | value (v : Word)
  | bad (line : Nat) (place : ErrorPlace) (injected : Bool)
  | wait
  deriving DecidableEq, Repr

/-- Reads an aligned 8-byte word for the Sluice, an agent of R280. -/
def State.readWord (s : State) (pa : Nat) : State × WordRead :=
  match s.mem.region pa with
  | .zero => (s, .value 0)
  | .heat => (s, .value (BitVec.ofNat 64 (leNat ((List.range 8).map fun k => s.mem.heatByte (pa + k)))))
  | _ =>
    if s.siteHolds pa then (s, .wait)
    else match s.agentRead (pa / 64) with
      | (s, .bad p inj) => (s, .bad (pa / 64) p inj)
      | (s, .data x) => (s, .value (BitVec.ofNat 64 (bitsAt x (8 * (pa % 64)) 64)))

/-- A physical address whose words the Sluice may read or write. -/
def State.wordAllowed (s : State) (pa : Nat) : Bool :=
  match s.mem.region pa with
  | .zero => true
  | .heat => true
  | r => r.cached

/-- WAIT WORD reads its word (R43). -/
def State.lookWord (s : State) (i : Fin 16) (id : Nat) (c : Command) : State :=
  let again (s : State) : State := s.postFor (queueFocus i) (s.now + s.clock.hertz / 1000000) .waitWordRead
  match s.sluiceXlat (s.queueRoot i.val) (cmdTarget c) .read with
  | (s, .fail) => s.finishCommand id stFault 0
  | (s, .wait) => again s
  | (s, .pa a) =>
    if !s.wordAllowed a then s.finishCommand id stFault 0
    else match s.readWord a with
      | (s, .bad line p inj) => (s.commandError i line p inj).finishCommand id stUe 0
      | (s, .wait) => again s
      | (s, .value v) => if weirHolds (cmdCmp c) v (cmdValue c) (cmdMask c) then s.finishCommand id stOk 0 else again s

/-- WAIT_WORD (R43). -/
def execWaitWord (i : Fin 16) (c : Command) (s : State) : Answer :=
  .next (
    if !cmdOk c then s.finishNow i c stFault 2
    else
      let r := s.beginCommand i c .word true
      r.2.lookWord i r.1 c)

/-- WAIT_WORD_READ (R43). -/
def execWaitWordRead (s : State) : Answer :=
  .next (match s.waiting s.focus.queue .word with
    | some a => s.lookWord s.focus.queue a.id a.cmd
    | none => s)

/-- WAIT_QEVENT (R43). -/
def execWaitQevent (i : Fin 16) (c : Command) (s : State) : Answer :=
  .next (
    if !cmdOk c then s.finishNow i c stFault 2
    else
      let r := s.beginCommand i c .qevent true
      r.2.settleWaits r.2.control.commands.length)

/-- PHASEFENCE (R43): it waits for the commands read so far from the queues it names. -/
def execPhasefence (i : Fin 16) (c : Command) (s : State) : Answer :=
  .next (
    if !cmdOk c then s.finishNow i c stFault 2
    else
      let ids := (s.control.commands.filter fun a => c.getLsbD (128 + a.queue)).map (·.id)
      let r := s.beginCommand i c (.fence ids) true
      r.2.settleWaits r.2.control.commands.length)

/-- A command of a queue whose completion word waits to be written. -/
def State.completing? (s : State) (i : Fin 16) (c : Command) : Option (ActiveCmd × Nat × Nat) :=
  s.control.commands.findSome? fun a => match a.wait with
    | .completing st d => if a.queue = i.val ∧ a.cmd = c then some (a, st, d) else none
    | _ => none

/-- A completion that has waited for its word tries again. -/
def State.completeAgain (s : State) (a : ActiveCmd) (st d : Nat) : State :=
  match s.writeBackAll.writeCompletion (s.queueRoot a.queue) a.cmd st d with
  | (s, true) => (s.leaveActive a).settleWaits s.control.commands.length
  | (s, false) => s.hold

/-- MARKER (R43); also what starts a command of a reserved kind (R41), and what completes a command whose completion word has
waited. -/
def execMarker (i : Fin 16) (c : Command) (s : State) : Answer :=
  .next (match s.completing? i c with
    | some (a, st, d) => s.completeAgain a st d
    | none => if cmdOk c then s.finishNow i c stOk 0 else s.finishNow i c stFault 2)

/-! ### SIGNAL (R43) -/

/-- A SIGNAL at a physical address: everything of completed commands is released first, and its own write is performed at SYSTEM
scope; `f` gives the new word from the old one. -/
def State.signalAt (s : State) (i : Fin 16) (id : Nat) (c : Command) (reads : Bool) (f : Word → Word) (a : Nat) : State :=
  let s := if bitsAt c 136 2 = 3 then s.writeBackAll else s
  let put (s : State) (v : Word) : State :=
    (if (s.mem.region a).cached then s.agentStore a (leBytes 8 v.toNat) else s).finishCommand id stOk 0
  if reads then
    (match s.agentRun a 8 with
     | (s, .bad line p inj) => (s.commandError i line p inj).finishCommand id stUe 0
     | (s, .bytes bs) => put s (f (BitVec.ofNat 64 (leNat bs))))
  else put s (f 0)

/-- A SIGNAL, which `x` is. -/
def State.signal (s : State) (i : Fin 16) (c : Command) (x : Instr) (reads : Bool) (f : Word → Word) : State :=
  if !cmdOk c then s.finishNow i c stFault 2
  else
    let r := s.beginAccess i c
    match r.2.sluiceXlat (s.queueRoot i.val) (cmdTarget c) .write with
    | (u, .fail) => u.finishCommand r.1 stFault 0
    | (u, .wait) => u.accessWaits s i x
    | (u, .pa a) =>
      if u.siteHolds a then u.accessWaits s i x
      else if u.wordAllowed a then u.signalAt i r.1 c reads f a
      else u.finishCommand r.1 stFault 0

/-- SIGNAL_STORE (R43). -/
def execSignalStore (i : Fin 16) (c : Command) (s : State) : Answer := .next (s.signal i c (.signalStore i c) false fun _ => cmdValue c)

/-- SIGNAL_ADD (R43). -/
def execSignalAdd (i : Fin 16) (c : Command) (s : State) : Answer := .next (s.signal i c (.signalAdd i c) true fun v => v + cmdValue c)

/-! ### The Weir (R47 to R50) -/

/-- Replaces or adds an entry; entries stand in ascending number. -/
def State.setEntry (s : State) (e : WeirEntry) : State :=
  s.setControl { s.control with weir := upsert (·.index) e s.control.weir, spent := s.control.spent.filter (· != e.index) }

/-- The entry is free; firings of it that have happened stand (R43), and a firing that replay holds for one of its own is tried again (R390). -/
def State.dropEntry (s : State) (n : Nat) : State :=
  (s.setControl { s.control with
    weir := s.control.weir.filter (·.index != n)
    spent := if s.control.weir.any (·.index == n) then n :: s.control.spent else s.control.spent }).wakeHeld

/-- The entry an ARM installs, the arming's own number with it. -/
def armedEntry (c : Command) (wa : Nat) (bound : Command) (serial : Nat) : WeirEntry :=
  { index := bitsAt c 128 6, rearm := c.getLsbD 134, cmp := cmdCmp c, tq := bitsAt c 144 4, value := cmdValue c, mask := cmdMask c,
    addr := wa, bound := bound, serial := serial }

/-- An entry is installed, in place of one of its number; it fires at once where its watched word, `v`, satisfies the compare (R48). -/
def State.installEntry (s : State) (e : WeirEntry) (v : Word) : State :=
  let s := (s.setControl { s.control with weirCount := s.control.weirCount + 1 }).setEntry e
  if weirHolds e.cmp v e.value e.mask then s.raiseFiring e else s

/-- An ARM reads the bound command and the watched word, and installs its entry. -/
def State.armAt (s : State) (i : Fin 16) (id : Nat) (c : Command) (wa : Nat) (waits : State → State) : State :=
  match s.sluiceRead (s.queueRoot i.val) (cmdBound c) 3 64 with
  | (s, .fault) => s.finishCommand id stFault 0
  | (s, .wait) => waits s
  | (s, .bad line p inj) => (s.commandError i line p inj).finishCommand id stUe 0
  | (s, .bytes bs) =>
    match s.readWord wa with
    | (s, .bad line p inj) => (s.commandError i line p inj).finishCommand id stUe 0
    | (s, .wait) => waits s
    | (s, .value v) =>
      (s.installEntry (armedEntry c wa (BitVec.ofNat 512 (leNat bs)) s.control.weirCount) v).finishCommand id stOk 0

/-- ARM (R48). One whose WADDR lies outside device DRAM and whose BOUND fails translation meets both conditions of FAULT; it ends with the
detail of the translation (DESIGN CHOICE, log entry 53). -/
def execArm (i : Fin 16) (c : Command) (s : State) : Answer :=
  .next (
    if !cmdOk c then s.finishNow i c stFault 2
    else
      let r := s.beginAccess i c
      let waits (u : State) : State := u.accessWaits s i (.arm i c)
      match r.2.sluiceXlat (s.queueRoot i.val) (cmdTarget c) .read with
      | (u, .fail) => u.finishCommand r.1 stFault 0
      | (u, .wait) => waits u
      | (u, .pa wa) =>
        if u.mem.region wa = .dram then u.armAt i r.1 c wa waits
        else match u.sluiceXlat (s.queueRoot i.val) (cmdBound c) .read with
          | (u, .fail) => u.finishCommand r.1 stFault 0
          | (u, .wait) => waits u
          | (u, .pa _) => u.finishCommand r.1 stFault 2)

/-- DISARM (R42): the entry is free. -/
def execDisarm (i : Fin 16) (c : Command) (s : State) : Answer :=
  .next (if cmdOk c then (s.dropEntry (bitsAt c 128 6)).finishNow i c stOk 0 else s.finishNow i c stFault 2)

/-- A replay entry names a firing that can come no more: its Weir entry is free again, and no firing of it is on its way (R390; DEDUCED,
log entry 56). -/
def State.firingGone (s : State) (entry : Nat) : Bool := s.control.spent.contains entry && !s.control.firings.any (·.entry == entry)

/-- The replay turn of a firing (R388): none while it is held. -/
def State.firingTurn (s : State) (f : Firing) : Option State :=
  if s.order.weir && s.order.replay then
    let tail := (s.queue f.tq).tail.toNat % 2 ^ 24
    s.turn 2 f.tq (fun o => o / 64 % 16 == f.tq) (fun o q => o % 64 == f.entry && decide ((tail + 2 ^ 24 - q) % 2 ^ 24 < 2 ^ 23))
      (fun o _ => s.firingGone (o % 64))
  else some s

/-- A firing enters the FIFO of its queue (R49), and the order log (R387). Its place among the ring commands is the tail as it
stands when it enters: that is the firing which R49 orders against doorbells (DESIGN CHOICE, log entry 26). -/
def State.enterFifo (s : State) (f : Firing) : State :=
  let q := s.queue f.tq
  let s := s.setQueue (queueOf f.tq) { q with fired := q.fired ++ [(f.bound, q.tail)] }
  let s := s.setControl { s.control with firings := s.control.firings.filter (·.id != f.id) }
  if s.order.weir && !s.order.replay then s.logChoice 2 108 (f.entry % 64 + f.tq * 64) (q.tail.toNat % 2 ^ 24) else s

/-- A firing comes to another stage. -/
def State.stageFiring (s : State) (f : Firing) (g : FiringStage) : State :=
  s.setControl { s.control with firings := s.control.firings.map fun x => if x.id == f.id then { x with stage := g } else x }

/-- A firing has found its FIFO full: the entry holds it, or drops it where it holds one already (R49). -/
def State.pendFiring (s : State) (f : Firing) : State :=
  if s.control.firings.any fun x => x.serial == f.serial && x.stage == .pending && x.id != f.id then
    s.setControl { s.control with firings := s.control.firings.filter (·.id != f.id) }
  else s.stageFiring f .pending

/-- A firing tries to enter its FIFO, which holds 16. Replay holds it outside, which keeps no other firing from being counted
(R388). -/
def State.tryFiring (s : State) (f : Firing) : State :=
  if 16 ≤ (s.queue f.tq).fired.length then s.pendFiring f
  else match s.firingTurn f with
    | some s => s.enterFifo f
    | none => (s.stageFiring f .held).holdChoice (.firing (BitVec.ofNat 6 f.entry))

/-- A firing's command has reached its FIFO by a cycle. -/
def Firing.arrived (f : Firing) (now : Nat) : Bool :=
  match f.stage with
  | .raised => false
  | .flying due => decide (due ≤ now)
  | .pending => true
  | .held => true

/-- The firings of the entry that the focus names which may enter their FIFOs, oldest first. -/
def State.firingsHere (s : State) : List Firing :=
  s.control.firings.filter fun f => f.entry == s.focus.entry.val && f.arrived s.now

/-- WEIR_FIRE (R48, R49): the oldest firing of its entry that has just happened is on its way: the firings of one cycle enter the FIFOs on
the next, in ascending entry number. -/
def execWeirFire (s : State) : Answer :=
  .next (match s.control.firings.find? fun f => f.entry == s.focus.entry.val && f.stage == .raised with
    | some f => (s.stageFiring f (.flying (s.now + 1))).postAt (s.now + 1) .pendingFiring
    | none => s)

/-- A lower entry's firing is about to enter its FIFO. -/
def State.lowerFires (s : State) : Bool :=
  s.agenda.any fun p => p.instr == .pendingFiring && decide (p.due ≤ s.now ∧ p.focus.entry.val < s.focus.entry.val)

/-- PENDING_FIRING (R49): lower entries go first. Each firing of the entry enters the FIFO of its own queue. -/
def execPendingFiring (s : State) : Answer :=
  .next (if s.lowerFires then s.hold else s.firingsHere.foldl State.tryFiring s)

end Sys2Proof.Machine
end

