-- ==== Sys2Proof/Machine/Walker.lean ====
section
/-! DEFINITION. The loop walker (R34 to R37, R55 to R66): loop-nest records, enumeration, placement, gangs, phases, tags of
items, and the end of an item as the walker and its command see it (R43, R44, R61, R65). -/

namespace Sys2Proof.Machine

/-! ### Loop-nest records (R34 to R36) -/

abbrev LoopNest := BitVec 1024

def LoopNest.image (r : LoopNest) : Word := BitVec.ofNat 64 (bitsAt r 0 64)
def LoopNest.args (r : LoopNest) : Word := BitVec.ofNat 64 (bitsAt r 64 64)
def LoopNest.tagMode (r : LoopNest) : Nat := bitsAt r 128 8
def LoopNest.nlevels (r : LoopNest) : Nat := bitsAt r 136 8
/-- RELOAD, KEEPTAG, PREEMPT, LOG, GANG, DET from the top. -/
def LoopNest.flags (r : LoopNest) : BitVec 6 := BitVec.ofNat 6 (bitsAt r 144 6)
def LoopNest.det (r : LoopNest) : Bool := r.getLsbD 144
def LoopNest.gang (r : LoopNest) : Bool := r.getLsbD 145
def LoopNest.log (r : LoopNest) : Bool := r.getLsbD 146
def LoopNest.keepTag (r : LoopNest) : Bool := r.getLsbD 148
def LoopNest.fixTag (r : LoopNest) : Tag := BitVec.ofNat 16 (bitsAt r 160 16)
def LoopNest.tagArray (r : LoopNest) : Word := BitVec.ofNat 64 (bitsAt r 192 64)
def LoopNest.count (r : LoopNest) (n : Nat) : Nat := bitsAt r (256 + 64 * n) 32
def LoopNest.kind (r : LoopNest) (n : Nat) : Nat := bitsAt r (288 + 64 * n) 8

/-- The levels in use that a test on their kind names, in ascending number. -/
def LoopNest.levels (r : LoopNest) (p : Nat → Bool) : List Nat :=
  (List.range (min 6 (LoopNest.nlevels r))).filter fun n => p (LoopNest.kind r n)

def LoopNest.spatial (r : LoopNest) : List Nat := LoopNest.levels r fun k => k == 1 || k == 2
def LoopNest.phaseLevel (r : LoopNest) : Option Nat := (LoopNest.levels r (· == 3)).head?
def LoopNest.dieLevel (r : LoopNest) : Option Nat := (LoopNest.levels r (· == 2)).head?

/-- The product of the counts of some levels. -/
def LoopNest.product (r : LoopNest) (ls : List Nat) : Nat := ls.foldl (fun x n => x * LoopNest.count r n) 1

/-- Phases, and items of a phase (R55). -/
def LoopNest.phases (r : LoopNest) : Nat :=
  match LoopNest.phaseLevel r with
  | some n => LoopNest.count r n
  | none => 1

def LoopNest.perPhase (r : LoopNest) : Nat := LoopNest.product r (LoopNest.spatial r)

def LoopNest.items (r : LoopNest) : Nat := LoopNest.phases r * LoopNest.perPhase r

/-- A well-formed record (R35, R387). -/
def LoopNest.wf (r : LoopNest) : Bool :=
  let n := LoopNest.nlevels r
  bitsAt r 150 10 == 0 && bitsAt r 176 16 == 0 && bitsAt r 640 384 == 0 && decide (1 ≤ n ∧ n ≤ 6) &&
    decide (LoopNest.tagMode r < 4) &&
    ((List.range 6).all fun k => bitsAt r (296 + 64 * k) 24 == 0 && decide (LoopNest.kind r k < 4) &&
      (decide (k < n) || bitsAt r (256 + 64 * k) 64 == 0)) &&
    decide ((LoopNest.levels r (· == 3)).length ≤ 1) &&
    !((LoopNest.tagArray r).getLsbD 0 && (LoopNest.tagMode r == 2 || (LoopNest.tagMode r == 3 && LoopNest.keepTag r))) &&
    decide (LoopNest.items r ≤ 2 ^ 32) && (!LoopNest.log r || decide (LoopNest.items r ≤ 2 ^ 24))

/-- The digits of an item number in the counts of some levels, the lowest level fastest. -/
def LoopNest.digits (r : LoopNest) : List Nat → Nat → List (Nat × Nat)
  | [], _ => []
  | n :: ns, x => (n, x % LoopNest.count r n) :: LoopNest.digits r ns (x / LoopNest.count r n)

/-- The index of item `m` of phase `p` at level `n`. -/
def LoopNest.index (r : LoopNest) (p m n : Nat) : Nat :=
  if LoopNest.phaseLevel r = some n then p else lookupD 0 (LoopNest.digits r (LoopNest.spatial r) m) n

/-- The linear item number (R36). -/
def LoopNest.linear (r : LoopNest) (p m : Nat) : Nat :=
  ((LoopNest.levels r (· != 0)).foldl (fun (a : Nat × Nat) n =>
    (a.1 + LoopNest.index r p m n * a.2, a.2 * LoopNest.count r n)) (0, 1)).1

/-- The die that a SPATIAL_DIE level names for an item (R56). -/
def LoopNest.dieFor (r : LoopNest) (p m : Nat) : Option Nat := (LoopNest.dieLevel r).map fun n => LoopNest.index r p m n % 4

/-! ### Cores (R56, R57) -/

/-- The eligible set, by core number. -/
def State.eligible (s : State) (tset : BitVec 96) (die : Option Nat) (c : Nat) : Bool :=
  (tset == 0 || tset.getLsbD c) && s.control.cpool.getLsbD c &&
    (match die with
     | some d => dieOf c == d
     | none => true)

/-- No item is placed, loading or running on the core. -/
def Core.vacant (c : Core) : Bool := c.item.isNone && (c.status == .idle || c.status == .ended)

/-- Core numbers from the pointer on, once round (R57). -/
def State.roundRobin (s : State) : List Nat := (List.range 96).map fun k => (s.control.pointer + k) % 96

/-- The free order of an item, cores `taken` counted as not free. -/
def State.freeOrder (s : State) (tset : BitVec 96) (die : Option Nat) (taken : List Nat) : List Nat :=
  s.roundRobin.filter fun c => s.eligible tset die c && (s.cores[coreOf c]).vacant && !taken.contains c

/-- The placement score of a core (R58). -/
def State.score (s : State) (c : Nat) : Nat := (Config.tempC c s.clock.gts).toNat + (Config.droopMv c s.clock.gts).toNat

/-- The best-scoring core of a window, the earliest on a tie (R59). -/
def State.bestOf (s : State) : List Nat → Option Nat
  | [] => none
  | [c] => some c
  | c :: rest =>
    match s.bestOf rest with
    | some d => some (if s.score d < s.score c then d else c)
    | none => some c

/-- The core that R59 chooses among the first D + 1 of the free order. -/
def State.chooseCore (s : State) (tset : BitVec 96) (dev : Nat) (die : Option Nat) (taken : List Nat) : Option Nat :=
  s.bestOf ((s.freeOrder tset die taken).take (dev + 1))

/-- The dies that some items ask for and the cores that `open` allows admit an assignment of distinct cores: either no item
names a die, or every one does. -/
def assignable (dies : List (Option Nat)) (open_ : Nat → Bool) : Bool :=
  let cores := (List.range 96).filter open_
  decide ((dies.filter (·.isNone)).length ≤ cores.length) &&
    (List.range 4).all fun d => decide ((dies.filter (· == some d)).length ≤ (cores.filter fun c => dieOf c == d).length)

/-! ### Items on cores (R51, R394) -/

/-- The mailbox that an item fills (R51). -/
def mailboxOf (it : Item) : BitVec 1024 :=
  let x : BitVec 1024 := putBits (putBits 0 0 64 it.image.toNat) 64 64 it.args.toNat
  let x := it.idx.zipIdx.foldl (fun x e => putBits x (128 + 32 * e.2) 32 e.1.toNat) x
  let x := it.cnt.zipIdx.foldl (fun x e => putBits x (320 + 32 * e.2) 32 e.1.toNat) x
  putBits (putBits (putBits (putBits x 512 16 it.tag.toNat) 544 6 it.flags.toNat) 576 64 it.root) 640 32 it.pto

/-- MODE.RAS of a core takes its value as the core begins an item (R394). -/
def State.latchRas (s : State) (i : Fin 96) : State :=
  let asked := if i.val < 64 then (peek s.mgmt.regs 0x38).getLsbD i.val else (peek s.mgmt.regs 0x40).getLsbD (i.val - 64)
  let on := if asked then blobRas.getLsbD i.val else false
  { s with mgmt := { s.mgmt with rasMode := if on then s.mgmt.rasMode ||| (1#96 <<< i.val) else s.mgmt.rasMode &&& ~~~(1#96 <<< i.val) } }

/-- An item is handed to a core: the mailbox is filled and the loader starts (R51, R53). -/
def State.handOver (s : State) (i : Fin 96) (it : Item) : State :=
  let c := s.cores[i]
  let c := { c with status := .loading, item := some it, mailbox := mailboxOf it }
  (({ s with cores := s.cores.set i c }).latchRas i)

/-- A walker's placement: the pointer moves on (R57). -/
def State.place (s : State) (c : Nat) (it : Item) : State :=
  let s := s.handOver (coreOf c) it
  s.setControl { s.control with pointer := (c + 1) % 96 }

/-! ### Commands of LAUNCH (R43, R44, R65) -/

def State.modCommand (s : State) (id : Nat) (f : ActiveCmd → ActiveCmd) : State :=
  s.setControl { s.control with commands := s.control.commands.map fun a => if a.id == id then f a else a }

/-- Status and detail of a command from the ends of its items (R44). -/
def endStatus (ends : List (Nat × Byte × Byte)) : Nat × Nat :=
  match [stUe, stKilled, stTimeout, stFault, stMismatch, stLinkLost].find? fun st => ends.any fun e => e.2.1.toNat == st with
  | none => (stOk, 0)
  | some st =>
    let mine := ends.filter fun e => e.2.1.toNat == st
    let low := mine.foldl (fun (a : Nat × Byte × Byte) e => if e.1 < a.1 then e else a) (mine.headD (0, 0, 0))
    (st, if st = stFault then low.2.2.toNat else 0)

/-- A LAUNCH whose last item has retired and whose FRESH tags are back completes. -/
def State.checkCommand (s : State) (id : Nat) : State :=
  match s.control.commands.find? (·.id == id) with
  | some a =>
    if a.wait == .items && a.started && a.left == 0 && a.tags.isEmpty then
      s.finishCommand id (endStatus a.ends).1 (endStatus a.ends).2
    else s
  | none => s

/-- The walker is done with its LAUNCH: the last item has been dispatched, or no further one will be. FRESH tags not handed
out retire as `tagret` does. -/
def State.closeJob (s : State) : State :=
  match s.control.job with
  | none => s
  | some j =>
    let i := queueOf j.queue
    let q := s.control.queues[i]
    let s := s.setQueue i { q with starting := if q.starting = some j.command then none else q.starting }
    let s := s.setControl { s.control with job := none }
    let s := s.setTags { s.tags with 
      waiters := s.tags.waiters.filter (· != .walker), arrived := s.tags.arrived.filter (·.source != walkerSource) }
    let s := s.modCommand j.command fun a => { a with started := true, tags := a.tags ++ j.got.map (·.toNat) }
    let s := j.got.foldl (fun s t => s.beginRetire t.toNat) s
    s.checkCommand j.command

/-- An item ends as its command sees it. -/
def State.noteEnd (s : State) (id lin status detail : Nat) : State :=
  s.modCommand id fun a => { a with ends := a.ends ++ [(lin, BitVec.ofNat 8 status, BitVec.ofNat 8 detail)] }

/-- The job after an item of its command has ended. -/
def WalkerJob.less (j : WalkerJob) (id : Nat) : WalkerJob := if j.command = id then { j with live := j.live - 1 } else j

/-- A termination stops the dispatch of its record where phases are enforced (R65). -/
def State.stopDispatch (s : State) (id : Nat) : State :=
  match s.control.job with
  | some j => if j.command = id ∧ LoopNest.det j.record = true then s.closeJob else s
  | none => s

/-- Fellows of a gang item that ended by termination, or by `done` after an XLATE, are terminated (R61). -/
def State.killFellows (s : State) (it : Item) : State :=
  (List.finRange 96).foldl (fun s i =>
    match (s.cores[i]).item with
    | some o => if o.flag 1 && o.command == it.command && o.phase == it.phase then s.post (.termination i 0x04 0) else s
    | none => s) s

/-- The walker's side of an item's end: its command counts it, FRESH tags retire, fellows of its gang are ended, and a
command that is complete completes. `ended` says that it was a termination, `kills` that it ends its gang. -/
def State.itemEnded (s : State) (it : Item) (status detail : Nat) (ended kills : Bool) : State :=
  match it.command with
  | none => s
  | some id =>
    let s := (s.noteEnd id it.lin status detail).modCommand id fun a => { a with left := a.left - 1 }
    let s := s.setControl { s.control with job := s.control.job.map (·.less id) }
    let s := if ended then s.stopDispatch id else s
    let s := if it.flag 1 && kills then s.killFellows it else s
    let fresh := s.control.commands.any fun a => a.id == id && a.tags.contains it.tag.toNat
    let s := if fresh && s.tags.isLive it.tag.toNat then s.beginRetire it.tag.toNat else s
    s.checkCommand id

/-! ### LAUNCH (R43, R55, R56, R60) -/

/-- Every item has a core it may run on. -/
def State.setsOpen (s : State) (tset : BitVec 96) (r : LoopNest) : Bool :=
  match LoopNest.dieLevel r with
  | none => (List.range 96).any (s.eligible tset none)
  | some n => (List.range (min 4 (LoopNest.count r n))).all fun d => (List.range 96).any (s.eligible tset (some d))

/-- The dies that the items of one phase ask for. -/
def LoopNest.gangDies (r : LoopNest) : List (Option Nat) := (List.range (LoopNest.perPhase r)).map fun m => LoopNest.dieFor r 0 m

/-- A gang fits on its cores with every core free (R60). -/
def State.gangFits (s : State) (tset : BitVec 96) (r : LoopNest) : Bool :=
  !LoopNest.gang r || (decide (LoopNest.perPhase r ≤ 96) && assignable (LoopNest.gangDies r) (s.eligible tset none))

/-- The walker takes a record. -/
def State.startWalk (s : State) (i : Fin 16) (c : Command) (r : LoopNest) : State :=
  let prio := (s.control.queues[i]).effective
  let b := s.beginCommand i c .items true
  let j : WalkerJob :=
    { command := b.1, queue := i.val, record := r, root := s.queueRoot i.val, tset := cmdTset c, dev := cmdDev c,
      prio := prio, next := 0, total := LoopNest.items r, phase := 0, live := 0, got := [], asked := false, pressed := [],
      replay := LoopNest.log r && b.2.order.replay }
  b.2.setControl { b.2.control with job := some j }

/-- A LAUNCH whose record has been read. -/
def State.launchRecord (s : State) (i : Fin 16) (c : Command) (r : LoopNest) : State :=
  if !LoopNest.wf r then s.finishNow i c stFault 2
  else if LoopNest.items r = 0 then s.finishNow i c stOk 0
  else if s.mgmt.stage ≠ .stage2 ∧ LoopNest.tagMode r = 3 then s.finishNow i c stFault 3
  else if !s.setsOpen (cmdTset c) r then s.finishNow i c stFault 2
  else if !s.gangFits (cmdTset c) r then s.finishNow i c stFault 4
  else s.startWalk i c r

/-- LAUNCH (R43). -/
def execLaunch (i : Fin 16) (c : Command) (s : State) : Answer :=
  .next (
    if !cmdOk c then s.finishNow i c stFault 2
    else if s.control.job.isSome then s.hold
    else match s.sluiceRead (s.queueRoot i.val) (cmdAddr c) 3 128 with
      | (s, .fault) => s.finishNow i c stFault 0
      | (s, .wait) => s.hold
      | (s, .bad line p inj) => (s.commandError i line p inj).finishNow i c stUe 0
      | (s, .bytes bs) => s.launchRecord i c (BitVec.ofNat 1024 (leNat bs)))

/-! ### Tags of items (R37, R371) -/

/-- What the walker finds for an item's tag. -/
inductive TagChoice where
  | tag (t : Tag)
  | ends (status detail : Nat)
  | stops (status : Nat)
  | ask
  | waits
  deriving DecidableEq, Repr

/-- The tag of an array or the output array for item `l`. -/
def tagSlot (r : LoopNest) (l : Nat) : Word := LoopNest.tagArray r + BitVec.ofNat 64 (2 * l)

/-- A tag may be given to an item: 0, or LIVE and not held back. -/
def State.tagFor (s : State) (t : Tag) (whole : Bool) : TagChoice :=
  if t = 0 then .tag t
  else if s.tags.killed.contains t.toNat then (if whole then .stops stUe else .ends stUe 0)
  else if s.tags.isLive t.toNat then .tag t
  else .ends stFault 3

/-- The tag of item `l` of a job; `k` FRESH tags are spoken for. -/
def State.itemTag (s : State) (j : WalkerJob) (l k : Nat) : State × TagChoice :=
  let r : LoopNest := j.record
  match LoopNest.tagMode r with
  | 0 => (s, .tag 0)
  | 1 => (s, s.tagFor (LoopNest.fixTag r) true)
  | 2 =>
    (match s.sluiceRead j.root (tagSlot r l) 2 2 with
     | (s, .fault) => (s, .ends stFault 0)
     | (s, .wait) => (s, .waits)
     | (s, .bad line p inj) =>
       (s.post (.ownerHandling { place := p, line := line, consumer := .walkerRead j.root, injected := inj }), .ends stUe 0)
     | (s, .bytes bs) => (s, s.tagFor (BitVec.ofNat 16 (leNat bs)) false))
  | _ =>
    (match j.got[k]? with
     | some t => (s, .tag t)
     | none => (s, .ask))

/-- The write of a FRESH tag to the output array waits for a page in flight or for a site that has not joined (R290, R397). -/
def State.reportHeld (s : State) (j : WalkerJob) (l : Nat) : Bool :=
  let r : LoopNest := j.record
  LoopNest.tagMode r == 3 && LoopNest.keepTag r &&
    (match (s.sluiceXlat j.root (tagSlot r l) .write).2 with
     | .wait => true
     | .pa a => s.siteHolds a
     | .fail => false)

/-- A FRESH tag that its item keeps is written to the output array (R37); the answer is whether that could be done. Registers and the
local-engine page take no such write, and the heat window discards it (DESIGN CHOICE, log entry 53). -/
def State.reportTag (s : State) (j : WalkerJob) (l : Nat) (t : Tag) : State × Bool :=
  let r : LoopNest := j.record
  if LoopNest.tagMode r = 3 ∧ LoopNest.keepTag r = true then
    match s.sluiceXlat j.root (tagSlot r l) .write with
    | (s, .pa a) =>
      if (s.mem.region a).cached then (s.agentStore a (leBytes 2 t.toNat), true) else (s, s.mem.region a == .heat)
    | (s, _) => (s, false)
  else (s, true)

/-! ### Dispatch (R55, R59, R64) -/

/-- Item number `e` in enumeration order, with its tag. -/
def State.itemOf (s : State) (j : WalkerJob) (e : Nat) (t : Tag) (group : Nat) : Item :=
  let r : LoopNest := j.record
  let m := max 1 (LoopNest.perPhase r)
  { command := some j.command, queue := j.queue, lin := LoopNest.linear r (e / m) (e % m), phase := e / m, root := j.root,
    image := LoopNest.image r, args := LoopNest.args r, tag := t,
    idx := (List.range 6).map fun n => BitVec.ofNat 32 (if LoopNest.kind r n = 0 then 0 else LoopNest.index r (e / m) (e % m) n)
    cnt := (List.range 6).map fun n => BitVec.ofNat 32 (LoopNest.count r n)
    flags := LoopNest.flags r, group := group, pto := (s.queue j.queue).pto, replay := j.replay,
    resume := none, die := LoopNest.dieFor r (e / m) (e % m), prio := j.prio, pressed := false }

def State.setJob (s : State) (j : WalkerJob) : State := s.setControl { s.control with job := some j }

/-- The walker goes on to the next item; after the last one the LAUNCH has started. -/
def State.advanceJob (s : State) (n : Nat) (placed : Bool) : State :=
  match s.control.job with
  | none => s
  | some j =>
    let j' := { j with next := j.next + n, got := j.got.drop n, pressed := [],
                       live := if placed then j.live + n else j.live }
    let s := if placed then s.modCommand j.command fun a => { a with left := a.left + n } else s
    if j.total ≤ j'.next then (s.setJob { j' with got := [] }).closeJob else s.setJob j'

/-- An item that does not run retires at once. That ends no item of its gang and no dispatch of its record, for one that never ran is not
taken for one that ends by termination (R61, R65; DESIGN CHOICE, log entry 52). -/
def State.skipItem (s : State) (j : WalkerJob) (l status detail : Nat) : State :=
  (s.noteEnd j.command l status detail).advanceJob 1 false

/-- A FRESH tag whose number could not be reported retires; the command waits for it. -/
def State.returnTag (s : State) (j : WalkerJob) (t : Tag) : State :=
  (s.modCommand j.command fun a => { a with tags := a.tags ++ [t.toNat] }).beginRetire t.toNat

/-- The command waits for a FRESH tag that the walker retires itself (R43). -/
def State.oweTag (s : State) (j : WalkerJob) (t : Tag) : State :=
  let r : LoopNest := j.record
  if LoopNest.tagMode r = 3 ∧ LoopNest.keepTag r = false then
    s.modCommand j.command fun a => { a with tags := a.tags ++ [t.toNat] }
  else s

/-- The walker asks the allocator for a tag (R37, R260). -/
def State.walkerAsks (s : State) (j : WalkerJob) : State :=
  if j.asked then s.hold else (s.setJob { j with asked := true }).askTag walkerSource true

/-- The timeout of a pre-emption request runs no more: the request has gone, or a new one starts its own (R364). -/
def State.dropTimeout (s : State) (i : Fin 96) : State :=
  { s with agenda := s.agenda.filter fun e => !(e.instr == .preemptionTimeout && e.focus.core == i) }

/-- PRQ of a core is set, and the timeout starts (R358, R364). -/
def State.requestPreempt (s : State) (i : Fin 96) : State :=
  let c := s.cores[i]
  if c.prq then s
  else
    let us := match c.item with
      | some it => if it.pto = 0 then 5000 else it.pto
      | none => 5000
    let f := { Focus.zero with core := i }
    let s := { s with cores := s.cores.set i { c with prq := true, prqSince := s.clock.gts } }
    (s.dropTimeout i).postFor f (s.now + s.cyclesFor (us * 1000)) .preemptionTimeout

/-- The base priority of the queue of the item on a core. -/
def State.basePrio (s : State) (i : Fin 96) : Nat :=
  match (s.cores[i]).item with
  | some it => (s.queue it.queue).prio
  | none => 4

/-- The core whose item a waiting item of a priority may push aside (R358). -/
def State.victim (s : State) (tset : BitVec 96) (die : Option Nat) (prio : Nat) : Option (Fin 96) :=
  let may (i : Fin 96) : Bool :=
    let c := s.cores[i]
    s.eligible tset die i.val && c.status == .running && c.preemptible && !c.prq &&
      (match c.item with
       | some it => it.command.isSome
       | none => false) && decide (s.basePrio i < prio)
  match (List.finRange 96).filter may with
  | [] => none
  | i :: rest => some (rest.foldl (fun a b => if s.basePrio b < s.basePrio a then b else a) i)

/-- Waiting items, by number in enumeration order, push running ones aside (R358): the first for which no request has been made and a
victim can be found; one request for each waiting item, those of a gang included. -/
def State.press (s : State) (j : WalkerJob) : List Nat → Option State
  | [] => none
  | e :: rest =>
    let r : LoopNest := j.record
    let m := max 1 (LoopNest.perPhase r)
    if j.pressed.contains e then s.press j rest
    else match s.victim j.tset (LoopNest.dieFor r (e / m) (e % m)) j.prio with
      | some v => some ((s.setJob { j with pressed := e :: j.pressed }).requestPreempt v)
      | none => s.press j rest

/-- The next item of the job, once it has a tag and a core. -/
def State.placeNext (s : State) (j : WalkerJob) : State :=
  let r : LoopNest := j.record
  let m := max 1 (LoopNest.perPhase r)
  let l := LoopNest.linear r (j.next / m) (j.next % m)
  match s.itemTag j l 0 with
  | (s, .ask) => s.walkerAsks j
  | (s, .waits) => s.hold
  | (s, .ends st d) => s.skipItem j l st d
  | (s, .stops st) => (s.noteEnd j.command l st 0).closeJob
  | (s, .tag t) =>
    match s.chooseCore j.tset j.dev (LoopNest.dieFor r (j.next / m) (j.next % m)) [] with
    | none =>
      (match s.press j [j.next] with
       | some s => s
       | none => s.hold)
    | some c =>
      if s.reportHeld j l then s.hold
      else match s.reportTag j l t with
      | (s, false) => (s.returnTag j t).skipItem j l stFault 0
      | (s, true) =>
        let s := s.place c (s.itemOf j j.next t (8 * s.control.nextGroup))
        let s := s.setControl { s.control with nextGroup := s.control.nextGroup + 1 }
        (s.oweTag j t).advanceJob 1 true

/-- The walker waits for the phase before (R64). -/
def WalkerJob.phaseHeld (j : WalkerJob) : Bool :=
  LoopNest.det j.record && decide (j.phase < j.next / max 1 (LoopNest.perPhase j.record))

/-- A pre-empted item that a core can take (R362): its command's TSET and D apply. An item of a phase in which another has been
terminated is one of those that run to their end (R65), and is placed again too (DESIGN CHOICE, log entry 51). -/
def State.placeAgain (s : State) (it : Item) : State :=
  let cmd := match s.control.commands.find? fun a => some a.id == it.command with
    | some a => a.cmd
    | none => 0
  let rest := s.control.requeued.filter (· != it)
  if s.tags.killed.contains it.tag.toNat then
    (s.setControl { s.control with requeued := rest }).itemEnded it stUe 0 false false
  else match s.chooseCore (cmdTset cmd) (cmdDev cmd) it.die [] with
    | some c => (s.setControl { s.control with requeued := rest }).place c { it with pressed := false }
    | none =>
      if it.pressed then s.hold
      else match s.victim (cmdTset cmd) it.die it.prio with
        | some v => (s.setControl { s.control with requeued := rest ++ [{ it with pressed := true }] }).requestPreempt v
        | none => s.hold

/-- Tries pre-empted items one by one: the first that can go on does. -/
def State.tryRequeued (s : State) : List Item → Option State
  | [] => none
  | it :: rest => if (s.placeAgain it).held then s.tryRequeued rest else some (s.placeAgain it)

/-- ITEM_PLACEMENT (R59): pre-empted items go ahead of the undispatched ones of their command. -/
def execItemPlacement (s : State) : Answer :=
  .next (match s.tryRequeued s.control.requeued with
    | some s => s
    | none => match s.control.job with
      | none => s.hold
      | some j =>
        if LoopNest.gang j.record || j.phaseHeld || s.control.requeued.any fun it => it.command == some j.command then s.hold
        else s.placeNext j)

/-- NEXT_PHASE_DISPATCH (R64): every item of the phase has committed or ended. -/
def execNextPhaseDispatch (s : State) : Answer :=
  .next (match s.control.job with
    | none => s.hold
    | some j => if j.phaseHeld && j.live == 0 then s.setJob { j with phase := j.phase + 1 } else s.hold)

/-! ### Gangs (R60, R66) -/

/-- The cluster of a core: die and half (R2). -/
def clusterKey (c : Nat) : Nat := 2 * dieOf c + clusterOf c

/-- The items of the gang that starts at item `e`, with their tags; `none` where one of them stops the gang or waits. -/
def State.gangTags (s : State) (j : WalkerJob) : Nat → Nat → State × Option (List (Nat × TagChoice))
  | 0, _ => (s, some [])
  | n + 1, k =>
    let r : LoopNest := j.record
    let m := max 1 (LoopNest.perPhase r)
    let e := j.next + k
    let l := LoopNest.linear r (e / m) (e % m)
    match s.itemTag j l k with
    | (s, .ask) => (s, none)
    | (s, .waits) => (s, none)
    | (s, c) =>
      match s.gangTags j n (k + 1) with
      | (s, some rest) => (s, some ((e, c) :: rest))
      | r => r

/-- Cores for the items of a gang, chosen in enumeration order (R60). -/
def State.gangCores (s : State) (j : WalkerJob) : List (Nat × Tag) → List Nat → Option (List (Nat × Tag × Nat))
  | [], _ => some []
  | (e, t) :: rest, taken =>
    let r : LoopNest := j.record
    let m := max 1 (LoopNest.perPhase r)
    let p := match taken with
      | c :: _ => (c + 1) % 96
      | [] => s.control.pointer
    match (s.setControl { s.control with pointer := p }).chooseCore j.tset j.dev (LoopNest.dieFor r (e / m) (e % m)) taken with
    | none => none
    | some c => (s.gangCores j rest (c :: taken)).map ((e, t, c) :: ·)

/-- The items of a gang, in enumeration order, for which no free core is left. -/
def State.gangLacks (s : State) (j : WalkerJob) : List (Nat × Tag) → List Nat → List Nat
  | [], _ => []
  | (e, _) :: rest, taken =>
    let r : LoopNest := j.record
    let m := max 1 (LoopNest.perPhase r)
    match s.freeOrder j.tset (LoopNest.dieFor r (e / m) (e % m)) taken with
    | [] => e :: s.gangLacks j rest taken
    | c :: _ => s.gangLacks j rest (c :: taken)

/-- Hands over the items of a gang together. -/
def State.placeGang (s : State) (j : WalkerJob) : List (Nat × Tag × Nat) → State
  | [] => s
  | (e, t, c) :: rest =>
    let r : LoopNest := j.record
    let m := max 1 (LoopNest.perPhase r)
    match s.reportTag j (LoopNest.linear r (e / m) (e % m)) t with
    | (s, false) => ((s.returnTag j t).noteEnd j.command (LoopNest.linear r (e / m) (e % m)) stFault 0).placeGang j rest
    | (s, true) =>
      let s := s.place c (s.itemOf j e t (8 * s.control.nextGroup + clusterKey c))
      ((s.oweTag j t).modCommand j.command fun a => { a with left := a.left + 1 }).placeGang j rest

/-- Items of a gang that do not run: they retire with the status found. -/
def State.skipGang (s : State) (j : WalkerJob) : List (Nat × TagChoice) → State
  | [] => s
  | (e, .ends st d) :: rest =>
    let r : LoopNest := j.record
    let m := max 1 (LoopNest.perPhase r)
    (s.noteEnd j.command (LoopNest.linear r (e / m) (e % m)) st d).skipGang j rest
  | _ :: rest => s.skipGang j rest

/-- The items of a gang that run. -/
def gangRuns (l : List (Nat × TagChoice)) : List (Nat × Tag) :=
  l.filterMap fun e => match e.2 with
    | .tag t => some (e.1, t)
    | _ => none

/-- The walker goes on past a gang. -/
def State.passGang (s : State) (n : Nat) : State :=
  match s.control.job with
  | none => s
  | some j =>
    let placed := match s.control.commands.find? (·.id == j.command) with
      | some a => a.left
      | none => 0
    let j' := { j with next := j.next + n, got := [], pressed := [], live := placed }
    let s := s.setControl { s.control with nextGroup := s.control.nextGroup + 1 }
    if j.total ≤ j'.next then (s.setJob j').closeJob else s.setJob j'

/-- GANG_PLACEMENT (R60): all the items of a phase at once, or none. -/
def execGangPlacement (s : State) : Answer :=
  .next (match s.control.job with
    | none => s.hold
    | some j =>
      if !LoopNest.gang j.record || j.phaseHeld then s.hold
      else
        let n := LoopNest.perPhase j.record
        match s.gangTags j n 0 with
        | (s, none) => if LoopNest.tagMode j.record = 3 then s.walkerAsks j else s.hold
        | (s, some tags) =>
          match tags.find? fun e => match e.2 with
            | .stops _ => true
            | _ => false with
          | some _ => (s.noteEnd j.command 0 stUe 0).closeJob
          | none =>
            match s.gangCores j (gangRuns tags) [] with
            | none =>
              (match s.press j (s.gangLacks j (gangRuns tags) []) with
               | some s => s
               | none => s.hold)
            | some places =>
              if places.any fun p => s.reportHeld j (LoopNest.linear j.record (p.1 / n) (p.1 % n)) then s.hold
              else ((s.skipGang j tags).placeGang j places).passGang n)

/-- Members of the group of the core that acts that are still loading. -/
def State.groupLoading (s : State) : Bool :=
  s.core.itemFlag Item.gang && (List.finRange 96).any fun i => s.core.fellow s.cores[i] && (s.cores[i]).status == .loading

/-- A loaded core starts to fetch: SCHED counts from here (R67). -/
def Core.startRunning (c : Core) (now : Nat) : Core :=
  { c with status := .running
           seq := { c.seq with mode := .run, ready := now, waiting := false, start := now, frozen := 0, trap := none } }

/-- SYNC_GROUP_START (R66): all members begin fetching on one cycle, once every one has loaded. -/
def execSyncGroupStart (s : State) : Answer :=
  let me := s.core
  .next (
    if me.status ≠ .loaded ∨ s.groupLoading ∨ (me.item.bind (·.resume)).isSome then s.hold
    else
      let s := s.withCore (me.startRunning s.now)
      { s with cores := s.cores.map fun c => if me.fellow c && c.status == .loaded then c.startRunning s.now else c })

end Sys2Proof.Machine
end

