-- ==== Sys2Proof/Machine/Loader.lean ====
section
/-! DEFINITION. The overlay loader (R32, R33, R53, R54), the launch mailbox (R51, R52), and what is left of a core when its
item has ended. -/

namespace Sys2Proof.Machine

/-! ### The end of an item on its core (R51, R54, R243, R358) -/

/-- The requesters that belong to a core. -/
def ofCore (i : Fin 96) (x : Nat) : Bool := sourceNumber x == i.val

/-- Whose data the arrays hold once the item is gone (R54): its own where it entered, under the tag it entered with even where a `ctxset`
has changed CTX since (DESIGN CHOICE, log entry 52); an item that never entered leaves them to the owner before, and to nobody where that
is another. -/
def Core.nextOwner (c : Core) : Option (Nat × Tag) :=
  let owner := c.item.map fun it => (it.root, it.tag)
  if c.status != .loading || c.lastOwner == owner then owner else none

/-- The core is free again: what the item left in its queues, engines and FIFOs goes; its arrays and registers stay as they
are until the next item is loaded. -/
def Core.released (c : Core) (status : CoreStatus) : Core :=
  { c with
    status := status
    lastOwner := c.nextOwner
    item := none, image := none
    queues := { CoreQueues.empty with order := c.queues.order }
    seq := SeqState.zero, phase := none, fills := [], refetch := [], faults := [], channels := [], overwritten := [], rows := [], rowFifo := []
    prq := false, irq := false }

/-- The core's item leaves it: its stores are performed at the home slices (R64), and what it waited for elsewhere waits for it no
more (R263, R356). -/
def State.releaseCore (s : State) (i : Fin 96) (status : CoreStatus) : State :=
  let s := (s.performAll i).dropTimeout i
  let s := { s with cores := s.cores.set i ((s.cores[i]).released status) }
  let s := (s.dropRequest i.val).forgetRequests (ofCore i)
  let s := s.setTags { s.tags with owed := s.tags.owed.filter fun o => !ofCore i o.req.source }
  s.setOrder { s.order with waiting := s.order.waiting.filter (· != .atomic i) }

/-- An item ends on its core with a status (R44, R51); the walker and its command see it, and requesters that replay holds are tried again
(R390). Only a direct launch ends with STATE = ENDED (R52). -/
def State.endItem (s : State) (i : Fin 96) (status detail : Nat) (ended kills : Bool) : State :=
  match (s.cores[i]).item with
  | none => s
  | some it =>
    let c := s.cores[i]
    let s := { s with cores := s.cores.set i { c with lstat := BitVec.ofNat 8 status } }
    ((s.releaseCore i (if it.command.isSome then .idle else .ended)).itemEnded it status detail ended kills).wakeHeld

/-! ### Image headers (R32, R33) -/

abbrev ImageHeader := BitVec 512

def ImageHeader.half (h : ImageHeader) (k : Nat) : Nat := bitsAt h (32 * k) 32
def ImageHeader.entry (h : ImageHeader) : Nat := ImageHeader.half h 3
def ImageHeader.size (h : ImageHeader) : Nat := ImageHeader.half h 2
def ImageHeader.codeOff (h : ImageHeader) : Nat := ImageHeader.half h 4
def ImageHeader.codeSize (h : ImageHeader) : Nat := ImageHeader.half h 5
def ImageHeader.tmOff (h : ImageHeader) : Nat := ImageHeader.half h 6
def ImageHeader.tmCount (h : ImageHeader) : Nat := bitsAt h 224 8
def ImageHeader.ctCount (h : ImageHeader) : Nat := bitsAt h 232 8
def ImageHeader.lmCount (h : ImageHeader) : Nat := bitsAt h 240 8
def ImageHeader.ctOff (h : ImageHeader) : Nat := ImageHeader.half h 8
def ImageHeader.ctBase (h : ImageHeader) : Nat := ImageHeader.half h 9
def ImageHeader.lmOff (h : ImageHeader) : Nat := ImageHeader.half h 10
def ImageHeader.trapVec (h : ImageHeader) : Nat := ImageHeader.half h 11
def ImageHeader.rodOff (h : ImageHeader) : Nat := ImageHeader.half h 12
def ImageHeader.rodSize (h : ImageHeader) : Nat := ImageHeader.half h 13
def ImageHeader.handler (h : ImageHeader) : Bool := h.getLsbD 48

/-- A well-formed header (R32, R33). A section of no bytes whose offset lies beyond IMGSIZE runs past it (DESIGN CHOICE, log entry 52). -/
def ImageHeader.wf (h : ImageHeader) : Bool :=
  let ends (off n : Nat) : Bool := decide (off + n ≤ ImageHeader.size h)
  ImageHeader.half h 0 == 0x36395A48 && bitsAt h 32 16 == 1 && bitsAt h 49 15 == 0 && bitsAt h 248 8 == 0 &&
    bitsAt h 448 64 == 0 &&
    decide (4 ≤ ImageHeader.codeSize h ∧ ImageHeader.codeSize h ≤ 262144) && ImageHeader.codeSize h % 4 == 0 &&
    ImageHeader.entry h % 4 == 0 && decide (ImageHeader.entry h < ImageHeader.codeSize h) &&
    ImageHeader.codeOff h % 64 == 0 && ImageHeader.tmOff h % 32 == 0 && ImageHeader.ctOff h % 64 == 0 &&
    ImageHeader.lmOff h % 64 == 0 && ImageHeader.rodOff h % 64 == 0 && ImageHeader.ctBase h % 16 == 0 &&
    decide (ImageHeader.tmCount h ≤ 64 ∧ ImageHeader.lmCount h ≤ 64) &&
    ends (ImageHeader.codeOff h) (ImageHeader.codeSize h) && ends (ImageHeader.tmOff h) (32 * ImageHeader.tmCount h) &&
    ends (ImageHeader.ctOff h) (64 * ImageHeader.ctCount h) && ends (ImageHeader.lmOff h) (64 * ImageHeader.lmCount h) &&
    ends (ImageHeader.rodOff h) (ImageHeader.rodSize h) &&
    decide (ImageHeader.ctBase h + 64 * ImageHeader.ctCount h ≤ 2 ^ 23) &&
    (!ImageHeader.handler h ||
      (ImageHeader.trapVec h % 4 == 0 && decide (ImageHeader.trapVec h < ImageHeader.codeSize h)))

/-- What the loader keeps of a header. -/
def ImageHeader.info (h : ImageHeader) : ImageInfo :=
  { handler := ImageHeader.handler h, trapvec := ImageHeader.trapVec h, lmcount := ImageHeader.lmCount h,
    tmcount := ImageHeader.tmCount h, tmoff := ImageHeader.tmOff h, codesize := ImageHeader.codeSize h,
    entry := ImageHeader.entry h, rodoff := ImageHeader.rodOff h, ctbase := ImageHeader.ctBase h,
    ctcount := ImageHeader.ctCount h }

/-! ### Reads of the loader (R53) -/

/-- What a read of the loader comes to. -/
inductive LoadRead where
  | bytes (bs : List Byte) (s : State)
  | wait (s : State)
  | fail (s : State)
  | bad (line : Nat) (place : ErrorPlace) (injected : Bool) (s : State)
  deriving DecidableEq, Repr

/-- A read of one line through the core's side of memory. -/
def State.loadLine (s : State) (i : Fin 96) (pa n : Nat) (owner : Tag) : LoadRead :=
  match s.mem.region pa with
  | .zero => .bytes (zeroBytes n) s
  | .heat => .bytes ((List.range n).map fun k => s.mem.heatByte (pa + k)) s
  | r =>
    if !r.cached then .fail s
    else if (s.mem.l2At (pa / 64)).isNone && s.siteHolds pa then .wait s.hold
    else match s.readHome (pa / 64) (dieOf i.val) owner with
      | (s, .bad p inj) => .bad (pa / 64) p inj s
      | (s, .data x) => .bytes (lineBytes x (pa % 64) n) s

/-- A read of `n` bytes by the overlay loader of a core, line by line, under ROOT with tag 0. -/
def State.loaderRead (s : State) (i : Fin 96) (root : Nat) (k : Kind) : List (Word × Nat) → LoadRead
  | [] => .bytes [] s
  | (va, n) :: rest =>
    match s.engineXlat i.val (engineSource i.val 17) root va 0 k with
    | .wait s => .wait s
    | .fail s => .fail s
    | .pa a owner _ =>
      match s.loadLine i a n owner with
      | .bytes bs s =>
        (match s.loaderRead i root k rest with
         | .bytes more s => .bytes (bs ++ more) s
         | r => r)
      | r => r

/-- The lines of `n` bytes at an address. -/
def State.loaderBytes (s : State) (i : Fin 96) (root : Nat) (va : Word) (n : Nat) (k : Kind) : LoadRead :=
  s.loaderRead i root k (cuts va (n / 64 + 2) n)

/-! ### Item entry (R54) -/

/-- 32-bit numbers of code bytes. -/
def codeWords (bs : List Byte) : List (BitVec 32) :=
  (chunks 4 (bs.length / 4 + 1) bs).map fun c => BitVec.ofNat 32 (leNat c)

/-- 64-byte live maps. -/
def liveMaps (bs : List Byte) : List (BitVec 512) :=
  (chunks 64 (bs.length / 64 + 1) bs).map fun c => BitVec.ofNat 512 (leNat c)

/-- The s-registers of an item at entry: counts in s16 to s21, indices in s24 to s29, all others 0 (R36). -/
def entrySregs (it : Item) : Vector Word 32 :=
  Vector.ofFn fun r : Fin 32 =>
    if 16 ≤ r.val ∧ r.val < 22 then (it.cnt.getD (r.val - 16) 0).zeroExtend 64
    else if 24 ≤ r.val ∧ r.val < 30 then (it.idx.getD (r.val - 24) 0).zeroExtend 64
    else 0

/-- The address registers at entry: %a14 the read-only data, %a15 the argument base, the others 0. -/
def entryAregs (it : Item) (img : ImageInfo) : Vector Word 16 :=
  Vector.ofFn fun r : Fin 16 =>
    if r.val = 14 then it.image + BitVec.ofNat 64 img.rodoff else if r.val = 15 then it.args else 0

/-- The arrays keep what the previous item left only where it ran under the same ROOT and the same tag. -/
def Core.keepsArrays (c : Core) (it : Item) : Bool := c.lastOwner == some (it.root, it.tag)

/-- The arrays of a core at item entry, before the copy templates: banks, VRF and scratchpad zero or kept, feeds empty, no
template valid. -/
def Core.entryArrays (c : Core) (it : Item) (imem : Sparse 32) (maps : List (BitVec 512)) : CoreArrays :=
  let old := if c.keepsArrays it then c.arrays else CoreArrays.empty
  { imem := imem, vrf := old.vrf, sp := old.sp, acc0 := old.acc0, acc1 := old.acc1, feedA := [], feedB := [],
    templates := [], tvalid := 0, livemaps := maps }

/-- The state of a core at item entry (R54, R93, R107, R184, R310). -/
def Core.entered (c : Core) (it : Item) (img : ImageInfo) (imem : Sparse 32) (maps : List (BitVec 512)) : Core :=
  { c with
    status := .loaded, image := some img, resident := some (it.image, it.root), pc := img.entry
    sregs := entrySregs it, aregs := entryAregs it img, bank0 := Bank.empty, bank1 := Bank.empty
    level0 := SeqLevel.empty, level1 := SeqLevel.empty, tl := false, chk := false, clause := Clause.empty
    trapRegs := TrapRegs.zero, factor := FactorRegs.zero
    sys := { SysRegs.zero with ctx := it.tag }
    seq := SeqState.zero
    queues := { CoreQueues.empty with order := c.queues.order }
    ports := Vector.replicate 8 Port.unset, bufs := Vector.replicate 16 CircBuf.unset, bindings := []
    arrays := c.entryArrays it imem maps
    caches := { c.caches with l1 := [], ro := [], stores := [] }
    faults := [], channels := [], overwritten := [], rows := [], rowFifo := [], phase := none, cancels := (0, 0), fills := [], refetch := []
    damage := c.damage.filter fun d => d.place == partTlb || (c.keepsArrays it && d.place == partAcc) }

/-- Errors in arrays that item entry zeroes go with what they held. -/
def State.clearedLocal (s : State) (i : Fin 96) (keeps : Bool) : State :=
  if keeps || s.mem.marks.isEmpty then s
  else s.setMem { s.mem with marks := s.mem.marks.filter fun k => !((k.place == placeSp || k.place == placeVrf) && k.core == i.val) }

/-- The item enters: its state is set and the copy templates stand in scratchpad at CTBASE. -/
def State.enterItem (s : State) (i : Fin 96) (it : Item) (img : ImageInfo) (imem : Sparse 32) (maps : List (BitVec 512))
    (ct : List Byte) : State :=
  let c := s.cores[i]
  let s := (s.clearedLocal i (c.keepsArrays it))
  let s := { s with cores := s.cores.set i (c.entered it img imem maps) }
  s.onCore i fun s => s.spStore img.ctbase ct

/-- An error that the loader's read consumed: its handling ends the item with UE before it executes (R371). -/
def State.loaderError (s : State) (i : Fin 96) (line : Nat) (p : ErrorPlace) (inj : Bool) : State :=
  s.post (.ownerHandling { place := p, line := line, consumer := .loader i, injected := inj })

/-- A read of the loader decides: it waits, the item ends, or loading goes on. -/
def LoadRead.andThen (r : LoadRead) (i : Fin 96) (f : State → List Byte → State) : State :=
  match r with
  | .bytes bs s => f s bs
  | .wait s => s
  | .fail s => s.endItem i stFault 0 false false
  | .bad line p inj s => s.loaderError i line p inj

/-- The code of an image: what IMEM holds where the image is resident, else a fresh copy (R53). -/
def State.loadCode (s : State) (i : Fin 96) (it : Item) (h : ImageHeader) (f : State → Sparse 32 → State) : State :=
  let c := s.cores[i]
  if !it.flag 5 && c.resident == some (it.image, it.root) then f s c.arrays.imem
  else
    (s.loaderBytes i it.root (it.image + BitVec.ofNat 64 (ImageHeader.codeOff h)) (ImageHeader.codeSize h) .code).andThen i
      fun s bs => f s (pokeN (s.cores[i]).arrays.imem 0 (codeWords bs))

/-- ITEM_LOAD (R53): header, code, copy templates and live maps, in order. -/
def execItemLoad (s : State) : Answer :=
  let i := s.cur
  .next (match s.core.status, s.core.item with
    | .loading, some it =>
      if it.image.toNat % 64 ≠ 0 then s.endItem i stFault 1 false false
      else (s.loaderBytes i it.root it.image 64 .read).andThen i fun s bs =>
        let h : ImageHeader := BitVec.ofNat 512 (leNat bs)
        if !ImageHeader.wf h then s.endItem i stFault 1 false false
        else s.loadCode i it h fun s imem =>
          (s.loaderBytes i it.root (it.image + BitVec.ofNat 64 (ImageHeader.ctOff h)) (64 * ImageHeader.ctCount h) .read).andThen i
            fun s ct =>
              (s.loaderBytes i it.root (it.image + BitVec.ofNat 64 (ImageHeader.lmOff h)) (64 * ImageHeader.lmCount h)
                .read).andThen i fun s lm => s.enterItem i it (ImageHeader.info h) imem (liveMaps lm) ct
    | _, _ => s.hold)

/-! ### Direct launch (R51, R52) -/

/-- The item that a mailbox describes. -/
def Core.mailboxItem (c : Core) (group : Nat) (replay : Bool) : Item :=
  let m := c.mailbox
  { command := none, queue := 0, lin := 0, phase := 0, root := bitsAt m 588 45 * 2 ^ 12, image := BitVec.ofNat 64 (bitsAt m 0 64),
    args := BitVec.ofNat 64 (bitsAt m 64 64), tag := BitVec.ofNat 16 (bitsAt m 512 16),
    idx := (List.range 6).map fun n => BitVec.ofNat 32 (bitsAt m (128 + 32 * n) 32)
    cnt := (List.range 6).map fun n => BitVec.ofNat 32 (bitsAt m (320 + 32 * n) 32)
    flags := BitVec.ofNat 6 (bitsAt m 544 6), group := group, pto := bitsAt m 640 32,
    replay := m.getLsbD 546 && replay, resume := none, die := none, prio := 0, pressed := false }

/-- GO (R52): it starts the item described, or is ignored and logged while an item is there. A tag that is neither 0 nor
LIVE ends the item with FAULT. -/
def execGo (s : State) : Answer :=
  let c := s.core
  let it := c.mailboxItem (8 * s.control.nextGroup) s.order.replay
  .next (
    if c.item.isSome then s.control!
    else
      let s := (s.handOver s.cur it).setControl { s.control with nextGroup := s.control.nextGroup + 1 }
      if it.tag = 0 ∨ s.tags.isLive it.tag.toNat = true then s else s.endItem s.cur stFault 3 false false)

end Sys2Proof.Machine
end

