-- ==== Sys2Proof/Machine/TagWords.lean ====
section
/-! DEFINITION. The tag group (R262 to R265). -/

namespace Sys2Proof.Machine

/-- A tag operand out of range (R262). -/
def tagRange (v : Word) : Bool := decide (v.toNat < 2 ^ 16)

/-- TAGNEW (R263): it holds the LQ until the allocator grants a tag. -/
def execTagnew (wn sn : Bool) (s : State) : Answer :=
  fullWord (.tagnew wn sn) true [] true true (fun s _ => s.tagRequest true) s

/-- TAGNEW_NB (R263). -/
def execTagnewNb (wn sn : Bool) (s : State) : Answer :=
  fullWord (.tagnewNb wn sn) true [] true true (fun s _ => s.tagRequest false) s

/-- TAGRET (R265): with WAIT it completes when the tag it began to retire is no longer RETIRING. -/
def execTagret (wn sn : Bool) (x : OpCode) (wait : Bool) (s : State) : Answer :=
  fullWord (.tagret wn sn x wait) true [x] false true (fun s e =>
    let v := arg0 e.caps
    let t := v.toNat
    if !tagRange v || t = 0 then e.refused s
    else if arg1 e.caps = 1 then
      (if s.tags.tags.any fun k => k.1 == t && k.2 == .retiring then .block s else .done s)
    else if !s.tags.isLive t then .done s
    else
      let s := s.beginRetire t
      if wait then .wait (s.withCore (s.core.setSide true ({ e with caps := [v, 1] } :: (s.core.side true).drop 1)))
      else .done s) s

/-- Every access routed from now on is ordered after every access routed before (R264). -/
def Core.orderAll (c : Core) : Core :=
  Core.settleStores { c with queues := { c.queues with lqKnows := c.queues.sqDone, cqKnows := c.queues.sqDone } }

/-- The check and the effect common to `ctxset` and `xtagset` (R264). -/
def tagWord (i : Instr) (x : OpCode) (put : Core → Tag → Core) (s : State) : Answer :=
  fullWord i true [x] false true (fun s e =>
    let v := arg0 e.caps
    if !tagRange v then e.refused s
    else if !s.core.queues.sq.isEmpty then .block s
    else if !s.tags.isLive v.toNat then e.refused s
    else .done (s.withCore (put s.core.orderAll (BitVec.truncate 16 v)))) s

/-- CTXSET (R264). -/
def execCtxset (wn sn : Bool) (x : OpCode) (s : State) : Answer :=
  tagWord (.ctxset wn sn x) x (fun c t => { c with sys := { c.sys with ctx := t } }) s

/-- XTAGSET (R264). -/
def execXtagset (wn sn : Bool) (x : OpCode) (s : State) : Answer :=
  tagWord (.xtagset wn sn x) x (fun c t => { c with sys := { c.sys with xtag := t } }) s

end Sys2Proof.Machine
end

