-- ==== Sys2Proof/Machine/Tb.lean ====
section
/-! DEFINITION. Transaction barriers (R246 to R250): updates, credits and the tb group. -/

namespace Sys2Proof.Machine

/-! ### Updates (R246, R247) -/

abbrev Barrier := BitVec 128

def Barrier.ph (b : Barrier) : Nat := bitsAt b 0 4
def Barrier.arr (b : Barrier) : Nat := bitsAt b 4 16
def Barrier.reload (b : Barrier) : Nat := bitsAt b 20 16
def Barrier.pending (b : Barrier) : Nat := bitsAt b 36 32
/-- CLIP, OVR and FLT of the current phase, from the low bit up. -/
def Barrier.flags (b : Barrier) : Nat := bitsAt b 68 3
/-- LCLIP, LOVR and LFLT. -/
def Barrier.lastFlags (b : Barrier) : Nat := bitsAt b 71 3

/-- The phase rule (R247). -/
def Barrier.settle (b : Barrier) : Barrier :=
  if b.arr = 0 ∧ b.pending = 0 then
    putBits (putBits (putBits (putBits b 0 4 ((b.ph + 1) % 16)) 4 16 b.reload) 71 3 b.flags) 68 3 0
  else b

/-- Sets a flag of the current phase: 0 CLIP, 1 OVR, 2 FLT. -/
def Barrier.flag (b : Barrier) (k : Nat) : Barrier := putBits b (68 + k) 1 1

/-- CreditBarrier (R31, R247). -/
def Barrier.credit (b : Barrier) (n : Nat) : Barrier :=
  Barrier.settle (if b.pending < n then putBits (b.flag 1) 36 32 0 else putBits b 36 32 (b.pending - n))

/-- One arrival, without the phase rule. -/
def Barrier.arrive (b : Barrier) : Barrier := if b.arr = 0 then b.flag 1 else putBits b 4 16 (b.arr - 1)

/-- More bytes expected, without the phase rule. -/
def Barrier.expect (b : Barrier) (n : Nat) : Barrier :=
  if 2 ^ 32 - 1 < b.pending + n then putBits (b.flag 1) 36 32 (2 ^ 32 - 1) else putBits b 36 32 (b.pending + n)

/-- A barrier as `tbinit` leaves it. -/
def Barrier.fresh (n : Nat) : Barrier := putBits (putBits 0 4 16 n) 20 16 n

/-- The barrier at a scratchpad offset of a core. -/
def Core.barrier (c : Core) (off : Nat) : Barrier := BitVec.ofNat 128 (leNat (c.spBytes off 16))

/-- An update of a barrier by an instruction of its core: one indivisible step on its 16 bytes. -/
def State.updateBarrier (s : State) (off : Nat) (f : Barrier → Barrier) : State :=
  s.spPut off (vecBytes (f (s.core.barrier off)))

/-- An update of a barrier by an engine: a credit, and the flags set before it (R239, R247). -/
def State.creditBarrier (s : State) (off : Nat) (f : Barrier → Barrier) : State :=
  s.spPatch off (vecBytes (f (s.core.barrier off)))

/-! ### The tb group (R249) -/

/-- A tb word: the checks on its offset, then `run` on the barrier. -/
def tbWord (i : Instr) (a : BitVec 4) (imm : BitVec 8) (codes : List OpCode) (delivers forbidden : Bool)
    (run : State → QEntry → Nat → Barrier → Attempt) (s : State) : Answer :=
  queueWord i true codes delivers forbidden (fun s e =>
    let off := (s.core.ea a 0 imm 16).toNat
    if 2 ^ 23 ≤ off then e.refused s
    else if off % 16 ≠ 0 then .trap s causeAlign 3 (some (BitVec.ofNat 64 off))
    else match s.inspectLocal placeSp off 16 with
      | (s, some inj) => .dead (s.consumed inj)
      | (s, none) => run s e off (s.core.barrier off)) s

/-- TBINIT (R249). -/
def execTbinit (wn sn : Bool) (a : BitVec 4) (x : OpCode) (imm : BitVec 8) (s : State) : Answer :=
  tbWord (.tbinit wn sn a x imm) a imm [x] false true (fun s e off _ =>
    let n := (arg0 e.caps).toNat
    if n = 0 ∨ 65535 < n then e.refused s else .done (s.spPut off (vecBytes (Barrier.fresh n)))) s

/-- TBARR (R249). -/
def execTbarr (wn sn : Bool) (a : BitVec 4) (imm : BitVec 8) (s : State) : Answer :=
  tbWord (.tbarr wn sn a imm) a imm [] true true (fun s _ off b =>
    .deliver (s.updateBarrier off fun b => Barrier.settle (Barrier.arrive b)) (BitVec.ofNat 64 b.ph)) s

/-- TBEXP (R249). -/
def execTbexp (wn sn : Bool) (a : BitVec 4) (x : OpCode) (imm : BitVec 8) (s : State) : Answer :=
  tbWord (.tbexp wn sn a x imm) a imm [x] false true (fun s e off _ =>
    let n := (arg0 e.caps).toNat
    if 2 ^ 32 - 1 < n then e.refused s else .done (s.updateBarrier off fun b => Barrier.settle (Barrier.expect b n))) s

/-- TBARREXP (R249): the two steps as one update. -/
def execTbarrexp (wn sn : Bool) (a : BitVec 4) (x : OpCode) (imm : BitVec 8) (s : State) : Answer :=
  tbWord (.tbarrexp wn sn a x imm) a imm [x] true true (fun s e off b =>
    let n := (arg0 e.caps).toNat
    if 2 ^ 32 - 1 < n then e.refused s
    else .deliver (s.updateBarrier off fun b => Barrier.settle (Barrier.arrive (Barrier.expect b n))) (BitVec.ofNat 64 b.ph)) s

/-- TBWAIT (R249). -/
def execTbwait (wn sn : Bool) (a : BitVec 4) (x : OpCode) (imm : BitVec 8) (s : State) : Answer :=
  tbWord (.tbwait wn sn a x imm) a imm [x] true false (fun s e _ b =>
    if b.ph = (arg0 e.caps).toNat % 16 then .block s else .deliver s (BitVec.ofNat 64 b.lastFlags)) s

/-- TBTEST (R249). -/
def execTbtest (wn sn : Bool) (a : BitVec 4) (imm : BitVec 8) (s : State) : Answer :=
  tbWord (.tbtest wn sn a imm) a imm [] true false (fun s _ _ b =>
    .deliver s (BitVec.ofNat 64
      (b.ph + 16 * b.lastFlags + 128 * b.flags + 2 ^ 10 * b.arr + 2 ^ 26 * b.pending))) s

end Sys2Proof.Machine
end

