-- ==== Sys2Proof/Machine/CoreEvents.lean ====
section
/-! DEFINITION. What happens on a core between its words: token pushes (R79), trap entry (R348, R351), an encoding that is no
word (R77), requests from outside (R358), termination (R381), retirement (R110) and the retirement of tags (R269). -/

namespace Sys2Proof.Machine

/-! ### TOKEN_PUSH (R79) -/

/-- The head of the LQ or SQ, which has completed, pushes its token once the counter has fallen. -/
def State.pushSide (s : State) (lq : Bool) : State :=
  let c := s.core
  match c.side lq with
  | [] => s.hold
  | e :: rest => match e.state with
    | .pushing _ _ => if c.canPush lq then s.withCore ((c.setSide lq rest).pushToken lq) else s.hold
    | _ => s.hold

/-- Operations that have completed, at the front of the CQ, push what the counters allow, each as soon as its own counter has fallen: what is
left of the CQ, and the core with the tokens. -/
def Core.pushAll (c : Core) : List QEntry → List QEntry × Core
  | [] => ([], c)
  | e :: rest => match e.state with
    | .pushing p n =>
      let r := c.pushCq p n
      let q := r.1.pushAll rest
      (if r.2.1 || r.2.2 then { e with state := .pushing r.2.1 r.2.2 } :: q.1 else q.1, q.2)
    | _ => (e :: rest, c)

/-- The CQ pushes what the counters allow. -/
def State.pushHead (s : State) : State :=
  let r := s.core.pushAll s.core.queues.cq
  if r.1 = s.core.queues.cq then s.hold else s.withCore { r.2 with queues := { r.2.queues with cq := r.1 } }

/-- TOKEN_PUSH (R79), by the engine in focus. -/
def execTokenPush (s : State) : Answer :=
  .next (match s.actor with
    | .lq => s.pushSide true
    | .sq => s.pushSide false
    | .cq => s.pushHead
    | .seq => s.hold)

/-! ### Stillness and trap entry (R348, R351) -/

/-- The wide operation of an entry. -/
def wideOf (i : Instr) : Option WideOp :=
  match i with
  | .vadd op | .vsub op | .vmul op | .vfma op | .vfms op | .vmin op | .vmax op | .vabs op | .vneg op | .vrcp op | .vrsqrt op
  | .vsqrt op | .vexp2 op | .vlog2 op | .vtanh op | .vscale op | .viadd op | .visub op | .vimul op | .vand op | .vor op
  | .vxor op | .vnot op | .vshl op | .vshr op | .vsar op | .vimin op | .vimax op | .viminu op | .vimaxu op | .vcmp op
  | .vsel op | .vrsum op | .vrmax op | .vrmin op | .vcsum op | .vmov op | .vbcast op | .vext op | .vins op | .viota op
  | .vperm op | .vcompact op | .vtrans op | .vcvt op | .vq4 op | .vdq4 op | .mzero op | .mload op | .mma op | .mdrain op
  | .mchol op | .mlu op | .mqr op | .mtrs op | .mshift op | .mpiv op => some op
  | _ => none

/-- An LQ word that delivers to the load-return queue (R201). -/
def delivers (i : Instr) : Bool :=
  match i with
  | .aget .. | .ldB .. | .ldBu .. | .ldH .. | .ldHu .. | .ldW .. | .ldWu .. | .ldD .. | .ldroW .. | .ldroD .. | .ldxW ..
  | .ldxD .. | .acq .. | .tbarr .. | .tbarrexp .. | .tbwait .. | .tbtest .. | .amoAdd .. | .amoAnd .. | .amoOr ..
  | .amoXor .. | .amoMin .. | .amoMax .. | .amoMinu .. | .amoMaxu .. | .amoSwap .. | .amoFadd .. | .amoFmin .. | .amoFmax ..
  | .cas .. | .tagnew .. | .tagnewNb .. => true
  | _ => false

/-- The slots or the feeds that an operation takes at acceptance are not there (R145, R168). -/
def Core.wantsSlots (c : Core) (r : Rec) : Bool :=
  r.portsOf.all (fun p => c.portOk r p) &&
    !(c.inputsReady (c.popSources r) && c.feedsReady r &&
      (descKind (r.desc 0) != 1 || c.outputReady (descPort (r.desc 0)) (c.pushCount r (c.columnsAsked r))))

/-- The CQ is still: empty, stopped, or its head waits for a token, a slot or a feed. -/
def State.cqStill (s : State) : Bool :=
  let c := s.core
  c.queues.windows.isEmpty &&
    match c.queues.cq with
    | [] => true
    | e :: _ => match e.state, wideOf e.instr with
      | .stopped _, _ => true
      | .pushing _ _, _ => false
      | _, none => false
      | st, some op =>
        decide (c.units.cqNext ≤ s.now) && c.unitFree op.record s.now &&
          ((st == .waiting && !c.cqTokens op) ||
            (Rec.feedOk op.record && decide (s.minLatency op.record ≤ Rec.lat op.record) && c.wantsSlots op.record))

/-- The barrier phase that a `tbwait` waits to see completed has not (R249). -/
def Core.barrierHolds (c : Core) (e : QEntry) (a : BitVec 4) (imm : BitVec 8) : Bool :=
  let off := (c.ea a 0 imm 16).toNat
  decide (off < 2 ^ 23) && off % 16 == 0 && Barrier.ph (c.barrier off) == (arg0 e.caps).toNat % 16

/-- An `mld` has no room for its next row (R165). -/
def Core.feedFull (c : Core) (e : QEntry) (feed : BitVec 2) : Bool :=
  let d := arg0 e.caps
  decide (bitsAt c.sys.mprog 0 16 < bitsAt d 32 16 ∧ 65536 < (c.feed feed).length + bitsAt d 48 16)

/-- An LQ instruction that has started waits for what only other work can end. -/
def State.lqBlocked (s : State) (e : QEntry) : Bool :=
  match e.instr with
  | .tbwait _ _ a _ imm => s.core.barrierHolds e a imm
  | .tagnew .. => s.tags.asks s.cur.val
  | .mld _ _ feed _ _ => s.core.feedFull e feed
  | _ => s.order.waiting.contains (.atomic s.cur)

/-- The SQ is still: empty, stopped, or its head waits for a token. -/
def State.sqStill (s : State) : Bool :=
  match s.core.queues.sq with
  | [] => true
  | e :: _ => match e.state with
    | .stopped _ => true
    | .waiting => e.waits false && !s.core.hasToken false
    | _ => false

/-- What R348 counts as a wait of a started LQ instruction: a barrier phase, the allocator, and a replay hold, which counts as a token
(R389). -/
def State.lqWaits (s : State) (e : QEntry) : Bool :=
  match e.instr with
  | .mld .. => false
  | _ => s.lqBlocked e

/-- The LQ is still: empty, stopped, or its head waits for a token, a barrier phase or the allocator. -/
def State.lqStill (s : State) : Bool :=
  let c := s.core
  match c.queues.lq with
  | [] => true
  | e :: _ => match e.state with
    | .stopped _ => true
    | .waiting => e.waits true && !c.hasToken true
    | .begun => s.lqWaits e
    | .pushing _ _ => false
    | .again => false

/-- The stall wire holds a trap that was raised while it was asserted (R348); the trap of a declined fault waits for the others of its group
(R69). -/
def State.trapWaits (s : State) (t : TrapReq) : Bool := (t.wired || s.core.xlatPending) && s.wireHolds

/-- TRAP_ENTRY (R348, R351): the trap that has been raised is taken once every queue is still and no stall wire holds it.
What traps in an item that is being terminated is abandoned with it (R364, R381). -/
def execTrapEntry (s : State) : Answer :=
  .next (match s.core.seq.trap with
    | none => s.hold
    | some t => if s.core.isEnding || s.trapWaits t || !s.lqStill || !s.cqStill || !s.sqStill then s.hold else s.takeTrap t)

/-- ILLEGAL_WORD (R77): the word at the pc is none of the listing. -/
def execIllegalWord (word : IWord) (s : State) : Answer := .next (s.raiseSeq causeIllegal (illegalInfo word 0))

/-! ### Requests from outside (R358) -/

/-- INTERRUPT_REQUEST (R358). -/
def execInterruptRequest (core : Fin 96) (value : Bool) (s : State) : Answer :=
  .next { s with cores := s.cores.set core { s.cores[core] with irq := value } }

/-- A pre-emption has begun: its request can be withdrawn no more. -/
def Core.preempting (c : Core) : Bool :=
  match c.seq.mode with
  | .preempting _ _ => true
  | _ => false

/-- PREEMPTION_REQUEST (R358). -/
def execPreemptionRequest (core : Fin 96) (value : Bool) (s : State) : Answer :=
  .next (
    if value then s.requestPreempt core
    else if (s.cores[core]).preempting then s
    else { s.dropTimeout core with cores := s.cores.set core { s.cores[core] with prq := false } })

/-! ### Sectors of a copy (R240, R311) -/

/-- The unwritten bytes of half `h` of a sector. -/
def SectorBuf.half (b : SectorBuf) (h : Nat) : List (Nat × List Byte) := b.writes.filter fun w => w.1 / 16 % 2 == h

/-- The sector once half `h` of it has been written. -/
def SectorBuf.wrote (b : SectorBuf) (h : Nat) : SectorBuf :=
  { b with writes := b.writes.filter fun w => w.1 / 16 % 2 != h, begun := true }

/-- Writes the bytes of a granule of memory at once, performed at DEVICE scope (R311). -/
def State.writePiece (s : State) (i : Fin 96) (writes : List (Nat × List Byte)) : State :=
  match writes with
  | [] => s
  | (pa, _) :: _ =>
    if (s.mem.region pa).cached then
      let key := pa / 64
      let owner := s.tags.ownerOf pa
      let s := s.l2Fill key owner
      let off := pa % 64 / 16 * 16
      let x := writes.foldl (fun x w => patchLine x (w.1 % 64) w.2) (s.mem.lineAt key)
      s.writeHome key off (lineBytes x off 16) (dieOf i.val) owner
    else s

/-- Half `h` of a sector, of memory or of a scratchpad, is written. -/
def State.writeHalf (s : State) (i : Fin 96) (memory : Bool) (b : SectorBuf) (h : Nat) : State :=
  if memory then s.writePiece i (b.half h)
  else s.onCore (coreOf b.core) fun s => (b.half h).foldl (fun s w => s.spPatch w.1 w.2) s

/-- A command in execution comes to a sector boundary: what is left of the sectors it has begun to write is written (R381). -/
def State.finishSectors (s : State) (i : Fin 96) (r : CopyRun) : State :=
  (r.pend.filter (·.begun)).foldl (fun s b => [0, 1].foldl (fun s h => s.writeHalf i (r.template.getLsbD 61) b h) s) s

/-! ### Termination (R381) -/

/-- A unit of the core waits for the answer to a page request. -/
def Core.awaitsPage (c : Core) (u : Actor) : Bool :=
  c.faults.any fun f => f.unit == u && !f.declined && match f.event with
    | .pageRequest _ _ => true
    | _ => false

/-- A push to a full block-transfer channel, or a row word with its queue full. -/
def State.sqBlocked (s : State) (e : QEntry) : Bool :=
  let push (imm : BitVec 8) (k : Kind) : Bool :=
    match s.mapAccess e (e.ea imm 8) 8 (s.core.tagFor k) k ((e.ea imm 8).toNat % 8 == 0) with
    | .ok [g] => (match g.target with
      | .local_ off => decide (off < 0x400 ∧ off % 64 = 0 ∧ 4 ≤ (s.core.channel (off / 64)).jobs.length)
      | _ => false)
    | _ => false
  match e.instr with
  | .stD _ _ _ _ imm => push imm .write
  | .stxD _ _ _ _ imm => push imm .xwrite
  | .rowcopy .. | .rowfill .. | .rowand .. | .rowor .. | .rowxor .. | .rownot .. | .rowmaj .. => decide (4 ≤ s.core.rows.length)
  | _ => false

/-- The head of a side has started and is blocked on what only other work can end. -/
def State.sideBlocked (s : State) (lq : Bool) (e : QEntry) : Bool :=
  s.core.awaitsPage (if lq then .lq else .sq) || (if lq then s.lqBlocked e else s.sqBlocked e)

/-- What a termination leaves of a side: its head, where that has started and is not blocked. -/
def State.keepSide (s : State) (lq : Bool) : List QEntry := (keepBegun (s.core.side lq)).filter fun e => !s.sideBlocked lq e

/-- What a termination discards at once; `lq` and `sq` are what it leaves of the queues. -/
def Core.cutShort (c : Core) (status detail : Byte) (lq sq : List QEntry) : Core :=
  { c with
    seq := { c.seq with mode := .ending status detail, waiting := false, trap := none }
    clause := { c.clause with valid := false }
    phase := none, channels := [], overwritten := [], refetch := [], fills := [], rows := (c.rows.take 1).filter (·.begun)
    bank0 := { c.bank0 with loads := [] }, bank1 := { c.bank1 with loads := [] }
    queues := { c.queues with
      lq := lq, cq := [], sq := sq, unplaced := [], parkL := [], parkC := [], parkS := [] } }

/-- The head of a side of an ending core has finished, or is abandoned. -/
def State.sideOver (s : State) (lq : Bool) : Bool :=
  match s.core.side lq with
  | [] => true
  | e :: _ => e.state != .begun || s.sideBlocked lq e

/-- Everything that had started on an ending core has come to its end. -/
def State.allOver (s : State) : Bool :=
  s.core.queues.windows.isEmpty && s.core.rows.isEmpty && s.sideOver true && s.sideOver false

/-- A running item is terminated: what is abandoned goes at once, copies at a sector boundary, and a `tagnew` that waits with its request
(R263). -/
def State.cutCore (s : State) (i : Fin 96) (status detail : Byte) : State :=
  let s := ((s.cores[i]).channels.filterMap (·.2.run)).foldl (fun s r => s.finishSectors i r) s
  let u := s.onUnit i .seq
  let s := { s with cores := s.cores.set i ((s.cores[i]).cutShort status detail (u.keepSide true) (u.keepSide false)) }
  s.dropRequest i.val

/-- TERMINATION (R381): the first one that reaches an item decides its status. -/
def execTermination (core : Fin 96) (status detail : Byte) (s : State) : Answer :=
  let c := s.cores[core]
  .next (
    if c.item.isNone then s
    else if c.status ≠ .running then s.endItem core status.toNat detail.toNat true true
    else match c.seq.mode with
      | .ending st d => if (s.onUnit core .seq).allOver then s.endItem core st.toNat d.toNat true true else s.hold
      | _ => s.cutCore core status detail)

/-! ### ITEM_RETIRE (R110) -/

/-- Nothing of the item is left to do. -/
def Core.drained (c : Core) : Bool :=
  c.queuesEmpty && c.seq.trap.isNone && c.phase.isNone && c.rows.isEmpty && c.channels.all fun x => x.2.jobs.isEmpty

/-- ITEM_RETIRE (R110): after the drain at `done` the item commits. Its writes have been performed at DEVICE scope. -/
def execItemRetire (s : State) : Answer :=
  let c := s.core
  let fault := c.tl && bitsAt c.trapRegs.cause 0 8 == causeXlate
  .next (
    if c.status ≠ .running ∨ c.seq.mode ≠ .draining ∨ c.drained = false then s.hold
    else s.endItem s.cur (if fault then stFault else stOk) 0 false fault)

/-! ### TAG_RETIREMENT (R269) -/

/-- The command in execution on a channel has bytes for memory that are not yet written (R240). -/
def Channel.writing (x : Channel) : Bool :=
  match x.run with
  | some r => r.template.getLsbD 61 && r.pend.any fun b => !b.writes.isEmpty
  | none => false

/-- An engine of a core holds translations of a tag. -/
def Core.engineTag (c : Core) (t : Nat) : Bool :=
  (c.rows.any fun r => r.begun && r.tag.toNat == t && !r.fills.isEmpty) ||
    c.channels.any fun x => x.2.writing && (x.2.jobs.take 1).any fun j => j.tag.toNat == t

/-- A materialisation for a tag waits for its pool to grow (R257, R269). -/
def PageUnit.poolWaits (p : PageUnit) (t : Nat) : Bool :=
  p.outstanding.any (fun r => r.kind == 2 && r.req.tag.toNat == t) || p.waiting.any fun w => w.kind == 2 && w.req.tag.toNat == t

/-- An access that was translated under a tag has not been performed. -/
def State.tagBusy (s : State) (t : Nat) : Bool :=
  s.materialising t || s.pages.poolWaits t || s.tags.owed.any (fun o => o.req.tag.toNat == t) || (List.finRange 96).any fun i => (s.cores[i]).engineTag t

/-- Commands that waited for a FRESH tag to be FREE again. -/
def State.tagBack (s : State) (t : Nat) : State :=
  let ids := (s.control.commands.filter fun a => a.tags.contains t).map (·.id)
  let s := s.setControl { s.control with commands := s.control.commands.map fun a => { a with tags := a.tags.filter (· != t) } }
  ids.foldl (fun s id => s.checkCommand id) s

/-- Completed stores to pages of a tag are performed. -/
def State.performOwned (s : State) (t : Nat) : State :=
  (List.finRange 96).foldl (fun s i => s.performStores i fun w => w.owner.toNat == t) s

/-- TAG_RETIREMENT (R269). -/
def execTagRetirement (tag : Tag) (s : State) : Answer :=
  let t := tag.toNat
  .next (
    if !(s.tags.tags.any fun e => e.1 == t && e.2 == .retiring) then s
    else if s.tagBusy t then s.hold
    else
      let s := (s.performOwned t).freeTag t
      (s.grantWaiters s.tags.waiters.length).tagBack t)

end Sys2Proof.Machine
end

