-- ==== Sys2Proof/Machine/Preempt.lean ====
section
/-! DEFINITION. Pre-emption at a safe point, resumption and the pre-emption timeout (R360 to R364). -/

namespace Sys2Proof.Machine

/-! ### Live maps (R360) -/

abbrev LiveMap := BitVec 512

/-- The VRF registers of the listed blocks, in list order. -/
def LiveMap.regs (m : LiveMap) : List Nat :=
  (List.range (bitsAt m 331 5)).flatMap fun b =>
    blockRegs (bitsAt m (16 * b + 11) 5) (bitsAt m (16 * b + 6) 5) (bitsAt m (16 * b + 3) 3 + 1) (bitsAt m (16 * b) 3 + 1)

/-- The listed banks. -/
def LiveMap.banks (m : LiveMap) : List Nat := (List.range 2).filter fun b => m.getLsbD (328 + b)

/-- Listed members of a mask of `n` bits from `lo` on. -/
def LiveMap.listed (m : LiveMap) (lo n : Nat) : List Nat := (List.range n).filter fun k => m.getLsbD (lo + k)

/-! ### The save area (R361) -/

/-- The runs of the save area below 0x2000 that are written, as (offset, length). -/
def LiveMap.spans (m : LiveMap) : List (Nat × Nat) :=
  (0, 0x360) :: (if m.getLsbD 330 then [(0x360, 128)] else []) ++
    (LiveMap.listed m 256 32).map (fun k => (0x3E0 + 8 * k, 8)) ++
    (LiveMap.listed m 288 16).map (fun k => (0x4E0 + 8 * k, 8)) ++
    (LiveMap.listed m 304 8).map (fun k => (0x560 + 96 * k, 96)) ++
    (LiveMap.listed m 312 16).map (fun k => (0x860 + 32 * k, 32)) ++ [(0xA60, 0x15A0)]

/-- Doublewords in memory order. -/
def dwords (l : List Nat) : List Byte := l.flatMap (leBytes 8)

/-- A list of `n` numbers, filled up with zeros. -/
def padTo (n : Nat) (l : List Nat) : List Nat := (l ++ List.replicate n 0).take n

/-- A port as the save area holds it. -/
def Port.saved (p : Port) : List Byte :=
  if p.set then
    vecBytes p.desc ++ dwords (padTo 4 [p.index + p.slot.getD 0 * 2 ^ 32 + natOfBool p.slot.isSome * 2 ^ 40])
  else zeroBytes 96

/-- A buffer as the save area holds it. -/
def CircBuf.saved (b : CircBuf) : List Byte :=
  if b.set then vecBytes b.desc ++ [b.filled, b.free, b.pptr, b.cptr].flatMap (leBytes 4) else zeroBytes 32

/-- The doubleword of counters at 0x0078. -/
def Core.countsWord (c : Core) : Nat :=
  let t := c.bank0.tok
  t.lqcq + t.cqsq * 2 ^ 4 + t.cqlq * 2 ^ 8 + t.sqcq * 2 ^ 12 + c.level0.rs.length * 2 ^ 16 + c.level0.ldepth * 2 ^ 24 +
    c.bank0.loads.length * 2 ^ 32

/-- The first 0x2000 bytes of the save area, every field in its place. -/
def Core.saveImage (c : Core) (n resumePc sched : Nat) : List Byte :=
  dwords [1 + n * 2 ^ 16, resumePc, sched, c.sys.ctx.toNat + c.sys.xtag.toNat * 2 ^ 16 + natOfBool c.chk * 2 ^ 32,
    c.sys.spbase.toNat, c.sys.landbase.toNat, c.factor.fcol.toNat, c.factor.fstat.toNat, c.factor.grow.toNat,
    c.factor.bkval.toNat, c.factor.pivdst.toNat] ++ vecBytes c.clause.saved ++ dwords [c.countsWord] ++
    dwords ((List.range 4).flatMap fun k => [(c.level0.loopAt k).first, (c.level0.loopAt k).last, (c.level0.loopAt k).rem]) ++
    dwords (padTo 16 c.level0.rs.reverse) ++ dwords (padTo 64 (c.bank0.loads.map (·.toNat))) ++
    dwords (c.bank0.resq.toList.map (·.toNat)) ++ dwords (c.sregs.toList.map (·.toNat)) ++
    dwords (c.aregs.toList.map (·.toNat)) ++ c.ports.toList.flatMap Port.saved ++ c.bufs.toList.flatMap CircBuf.saved ++
    dwords (padTo 4 [c.arrays.tvalid.toNat]) ++
    (List.range 64).flatMap (fun k => vecBytes (lookupD (0 : BitVec 256) c.bindings k)) ++
    (List.range 64).flatMap (fun k => vecBytes (peek c.arrays.templates k)) ++ dwords [bitsAt c.factor.mmax 0 32] ++
    zeroBytes 1400

/-- The listed buffers that are set. -/
def Core.listedBufs (c : Core) (m : LiveMap) : List CircBuf :=
  ((LiveMap.listed m 312 16).map c.buf).filter (·.set)

/-- The variable part of the save area. -/
def Core.saveBody (c : Core) (m : LiveMap) : List Byte :=
  (LiveMap.regs m).flatMap c.vreg ++
    (LiveMap.banks m).flatMap (fun b => (bankCells (c.bankCellsOf b)).flatMap fun x => leBytes 8 x.toNat) ++
    (c.listedBufs m).flatMap fun b => c.spBytes b.base (b.slotSize * b.nslots)

/-- What is written of the save area, as (offset, bytes). -/
def Core.saveRuns (c : Core) (m : LiveMap) (n resumePc sched : Nat) : List (Nat × List Byte) :=
  (LiveMap.spans m).map (fun e => (e.1, ((c.saveImage n resumePc sched).drop e.1).take e.2)) ++ [(0x2000, c.saveBody m)]

/-! ### PREEMPTION (R362) -/

/-- The entry that stands for the core's own stores to the save area: they pass no scratchpad window. -/
def saveEntry : QEntry :=
  { instr := .preemption, word := 0, caps := [], spbase := 0, landbase := 0, order := 0, base := 0, ties := [], state := .begun }

/-- SABASE. -/
def saBase (v : Word) : Word := BitVec.ofNat 64 (bitsAt v 12 45 * 2 ^ 12)

/-- The translated runs of everything that is written. -/
def State.mapSaves (s : State) (base : Word) : List (Nat × List Byte) → Except Stop (List (List Seg × List Byte))
  | [] => .ok []
  | (off, bs) :: rest =>
    match s.mapAccess saveEntry (base + BitVec.ofNat 64 off) bs.length 0 .write false with
    | .error r => .error r
    | .ok segs => (s.mapSaves base rest).map ((segs, bs) :: ·)

/-- The item leaves its core and the walker has it again, undispatched. -/
def State.requeue (s : State) (i : Fin 96) (save : Word) : State :=
  match (s.cores[i]).item with
  | none => s
  | some it =>
    let s := s.releaseCore i .idle
    s.setControl { s.control with requeued := s.control.requeued ++ [{ it with resume := some save, pressed := false }] }

/-- The save area is written once all of it translates; `sched` is SCHED as the safe point found it. -/
def State.saveItem (s : State) (n sched : Nat) : State :=
  let c := s.core
  let m : LiveMap := c.arrays.livemaps.getD n 0
  match s.mapSaves (saBase c.sys.savearea) (c.saveRuns m n (c.pc + 4) sched) with
  | .error (.trap s _ _) => s.post (.termination s.cur 0x02 0)
  | .error (.block s') => if s'.core.faults.length = c.faults.length then s.hold else s'
  | .ok runs =>
    if !(runs.all fun r => s.sitesJoined r.1) then s.hold
    else (runs.foldl (fun s r => s.writeSegs r.1 r.2) (s.performAll s.cur)).requeue s.cur c.sys.savearea

/-- The error that a save finds in the core's own structures (R367): in the listed banks, and in what is always saved. -/
def Core.savedError (c : Core) (m : LiveMap) : Option Bool :=
  let saved : List (Nat × Nat × Nat) :=
    ((LiveMap.banks m).map fun b => (partAcc, b * 16384, 16384)) ++
      [(partLoads, 0, 64), (partTemplate, 0, 64), (partBinding, 0, 64), (partClause, 0, 1)]
  saved.findSome? fun e => c.damageIn e.1 e.2.1 e.2.2

/-- PREEMPTION (R362): drain, save, requeue. An uncorrectable error in what is saved is consumed (R369). -/
def execPreemption (s : State) : Answer :=
  let c := s.core
  .next (match c.seq.mode with
    | .preempting n sched =>
      if !c.drained then s.hold
      else
        let m : LiveMap := c.arrays.livemaps.getD n.toNat 0
        match s.inspectReads (LiveMap.regs m) ((c.listedBufs m).map fun b => (b.base, b.slotSize * b.nslots)) with
        | (s, some inj) => s.consumed inj
        | (s, none) => match c.savedError m with
          | some inj => s.consumed inj
          | none => s.saveItem n.toNat sched
    | _ => s.hold)

/-! ### RESUMPTION (R363) -/

/-- A doubleword of the image of a save area. -/
def imageWord (x : Sparse 8) (off : Nat) : Nat := leNat (peekN x off 8)

/-- A field of it. -/
def imageBits (x : Sparse 8) (off lo n : Nat) : Nat := imageWord x off / 2 ^ lo % 2 ^ n

/-- Bytes of it as a vector. -/
def imageVec (x : Sparse 8) (off w : Nat) : BitVec w := BitVec.ofNat w (leNat (peekN x off (w / 8)))

/-- A port as it was saved: an all-zero descriptor is one that was not set. -/
def savedPort (x : Sparse 8) (k : Nat) : Port :=
  let d : BitVec 512 := imageVec x (0x560 + 96 * k) 512
  let o := 0x560 + 96 * k + 64
  if d = 0 then Port.unset
  else { set := true, desc := d, index := imageBits x o 0 32,
         slot := if imageBits x o 40 1 = 1 then some (imageBits x o 32 8) else none }

/-- A buffer as it was saved. -/
def savedBuf (x : Sparse 8) (k : Nat) : CircBuf :=
  let d : BitVec 128 := imageVec x (0x860 + 32 * k) 128
  let o := 0x860 + 32 * k + 16
  if d = 0 then CircBuf.unset
  else { set := true, desc := d, filled := imageBits x o 0 32, free := imageBits x o 32 32, pptr := imageBits x (o + 8) 0 32,
         cptr := imageBits x (o + 8) 32 32 }

/-- The token counters; what the tokens from the SQ had seen completed lies before anything the core still remembers. -/
def savedTokens (x : Sparse 8) : Tokens :=
  let k (lo : Nat) : Nat := imageBits x 0x78 lo 4
  { lqcq := k 0, cqsq := k 4, cqlq := k 8, sqcq := k 12, sqcqInfo := List.replicate (k 12) 0,
    cqlqInfo := List.replicate (k 8) 0 }

/-- Loops and return stack of level 0. -/
def savedLevel (x : Sparse 8) : SeqLevel :=
  { loops := Vector.ofFn fun i : Fin 4 =>
      ⟨imageWord x (0x80 + 24 * i.val), imageWord x (0x88 + 24 * i.val), imageWord x (0x90 + 24 * i.val)⟩
    ldepth := imageBits x 0x78 24 3
    rs := ((List.range (imageBits x 0x78 16 5)).map fun k => imageWord x (0xE0 + 8 * k)).reverse }

/-- The bindings that the save area holds. -/
def savedBindings (x : Sparse 8) : List (Nat × Binding) :=
  (List.range 64).filterMap fun k =>
    let d : BitVec 256 := imageVec x (0xA80 + 32 * k) 256
    if d = 0 then none else some (k, d)

/-- The templates that the save area holds. -/
def savedTemplates (x : Sparse 8) : Sparse 256 :=
  entries 0 ((List.range 64).map fun k => (imageVec x (0x1280 + 32 * k) 256 : BitVec 256))

/-- The fields that are always saved, and the listed registers, ports and buffers, come back. -/
def Core.restored (c : Core) (x : Sparse 8) (m : LiveMap) (save : Word) : Core :=
  let w (off : Nat) : Word := BitVec.ofNat 64 (imageWord x off)
  { c with
    pc := imageWord x 8
    chk := imageBits x 0x18 32 1 == 1
    clause := Clause.restored (imageVec x 0x58 256)
    factor := { fcol := w 0x30, fstat := w 0x38, grow := w 0x40, bkval := w 0x48, pivdst := w 0x50,
                mmax := BitVec.ofNat 64 (imageBits x 0x1A80 0 32) }
    sys := { c.sys with
      ctx := BitVec.ofNat 16 (imageBits x 0x18 0 16), xtag := BitVec.ofNat 16 (imageBits x 0x18 16 16)
      spbase := w 0x20, landbase := w 0x28, livemap := BitVec.ofNat 6 (imageBits x 0 16 6), savearea := save }
    bank0 := { resq := if m.getLsbD 330 then Vector.ofFn (fun i : Fin 16 => w (0x360 + 8 * i.val)) else c.bank0.resq,
               loads := (List.range (imageBits x 0x78 32 7)).map fun k => w (0x160 + 8 * k), tok := savedTokens x }
    level0 := savedLevel x
    sregs := Vector.ofFn fun i : Fin 32 => if m.getLsbD (256 + i.val) then w (0x3E0 + 8 * i.val) else 0
    aregs := Vector.ofFn fun i : Fin 16 => if m.getLsbD (288 + i.val) then w (0x4E0 + 8 * i.val) else 0
    ports := Vector.ofFn fun i : Fin 8 => if m.getLsbD (304 + i.val) then savedPort x i.val else Port.unset
    bufs := Vector.ofFn fun i : Fin 16 => if m.getLsbD (312 + i.val) then savedBuf x i.val else CircBuf.unset
    bindings := savedBindings x
    arrays := { c.arrays with templates := savedTemplates x, tvalid := BitVec.ofNat 64 (imageWord x 0xA60) } }

/-- The variable part comes back: VRF registers, banks, buffer regions. -/
def State.restoreBody (s : State) : List Nat → List Nat → List CircBuf → List Byte → State
  | r :: rs, bk, bufs, bs => (s.writeVreg none r [(0, 4096)] (bs.take 4096)).restoreBody rs bk bufs (bs.drop 4096)
  | [], b :: bk, bufs, bs =>
    let cells := (chunks 8 16384 (bs.take 131072)).map fun x => BitVec.ofNat 40 (leNat x)
    (s.withCore (s.core.setBankCells b (bankOf cells))).restoreBody [] bk bufs (bs.drop 131072)
  | [], [], b :: bufs, bs =>
    (s.spStore b.base (bs.take (b.slotSize * b.nslots))).restoreBody [] [] bufs (bs.drop (b.slotSize * b.nslots))
  | [], [], [], _ => s

/-- The length of the variable part. -/
def Core.bodyLength (c : Core) (m : LiveMap) : Nat :=
  4096 * (LiveMap.regs m).length + 131072 * (LiveMap.banks m).length +
    (c.listedBufs m).foldl (fun n b => n + b.slotSize * b.nslots) 0

/-- Reads the runs of the save area below 0x2000 and goes on with them in place. -/
def State.readSpans (s : State) (i : Fin 96) (root : Nat) (base : Word) (f : State → Sparse 8 → State) :
    List (Nat × Nat) → Sparse 8 → State
  | [], x => f s x
  | (off, n) :: rest, x =>
    match s.loaderBytes i root (base + BitVec.ofNat 64 off) n .read with
    | .bytes bs s => s.readSpans i root base f rest (pokeN x off bs)
    | r => r.andThen i fun s _ => s

/-- Fetching starts at the resume PC, SCHED as it was saved. -/
def Core.resumeAt (c : Core) (now sched : Nat) : Core :=
  let c := c.startRunning now
  { c with seq := { c.seq with start := now - sched }, item := c.item.map fun it => { it with resume := none } }

/-- The item goes on from its save area. -/
def State.resume (s : State) (i : Fin 96) (it : Item) (save : Word) (x : Sparse 8) (m : LiveMap) : State :=
  let s := s.withCore (s.core.restored x m save)
  let read := s.loaderBytes i it.root (saBase save + 0x2000#64) (s.core.bodyLength m) .read
  read.andThen i fun s bs =>
    let s := s.restoreBody (LiveMap.regs m) (LiveMap.banks m) (s.core.listedBufs m) bs
    s.withCore (s.core.resumeAt s.now (imageWord x 0x10))

/-- RESUMPTION (R363): it reads as the loader does, and what the loader's reads end with ends the item. -/
def execResumption (s : State) : Answer :=
  let i := s.cur
  .next (match s.core.status, s.core.item with
    | .loaded, some it => (match it.resume with
      | none => s.hold
      | some save =>
        s.readSpans i it.root (saBase save) (fun s x =>
          let m : LiveMap := s.core.arrays.livemaps.getD (imageBits x 0 16 6) 0
          s.readSpans i it.root (saBase save) (fun s y => s.resume i it save y m) ((LiveMap.spans m).drop 1) x)
          [(0, 0x360)] [])
    | _, _ => s.hold)

/-! ### PREEMPTION_TIMEOUT (R364) -/

/-- The length of the timeout in nanoseconds. -/
def Core.ptoNs (c : Core) : Nat :=
  match c.item with
  | some it => if it.pto = 0 then 5000000 else it.pto * 1000
  | none => 5000000

/-- An item that misses the timeout may be terminated. -/
def State.mayTimeout (s : State) (c : Core) : Bool :=
  match c.item with
  | some it => it.command.isSome && (s.queue it.queue).termOk
  | none => false

/-- PREEMPTION_TIMEOUT (R364). -/
def execPreemptionTimeout (s : State) : Answer :=
  let c := s.core
  .next (
    if c.prq = false ∨ c.preempting then s
    else if s.clock.gts < c.prqSince + c.ptoNs then
      s.postAt (s.now + max 1 (s.cyclesFor (c.prqSince + c.ptoNs - s.clock.gts))) .preemptionTimeout
    else if s.mayTimeout c then s.post (.termination s.cur 0x05 0)
    else s.control!)

end Sys2Proof.Machine
end

