-- ==== Sys2Proof/Machine/Bte.lean ====
section
/-! DEFINITION. The block-transfer engine (R231 to R245): copy templates, elements, sectors and their credits, slots,
multicast, completion, and the refetch of slots after a cancellation (R375). -/

namespace Sys2Proof.Machine

/-! ### Start words and templates (R232, R235) -/

abbrev Template := BitVec 512

def wordTidx (w : Word) : Nat := bitsAt w 0 8
def wordNoCpl (w : Word) : Bool := w.getLsbD 8
def wordOrdered (w : Word) : Bool := w.getLsbD 9
def wordArg (w : Word) : Int := signedOf 48 (bitsAt w 16 48)

def Template.ext (t : Template) (n : Nat) : Nat := bitsAt t (64 * n + 128) 16
def Template.sstr (t : Template) (n : Nat) : Int := signedOf 24 (bitsAt t (64 * n + 144) 24)
def Template.dstrRaw (t : Template) (n : Nat) : Nat := bitsAt t (64 * n + 168) 24
def Template.bound (t : Template) (n : Nat) : Nat := bitsAt t (384 + 16 * n) 16
def Template.fill (t : Template) : Nat := bitsAt t 448 32
def Template.mcast (t : Template) : Nat := bitsAt t 480 12
def Template.barrier (t : Template) : Nat := bitsAt t 492 19 * 16
def Template.skind (t : Template) : Bool := t.getLsbD 63
def Template.barv (t : Template) : Bool := t.getLsbD 62
def Template.dkind (t : Template) : Bool := t.getLsbD 61
def Template.skips (t : Template) : Bool := t.getLsbD 60
def Template.esz (t : Template) : Nat := 2 ^ bitsAt t 57 3
def Template.cbv (t : Template) : Bool := t.getLsbD 121
def Template.cbn (t : Template) : Nat := bitsAt t 122 4

/-- SRC and DST, widened by bit 56 where they are virtual addresses. -/
def Template.src (t : Template) : Int := if Template.skind t then bitsAt t 0 57 else signedOf 57 (bitsAt t 0 57)
def Template.dst (t : Template) : Int := if Template.dkind t then signedOf 57 (bitsAt t 64 57) else bitsAt t 64 57

/-- "Next slot". -/
def nextSlot : Nat := 0x800000

/-- E_n. -/
def Template.extent (t : Template) (n : Nat) : Nat := if Template.ext t n = 0 then 1 else Template.ext t n

/-- The number of elements whose index below dimension `n` runs once round. -/
def Template.span (t : Template) (n : Nat) : Nat := (List.range n).foldl (fun x k => x * Template.extent t k) 1

def Template.total (t : Template) : Nat := Template.span t 4

/-- Index `n` of element `e`. -/
def Template.index (t : Template) (e n : Nat) : Nat := e / Template.span t n % Template.extent t n

/-- The slot dimension. -/
def Template.slotDim (t : Template) : Option Nat := (List.range 4).find? fun n => Template.dstrRaw t n == nextSlot

/-- Elements of one piece (R238). -/
def Template.piece (t : Template) : Nat :=
  match Template.slotDim t with
  | some n => Template.span t n
  | none => Template.total t

/-- The highest used dimension. -/
def Template.top (t : Template) : Nat := ((List.range 4).filter fun n => Template.ext t n != 0).getLastD 0

/-- A sum over the dimensions. -/
def sumDims (f : Nat → Int) : Int := f 0 + f 1 + f 2 + f 3

/-- src of element `e` (R237), before it is taken modulo its space. -/
def Template.srcAt (t : Template) (arg : Int) (e : Nat) : Int :=
  Template.src t + arg + Template.esz t * sumDims fun n => Template.index t e n * Template.sstr t n

/-- dst of element `e`, before it is taken modulo its space. -/
def Template.dstAt (t : Template) (slotBase : Nat) (e : Nat) : Int :=
  Template.dst t + slotBase + Template.esz t * sumDims fun n =>
    if Template.dstrRaw t n = nextSlot then 0 else Template.index t e n * signedOf 24 (Template.dstrRaw t n)

/-- Element `e` is clipped. -/
def Template.clipped (t : Template) (e : Nat) : Bool :=
  (List.range 4).any fun n => Template.bound t n != 0 && decide (Template.bound t n ≤ Template.index t e n)

/-- FILL bytes of one element. -/
def Template.fillBytes (t : Template) : List Byte :=
  (List.range (Template.esz t)).map fun k => BitVec.ofNat 8 (Template.fill t / 256 ^ (k % 4))

/-- The receivers that MCAST names. -/
def Template.receivers (t : Template) (i : Fin 96) : List Nat :=
  ((List.range 12).filter fun k => (Template.mcast t).testBit k).map fun k => i.val / 12 * 12 + k

/-- A core is the issuing one, or runs an item of the same command (R53, R236). -/
def State.sameCommand (s : State) (i : Fin 96) (r : Nat) : Bool :=
  r == i.val ||
    (s.cores[coreOf r]).status == .running && match (s.cores[i]).item, (s.cores[coreOf r]).item with
    | some a, some b => a.command.isSome && a.command == b.command
    | _, _ => false

/-- What a template meets whatever the state (R236). -/
def Template.fieldsOk (t : Template) : Bool :=
  !t.getLsbD 511 && bitsAt t 126 2 == 0 && decide (bitsAt t 57 3 < 5) && (Template.cbv t || Template.cbn t == 0) &&
    (!Template.skind t || decide (bitsAt t 0 57 < 2 ^ 23)) && (Template.dkind t || decide (bitsAt t 64 57 < 2 ^ 23)) &&
    decide (Template.barrier t < 2 ^ 23) &&
    ((List.range 4).all fun n => Template.ext t n != 0 ||
      (bitsAt t (64 * n + 144) 48 == 0 && Template.bound t n == 0)) &&
    ((List.range 4).all fun n => Template.dstrRaw t n != nextSlot || (Template.cbv t && n == Template.top t)) &&
    !(Template.cbv t && (Template.dkind t || Template.mcast t != 0)) && !(Template.mcast t != 0 && Template.dkind t) &&
    decide (Template.esz t * Template.total t ≤ 2 ^ 32 - 1)

/-- A well-formed command (R236). -/
def State.templateOk (s : State) (i : Fin 96) (w : Word) (t : Template) : Bool :=
  bitsAt w 10 6 == 0 && Template.fieldsOk t && (!Template.cbv t || ((s.cores[i]).buf (Template.cbn t)).set) &&
    (Template.receivers t i).all (s.sameCommand i)

/-! ### Reads and translated destinations (R237, R244) -/

/-- What a step of a copy comes to: it goes on, waits, fails with a status, or has consumed an error of the core's own
scratchpad. -/
inductive CopyStep (α : Type) where
  | ok (a : α) (s : State)
  | wait (s : State)
  | fail (status : Nat) (s : State)
  | own (injected : Bool) (s : State)

/-- Reads one run of a line: a line that is not in its home slice comes over the calendar (R281). -/
def State.copyLine (s : State) (i : Fin 96) (pa n : Nat) (tag owner : Tag) : CopyStep (List Byte) :=
  if (s.mem.region pa).cached && (s.mem.l2At (pa / 64)).isNone && !s.siteHolds pa then
    (if s.mem.requests.any fun r => r.core == i.val && r.lines.contains (pa / 64) then .wait s.hold
     else .wait (s.askLine i.val (pa / 64)))
  else match s.loadLine i pa n owner with
    | .bytes bs s => .ok bs s
    | .wait s => .wait s
    | .fail s => .fail 2 s
    | .bad line p inj s =>
      .fail 3 (s.post (.ownerHandling { place := p, line := line, consumer := .item i tag, injected := inj }))

/-- What the command has gathered for the space its source lies in, and not yet written: its own later elements read it (R237). -/
def CopyRun.unwritten (r : CopyRun) (i : Fin 96) : List (Nat × List Byte) :=
  if Template.skind r.template == !Template.dkind r.template then
    (r.pend.filter fun b => !Template.skind r.template || b.core == i.val).flatMap (·.writes)
  else []

/-- A granule as the command reads it: one it holds, else what `fresh` gives with what it has yet to write. -/
def CopyRun.granule (r : CopyRun) (i : Fin 96) (g : Nat) (fresh : List Byte) : List Byte :=
  match r.held.find? (·.1 == g) with
  | some x => vecBytes x.2
  | none => (r.unwritten i).foldl (layRun (16 * g)) fresh

/-- An element's source: its bytes, and the granules that hold them. -/
abbrev SourceData := List Byte × List (Nat × BitVec 128)

/-- A piece of `n` bytes at an address, in front of the others. -/
def SourceData.cons (a n : Nat) (bs : List Byte) (x : SourceData) : SourceData :=
  ((bs.drop (a % 16)).take n ++ x.1, (a / 16, BitVec.ofNat 128 (leNat bs)) :: x.2)

/-- Reads pieces at virtual addresses, granule by granule (R311). -/
def State.copyRead (s : State) (i : Fin 96) (source root : Nat) (tag : Tag) (r : CopyRun) : List (Word × Nat) → CopyStep SourceData
  | [] => .ok ([], []) s
  | (va, n) :: rest =>
    match s.engineXlat i.val source root va tag .read with
    | .wait s => .wait s
    | .fail s => .fail 2 s
    | .pa a owner _ =>
      let line := if r.held.any (·.1 == a / 16) then CopyStep.ok [] s else s.copyLine i (a / 16 * 16) 16 tag owner
      match line with
      | .ok bs s =>
        (match s.copyRead i source root tag r rest with
         | .ok more s => .ok (more.cons a n (r.granule i (a / 16) bs)) s
         | x => x)
      | .wait s => .wait s
      | .fail st s => .fail st s
      | .own inj s => .own inj s

/-- What a granule of the core's scratchpad reads as for a command: as it is, or as it was before a write that the command is not
ordered after, as a free choice (R245). -/
def State.copyGranule (s : State) (i : Fin 96) (job : CopyJob) (g : Nat) : List Byte × State :=
  let c := s.cores[i]
  let mine := (c.overwritten.filter (·.granule == g)).reverse.takeWhile fun o => decide (job.order < o.since)
  let (k, s) := s.pickBelow (mine.length + 1)
  (if k = 0 then c.spBytes (16 * g) 16 else vecBytes ((mine.map (·.data)).getD (k - 1) 0), s)

/-- Reads pieces of the core's scratchpad, granule by granule. -/
def State.copyLocal (s : State) (i : Fin 96) (job : CopyJob) (r : CopyRun) : List (Word × Nat) → SourceData × State
  | [] => (([], []), s)
  | (va, n) :: rest =>
    let a := va.toNat % 2 ^ 23
    let (bs, s) := if r.held.any (·.1 == a / 16) then ([], s) else s.copyGranule i job (a / 16)
    let (more, s) := s.copyLocal i job r rest
    (more.cons a n (r.granule i (a / 16) bs), s)

/-- The pieces of `n` bytes at an address, cut at granules. -/
def pieceCuts (va : Word) : Nat → Nat → List (Word × Nat)
  | 0, _ => []
  | fuel + 1, n =>
    if n = 0 then []
    else
      let k := min n (16 - va.toNat % 16)
      (va, k) :: pieceCuts (va + BitVec.ofNat 64 k) fuel (n - k)

/-- The physical runs of a destination. -/
def State.copyDest (s : State) (i : Fin 96) (source root : Nat) (tag : Tag) :
    List (Word × Nat) → CopyStep (List (Word × Nat × Nat))
  | [] => .ok [] s
  | (va, n) :: rest =>
    match s.engineXlat i.val source root va tag .write with
    | .wait s => .wait s
    | .fail s => .fail 2 s
    | .pa a _ _ =>
      match s.mem.region a with
      | .regs => .fail 2 s
      | .localPage => .fail 2 s
      | _ =>
        if s.siteHolds a then .wait s.hold
        else match s.copyDest i source root tag rest with
          | .ok more s => .ok ((va, a, n) :: more) s
          | r => r

/-- The bytes of the source of element `e`. -/
def State.copySource (s : State) (i : Fin 96) (source : Nat) (job : CopyJob) (r : CopyRun) (e : Nat) : CopyStep SourceData :=
  let t : Template := r.template
  let a := Template.srcAt t (wordArg job.word) e
  if Template.skind t then
    let off := wrapNat 23 a
    match s.onUnit i .seq |>.inspectLocal placeSp off (Template.esz t) with
    | (s', some inj) => .own inj (s'.at s.focus)
    | (s', none) =>
      let x := (s'.at s.focus).copyLocal i job r (pieceCuts (BitVec.ofNat 64 off) 3 (Template.esz t))
      .ok x.1 x.2
  else s.copyRead i source (s.cores[i]).root job.tag r (pieceCuts (wordOfInt a) 3 (Template.esz t))

/-! ### Sectors (R240) -/

/-- The scratchpad or virtual addresses of an element's bytes at a receiver, cut at sectors: sector number, first address,
bytes before it in the element, length. -/
def sectorCuts (spaceBits : Nat) (a : Nat) : Nat → Nat → Nat → List (Nat × Nat × Nat × Nat)
  | 0, _, _ => []
  | fuel + 1, skip, n =>
    if n = 0 then []
    else
      let x := (a + skip) % 2 ^ spaceBits
      let k := min n (32 - x % 32)
      (x / 32, x, skip, k) :: sectorCuts spaceBits a fuel (skip + k) (n - k)

/-- The receivers of a command with the base each adds: the issuing core alone without multicast. -/
def CopyRun.targets (r : CopyRun) (i : Fin 96) : List (Nat × Nat) :=
  if Template.mcast r.template = 0 then [(i.val, 0)] else r.landings

/-- The space a destination lies in. -/
def Template.spaceBits (t : Template) : Nat := if Template.dkind t then 64 else 23

/-- The first destination address of element `e` at a receiver. -/
def CopyRun.destOf (r : CopyRun) (slotBase land e : Nat) : Nat :=
  wrapNat (Template.spaceBits r.template) (Template.dstAt r.template slotBase e + land)

/-- The sectors of element `e` at a receiver. -/
def CopyRun.sectors (r : CopyRun) (slotBase land e : Nat) : List (Nat × Nat × Nat × Nat) :=
  sectorCuts (Template.spaceBits r.template) (r.destOf slotBase land e) 3 0 (Template.esz r.template)

/-- Some element among the `n` from `e` on satisfies a test. -/
def anyElement (p : Nat → Bool) : Nat → Nat → Bool
  | 0, _ => false
  | n + 1, e => p e || anyElement p n (e + 1)

/-- A sector is complete once no later element of the piece writes or clips bytes of it. -/
def CopyRun.sectorDone (r : CopyRun) (slotBase land key e : Nat) : Bool :=
  let p := Template.piece r.template
  let last := e / p * p + p
  !anyElement (fun x => (r.sectors slotBase land x).any fun c => c.1 == key) (last - (e + 1)) (e + 1)

/-- Adds a part of an element to the sector that gathers it. -/
def addPart (core key : Nat) (w : List (Nat × List Byte)) (n : Nat) (clip fault : Bool) : List SectorBuf → List SectorBuf
  | [] => [{ core := core, key := key, writes := w, count := n, clip := clip, fault := fault, begun := false }]
  | b :: rest =>
    if b.core = core ∧ b.key = key then
      { b with writes := b.writes ++ w, count := b.count + n, clip := b.clip || clip, fault := b.fault || fault } :: rest
    else b :: addPart core key w n clip fault rest

/-- Where the bytes from `skip` on of a translated destination lie. -/
def physicalOf (runs : List (Word × Nat × Nat)) : Nat → Nat
  | skip => match runs with
    | [] => 0
    | (_, pa, n) :: rest => if skip < n then pa + skip else physicalOf rest (skip - n)

/-- Element `e` as its receivers' sectors take it: `data` is none where it is not written. -/
def CopyRun.gather (r : CopyRun) (i : Fin 96) (slotBase e : Nat) (data : Option (List Byte)) (runs : List (Word × Nat × Nat))
    (clip fault : Bool) : CopyRun :=
  let part (core : Nat) (p : List SectorBuf) (c : Nat × Nat × Nat × Nat) : List SectorBuf :=
    let at0 := if Template.dkind r.template then physicalOf runs c.2.2.1 else c.2.1
    addPart core c.1 (match data with
      | some bs => granules 4 at0 ((bs.drop c.2.2.1).take c.2.2.2)
      | none => []) c.2.2.2 clip fault p
  { r with
    clip := r.clip || clip
    lines := if Template.dkind r.template then (r.lines ++ runs.map fun (x : Word × Nat × Nat) => x.2.1 / 64).eraseDups else r.lines
    pend := (r.targets i).foldl (fun p x => (r.sectors slotBase x.2 e).foldl (part x.1) p) r.pend }

/-- A core's barrier is credited by a command: its CLIP flag first where bytes were clipped, and FLT before the first credit behind the
fault point (R240, R244). -/
def State.creditSector (s : State) (i : Fin 96) (k : Nat) (t : Template) (b : SectorBuf) : State :=
  if Template.barv t then
    let ch := (s.cores[i]).channel k
    let flt := b.fault && !ch.flt.contains b.core
    let s := if flt then { s with cores := s.cores.set i ((s.cores[i]).setChannel k { ch with flt := b.core :: ch.flt }) } else s
    s.onCore (coreOf b.core) fun s =>
      match s.inspectLocal placeSp (Template.barrier t) 16 with
      | (s, some inj) => s.consumed inj
      | (s, none) => s.creditBarrier (Template.barrier t) fun x =>
          let x := if b.clip then Barrier.flag x 0 else x
          let x := if flt then Barrier.flag x 2 else x
          Barrier.credit x b.count
  else s

/-- Granules of a sector that is complete are written, each now or later, as a free choice: the pieces of a sector are independent
(R311, R328). -/
def State.writeSome (s : State) (i : Fin 96) (t : Template) (b : SectorBuf) : State × SectorBuf :=
  [0, 1].foldl (fun (a : State × SectorBuf) h =>
    if (a.2.half h).isEmpty then a
    else
      let r := a.1.choose true false
      if r.1 then (r.2.writeHalf i (Template.dkind t) a.2 h, a.2.wrote h) else (r.2, a.2)) (s, b)

/-- The sectors of a command after one of its elements: a complete one may be written, and once it is it is credited. -/
def State.settleSectors (s : State) (i : Fin 96) (k : Nat) (t : Template) (done : SectorBuf → Bool) :
    List SectorBuf → State × List SectorBuf
  | [] => (s, [])
  | b :: rest =>
    let r := if done b then s.writeSome i t b else (s, b)
    if done b && r.2.writes.isEmpty then (r.1.creditSector i k t r.2).settleSectors i k t done rest
    else
      let x := r.1.settleSectors i k t done rest
      (x.1, r.2 :: x.2)

/-! ### Elements -/

/-- The base of the slot that a command fills now. -/
def Core.copySlotBase (c : Core) (r : CopyRun) : Nat :=
  match r.slot with
  | some (_, k) => if Template.cbv r.template then (c.buf (Template.cbn r.template)).slotBase k else 0
  | none => 0

/-- An element's data and destination; none where nothing is written. -/
def State.copyAccess (s : State) (i : Fin 96) (source : Nat) (job : CopyJob) (r : CopyRun) (slotBase e : Nat) :
    CopyStep (Option SourceData × List (Word × Nat × Nat)) :=
  let t : Template := r.template
  let clip := Template.clipped t e
  if r.failed ≠ 0 ∨ (clip ∧ Template.skips t = true) then .ok (none, []) s
  else
    match (if clip then .ok (Template.fillBytes t, []) s else s.copySource i source job r e) with
    | .wait s => .wait s
    | .fail st s => .fail st s
    | .own inj s => .own inj s
    | .ok bs s =>
      if Template.dkind t then
        match s.copyDest i source (s.cores[i]).root job.tag
            (cuts (BitVec.ofNat 64 (r.destOf slotBase 0 e)) 3 (Template.esz t)) with
        | .ok runs s => .ok (some bs, runs) s
        | .wait s => .wait s
        | .fail st s => .fail st s
        | .own inj s => .own inj s
      else .ok (some bs, []) s

/-- The channel that the focus names. -/
def State.chan (s : State) : Nat := s.focus.chan.val

/-- Replaces the command in execution; the channel goes on on the next cycle. -/
def State.setRun (s : State) (i : Fin 96) (k : Nat) (r : CopyRun) : State :=
  let c := s.cores[i]
  { s with cores := s.cores.set i (c.setChannel k { c.channel k with run := some r, ready := s.now + 1 }) }

/-- The command in execution as it stands, its channel not moved on. -/
def State.keepRun (s : State) (i : Fin 96) (k : Nat) (r : CopyRun) : State :=
  let c := s.cores[i]
  { s with cores := s.cores.set i (c.setChannel k { c.channel k with run := some r }) }

/-- The channel looks again on the next cycle. -/
def State.setReady (s : State) (i : Fin 96) (k : Nat) : State :=
  let c := s.cores[i]
  { s with cores := s.cores.set i (c.setChannel k { c.channel k with ready := s.now + 1 }) }

/-- `done` waits for the core's commands: completion elements are of no use any more (R243, R303). -/
def Core.leaving (c : Core) : Bool :=
  match c.seq.mode with
  | .draining => true
  | _ => false

/-- The completion element (R241). -/
def doneWord (w : Word) (clip : Bool) (status : Nat) : Word :=
  BitVec.ofNat 64 (status + natOfBool clip * 2 ^ 8 + wordTidx w * 2 ^ 16 + bitsAt w 16 32 * 2 ^ 32)

/-- A completion element is owed. -/
def owesElement (w : Word) (status : Nat) : Bool := status == 4 || !wordNoCpl w

/-- The channel has to hold: an element is owed and the FIFO is full. -/
def Core.fifoHolds (c : Core) (k : Nat) (w : Word) (status : Nat) : Bool :=
  owesElement w status && decide (8 ≤ (c.channel k).fifo.length) && !c.leaving

/-- The oldest command of a channel completes. -/
def State.endCopy (s : State) (i : Fin 96) (k : Nat) (w : Word) (clip : Bool) (status : Nat) (lines : List Nat) : State :=
  let c := s.cores[i]
  let ch := c.channel k
  let fifo := if owesElement w status && decide (ch.fifo.length < 8) then
      ch.fifo ++ [{ word := doneWord w clip status, lines := lines }] else ch.fifo
  let ch : Channel := { jobs := ch.jobs.drop 1, run := none, fifo := fifo, ready := s.now + 1, flt := [] }
  let c := c.setChannel k ch
  let oldest := (c.channels.flatMap fun x => x.2.jobs.map (·.order)).foldl min c.nextCopy
  { s with cores := s.cores.set i { c with overwritten := c.overwritten.filter fun o => decide (oldest < o.since) } }

/-- The slot of a finished piece is published, and its buffer remembers how to fill it again (R238, R375). -/
def Core.publishSlot (c : Core) (job : CopyJob) (r : CopyRun) (e : Nat) : Core :=
  match r.slot with
  | none => c
  | some (_, slot) =>
    let n := Template.cbn r.template
    let fill : SlotFill := { buf := n, slot := slot, word := job.word, template := r.template, tag := job.tag,
                             piece := e / Template.piece r.template, inPlace := false }
    let c := c.setBuf n (c.buf n).publish
    { c with fills := fill :: c.fills.filter fun f => !(f.buf == n && f.slot == slot) }

/-- Where a receiver's bytes land. -/
def CopyRun.landing (r : CopyRun) (core : Nat) : Nat := if Template.mcast r.template = 0 then 0 else lookupD 0 r.landings core

/-- Element `e` has been gathered: a sector that is complete may be written, and is credited once it is. The sectors of a finished piece wait
for its end. -/
def State.afterElement (s : State) (i : Fin 96) (k : Nat) (r : CopyRun) (slotBase e : Nat) : State :=
  let x := if (e + 1) % Template.piece r.template = 0 then (s, r.pend)
    else s.settleSectors i k r.template (fun b => r.sectorDone slotBase (r.landing b.core) b.key e) r.pend
  x.1.setRun i k { r with pend := x.2, next := e + 1 }

/-- The granules that the command holds, with those of an element: each is read once for the whole command (R311), and the command's own
writes go into them (R237). -/
def CopyRun.patchHeld (r : CopyRun) (i : Fin 96) (read : List (Nat × BitVec 128)) : CopyRun :=
  let held := r.held ++ (read.filter fun x => !r.held.any (·.1 == x.1)).eraseDups
  { r with held := held.map fun x => (x.1, BitVec.ofNat 128 (leNat ((r.unwritten i).foldl (layRun (16 * x.1)) (vecBytes x.2)))) }

/-- Element `e` is copied, clipped or, behind the fault point, only counted. -/
def State.copyElement (s : State) (i : Fin 96) (k : Nat) (job : CopyJob) (r : CopyRun) : State :=
  let e := r.next
  let slotBase := (s.cores[i]).copySlotBase r
  let source := engineSource i.val k
  let counted (s : State) (st : Nat) : State :=
    (s.settleOwed source .seq).afterElement i k { r.gather i slotBase e none [] (Template.clipped r.template e) true with failed := st }
      slotBase e
  match s.copyAccess i source job r slotBase e with
  | .wait s => s.keepRun i k r
  | .own inj s => (counted s 3).onCore i fun s => s.consumed inj
  | .fail st s => counted s st
  | .ok (data, runs) s =>
    let r' := r.gather i slotBase e (data.map (·.1)) runs (Template.clipped r.template e) (r.failed != 0)
    (s.settleOwed source .seq).afterElement i k (r'.patchHeld i ((data.map (·.2)).getD [])) slotBase e

/-! ### The end of a piece (R238, R240) -/

/-- The granules that a command has yet to write, by sector and half. -/
def CopyRun.halves (r : CopyRun) : List (SectorBuf × Nat) :=
  r.pend.flatMap fun b => ([0, 1].filter fun h => !(b.half h).isEmpty).map fun h => (b, h)

/-- Some granule of a finished piece is written; which one is a free choice. -/
def State.writeNext (s : State) (i : Fin 96) (k : Nat) (r : CopyRun) : State :=
  let x := s.pickBelow r.halves.length
  match r.halves[x.1]? with
  | some (b, h) => (x.2.writeHalf i (Template.dkind r.template) b h).setRun i k { r with pend := r.pend.map fun v => if v = b then b.wrote h else v }
  | none => x.2

/-- A piece is whole: its sectors are credited and its slot is published. The command's last credit waits for room in the FIFO, and
with it the command completes. -/
def State.endPiece (s : State) (i : Fin 96) (k : Nat) (job : CopyJob) (r : CopyRun) : State :=
  let final := r.next == Template.total r.template
  let now := if final then r.pend.dropLast else r.pend
  let s := now.foldl (fun s b => s.creditSector i k r.template b) s
  let s := { s with cores := s.cores.set i ((s.cores[i]).publishSlot job r (r.next - 1)) }
  let r := { r with slot := none, pend := r.pend.drop now.length }
  let status := if r.failed = 0 then 1 else r.failed
  if !final then s.setRun i k r
  else if (s.cores[i]).fifoHolds k job.word status then (s.keepRun i k r).hold
  else (r.pend.foldl (fun s b => s.creditSector i k r.template b) s).endCopy i k job.word r.clip status r.lines

/-- The command stands at the end of a piece that is not yet whole. -/
def CopyRun.atEnd (r : CopyRun) : Bool :=
  r.next != 0 && r.next % Template.piece r.template == 0 &&
    (r.next == Template.total r.template || r.slot.isSome || !r.pend.isEmpty)

/-! ### Commands -/

/-- An ORDERED command waits for every earlier one of the core (R232). -/
def Core.copyTurn (c : Core) (job : CopyJob) : Bool :=
  !wordOrdered job.word || !c.channels.any fun x => x.2.jobs.any fun j => decide (j.order < job.order)

/-- A command completes with BADCMD. -/
def State.badCommand (s : State) (i : Fin 96) (k : Nat) (job : CopyJob) : State :=
  if (s.cores[i]).fifoHolds k job.word 4 then s.hold else s.endCopy i k job.word false 4 []

/-- The command in execution takes its time before its first element: how long is a free value (DESIGN CHOICE, log entry 8). -/
def State.delayRun (s : State) (i : Fin 96) (k : Nat) : State :=
  let c := s.cores[i]
  { s with cores := s.cores.set i (c.setChannel k { c.channel k with ready := s.now + 1 + Config.pick s.free }), free := s.free + 1 }

/-- A command starts: its template is read (R234). While the stall wire is asserted none does (R69). -/
def State.startCopy (s : State) (i : Fin 96) (k : Nat) (job : CopyJob) : State :=
  let c := s.cores[i]
  let base := (match c.image with
    | some img => img.ctbase
    | none => 0) + 64 * wordTidx job.word
  if !c.copyTurn job || s.wire || s.core.seq.wired then s.hold
  else if 2 ^ 23 < base + 64 then s.badCommand i k job
  else match (s.onUnit i .seq).inspectLocal placeSp base 64 with
    | (s', some inj) =>
      ((s'.at s.focus).onCore i fun s => s.consumed inj).setReady i k
    | (s', none) =>
      let s := s'.at s.focus
      let t : Template := BitVec.ofNat 512 (leNat (c.spBytes base 64))
      if !s.templateOk i job.word t then s.badCommand i k job
      else (s.setRun i k {
        template := t, next := 0, slot := none, clip := false, failed := 0, lines := [], held := [], pend := []
        landings := (Template.receivers t i).map fun r => (r, ((s.cores[coreOf r]).sys.landbase).toNat % 2 ^ 23) }).delayRun i k

/-- A slot is acquired for a piece (R238), unless one is held or the command has failed. -/
def State.needSlot (s : State) (i : Fin 96) (r : CopyRun) : Option (State × CopyRun) :=
  if Template.cbv r.template && r.slot.isNone && r.failed == 0 then
    let c := s.cores[i]
    let n := Template.cbn r.template
    if (c.buf n).free = 0 then none
    else
      let x := c.takeFree n
      some ({ s with cores := s.cores.set i x.2 }, { r with slot := some (r.next / Template.piece r.template, x.1) })
  else some (s, r)

/-- The command in execution goes on: with what is left of a piece, else with its next element. -/
def State.runCopy (s : State) (i : Fin 96) (k : Nat) (job : CopyJob) (r : CopyRun) : State :=
  if r.atEnd then (if r.halves.isEmpty then s.endPiece i k job r else s.writeNext i k r)
  else match s.needSlot i r with
    | none => s.hold
    | some (s, r) => s.copyElement i k job r

/-! ### Refetch (R375) -/

/-- The elements of a piece are read and written again, `n` of them from `e` on. -/
def State.refill (s : State) (i : Fin 96) (job : CopyJob) (r : CopyRun) (slotBase : Nat) : Nat → Nat → CopyStep Unit
  | 0, _ => .ok () s
  | n + 1, e =>
    match s.copyAccess i (engineSource i.val 0) job r slotBase e with
    | .wait s => .wait s
    | .own inj s => .own inj s
    | .fail st s => .fail st s
    | .ok (data, _) s =>
      let s := match data with
        | some bs => s.onCore i fun s => s.spPatch (r.destOf slotBase 0 e) bs.1
        | none => s
      s.refill i job r slotBase n (e + 1)

/-- The slot is filled again, and is FILLED unless a port holds it. -/
def State.slotRefilled (s : State) (i : Fin 96) (f : SlotFill) : State :=
  let c := s.cores[i]
  let c := if f.inPlace then c else c.setBuf f.buf (c.buf f.buf).publish
  { s with cores := s.cores.set i { c with refetch := c.refetch.drop 1 } }

/-- The oldest refetch: the piece that filled the slot is repeated, reading memory afresh. A piece whose service fails is tried again, for
the slot is filled only when it has been written (R375). -/
def State.refetchSlot (s : State) (i : Fin 96) (f : SlotFill) : State :=
  let t : Template := f.template
  if Template.cbv t then
    let job : CopyJob := { word := f.word, tag := f.tag, order := (s.cores[i]).nextCopy }
    let r : CopyRun := { template := t, next := 0, slot := none, clip := false, failed := 0, lines := [], landings := [],
                         held := [], pend := [] }
    let base := ((s.cores[i]).buf f.buf).slotBase f.slot
    match s.refill i job r base (Template.piece t) (f.piece * Template.piece t) with
    | .wait s => s
    | .own inj s => s.onCore i fun s => s.consumed inj
    | .fail _ s => s.hold
    | .ok _ s => s.slotRefilled i f
  else s.slotRefilled i f

/-- COPY_COMMAND (R237): a step of the channel in focus. Refetches of the core go first. -/
def execCopyCommand (s : State) : Answer :=
  let i := s.cur
  let k := s.chan
  .next (match s.core.refetch with
    | f :: _ => s.refetchSlot i f
    | [] => match (s.core.channel k).jobs with
      | [] => s.hold
      | job :: _ =>
        if s.now < (s.core.channel k).ready then s.hold
        else match (s.core.channel k).run with
          | none => s.startCopy i k job
          | some r => s.runCopy i k job r)

end Sys2Proof.Machine
end

