-- ==== Sys2Proof/Machine/Row.lean ====
section
/-! DEFINITION. The row engine (R300 to R305): rows of a command, their paths, and its report. -/

namespace Sys2Proof.Machine

/-! ### What a command does to a row (R297) -/

/-- The majority of three rows, bit by bit. -/
def majority (a b c : List Byte) : List Byte :=
  List.zipWith (fun x (y : Byte × Byte) => (x &&& y.1) ||| (x &&& y.2) ||| (y.1 &&& y.2)) a (b.zip c)

/-- The destination row from the source rows. -/
def rowResult (fn : Nat) (psel : Bool) (pattern : Nat) (src : List (List Byte)) : List Byte :=
  let a := src.getD 0 []
  let b := src.getD 1 []
  match fn with
  | 0 => a
  | 1 => if psel then (List.range 1024).map fun j => BitVec.ofNat 8 (pattern / 256 ^ (j % 8)) else zeroBytes 1024
  | 2 => List.zipWith (· &&& ·) a b
  | 3 => List.zipWith (· ||| ·) a b
  | 4 => List.zipWith (· ^^^ ·) a b
  | 5 => a.map (~~~ ·)
  | _ => majority a b (src.getD 2 [])

/-- Activate/precharge pairs of a fast-path row. -/
def rowPairs (fn : Nat) : Nat :=
  match fn with
  | 0 => 1
  | 1 => 1
  | 2 => 3
  | 3 => 3
  | 4 => 7
  | 5 => 2
  | _ => 4

/-- Row `i` takes the fast path (R301). -/
def fastRow (fn dst : Nat) (src : List Nat) : Bool := fn == 1 || src.all (sameArray dst)

/-! ### Memory of rows (R300) -/

/-- Every cached copy of the lines of a row goes from the Cistern and every L2, dirty data with it; errors of the row in
DRAM go where it has been written. -/
def MemorySystem.dropRow (m : MemorySystem) (pa : Nat) (written : Bool) : MemorySystem :=
  let mine (key : Nat) : Bool := key / 16 == pa / 1024
  { m with
    l2 := m.l2.filter (fun l => !mine l.key), cistern := m.cistern.filter (fun l => !mine l.key)
    marks := m.marks.filter fun k => !(mine k.key && (k.place == placeL2 || k.place == placeCistern || (written && k.place == placeDram))) }

/-- All source rows of a row. -/
def State.readRows (s : State) : List Nat → State × Except (Nat × ErrorPlace × Bool) (List (List Byte))
  | [] => (s, .ok [])
  | pa :: rest =>
    match s.rowSource 16 (pa / 64) with
    | (s, .error e) => (s, .error e)
    | (s, .ok bs) =>
      match s.readRows rest with
      | (s, .ok more) => (s, .ok (bs :: more))
      | r => r

/-! ### Steps of a command -/

/-- Replaces the command in execution. -/
def State.setRow (s : State) (r : RowCmd) : State :=
  s.withCore { s.core with rows := r :: s.core.rows.drop 1 }

def RowCmd.d (r : RowCmd) : RowDesc := r.desc

/-- Rows of a command. -/
def RowCmd.count (r : RowCmd) : Nat := RowDesc.len r.desc / 1024

/-- The core's item is being terminated. -/
def Core.ending (c : Core) : Bool :=
  match c.seq.mode with
  | .ending _ _ => true
  | _ => false

/-- The engine of the core that acts as a requester. -/
def State.rowEngine (s : State) : Nat := engineSource s.cur.val 16

/-- Translations of one operand row: its physical address and whether its entry carries RI. -/
def State.rowXlat (s : State) (r : RowCmd) (va : Word) (k : Kind) : CopyStep (Nat × Bool) :=
  match s.engineXlat s.cur.val s.rowEngine s.core.root va r.tag k with
  | .pa a _ e => .ok (a, pteRI e.pte) s
  | .wait s => .wait s
  | .fail s => .fail 2 s

/-- The source rows of row `i`, translated in order. -/
def State.rowXlats (s : State) (r : RowCmd) (i : Nat) : List Nat → CopyStep (List Nat × Bool)
  | [] => .ok ([], true) s
  | k :: rest =>
    match s.rowXlat r (RowDesc.src r.desc k + BitVec.ofNat 64 (1024 * i)) .rowSrc with
    | .ok (a, ri) s =>
      (match s.rowXlats r i rest with
       | .ok (more, ok) s => .ok (a :: more, ri && ok) s
       | x => x)
    | .wait s => .wait s
    | .fail st s => .fail st s
    | .own inj s => .own inj s

/-- The lines of the destination rows that have been translated. -/
def RowCmd.destLines (r : RowCmd) : List Nat := r.fills.flatMap fun x => (List.range 16).map fun k => x.1 / 64 + k

/-- The destination's lines behind the rows that have been translated, as far as its pages have translations under the command's tag. -/
def State.restLines (s : State) (r : RowCmd) : State × List Nat :=
  let done := 1024 * r.fills.length
  let n := RowDesc.len r.desc - done
  (pageRuns (RowDesc.dst r.desc + BitVec.ofNat 64 done) (n / 65536 + 2) n).foldl (fun (a : State × List Nat) x =>
    match a.1.probe a.1.cur.val a.1.core.root x.1 r.tag with
    | (s, some pa) => (s, a.2 ++ (List.range (x.2 / 64)).map fun k => pa / 64 + k)
    | (s, none) => (s, a.2)) (s, [])

/-- A row fails to translate: the command has status FAULT, and the pop of its element acquires the whole destination (R304). -/
def State.failRow (s : State) (r : RowCmd) (st : Nat) : State :=
  let x := (s.settleOwed s.rowEngine .seq).restLines r
  x.1.setRow { r with status := st, fills := [], lines := r.destLines ++ x.2 }

/-- Step 1 of R300 for the next row. A missing RI is kept as status NORI until every row has translated. -/
def State.translateRow (s : State) (r : RowCmd) : State :=
  let i := r.fills.length
  match s.rowXlat r (RowDesc.dst r.desc + BitVec.ofNat 64 (1024 * i)) .rowDst with
  | .wait s => s
  | .fail st s => s.failRow r st
  | .own _ s => s
  | .ok (dst, ri) s =>
    match s.rowXlats r i (List.range (rowSources r.fn)) with
    | .wait s => s
    | .fail st s => s.failRow r st
    | .own _ s => s
    | .ok (src, ok) s =>
      (s.settleOwed s.rowEngine .seq).setRow { r with fills := r.fills ++ [(dst, src)], status := if ri && ok then r.status else 6 }

/-- Step 2 of R300: NORI or XSITE, or 0. -/
def State.rowCheck (s : State) (r : RowCmd) : Nat :=
  let all := r.fills.flatMap fun x => x.1 :: x.2
  if r.status ≠ 0 then r.status
  else if !all.all s.rowIntact then 6
  else if !all.all (fun pa => lineSite (pa / 64) == lineSite (all.headD 0 / 64)) then 5
  else 0

/-- Step 3 of R300, and the lines of the destination are noted. -/
def State.rowReady (s : State) (r : RowCmd) : State :=
  let st := s.rowCheck r
  let lines := r.destLines
  if st ≠ 0 then s.setRow { r with status := st, fills := [], lines := lines }
  else (s.cleanSystem (r.fills.flatMap fun x => x.2.map fun pa => (pa, 1024))).setRow { r with lines := lines }

/-- The pattern row of the destination's subarray is recorded (R301). -/
def RowCmd.notePattern (r : RowCmd) (dst : Nat) (u : SiteUnit) : SiteUnit :=
  if r.fn = 1 ∧ RowDesc.psel r.desc = true then
    let k := (rowSubarray dst * 64 + rowPseudo dst) * 16 + rowBank dst
    { u with patterns := assign u.patterns k (BitVec.ofNat 64 (RowDesc.pattern r.desc)) }
  else u

/-- The rows that one row of a command activates, with how often (R292, R301): on the fast path the pairs of its function fall on the
destination, and each source is activated once on either path (DESIGN CHOICE, log entry 42). -/
def RowCmd.activates (r : RowCmd) (dst : Nat) (src : List Nat) (fast : Bool) : List (Nat × Nat) :=
  (dst, if fast then rowPairs r.fn else 1) :: src.map fun pa => (pa, 1)

/-- Step 4 of R300: one row. -/
def State.performRow (s : State) (r : RowCmd) (dst : Nat) (src : List Nat) : State :=
  match s.readRows src with
  | (s, .error (line, p, inj)) =>
    (s.post (.ownerHandling { place := p, line := line, consumer := .item s.cur r.tag, injected := inj })).setRow
      { r with status := 3, fills := [] }
  | (s, .ok rows) =>
    let fast := fastRow r.fn dst src
    let bs := rowResult r.fn (RowDesc.psel r.desc) (RowDesc.pattern r.desc) rows
    let site := siteOf (lineSite (dst / 64))
    let s := { s with sites := s.sites.set site (r.notePattern dst s.sites[site]) }
    let s := (r.activates dst src fast).foldl (fun s x => s.activateRow (siteOf (lineSite (x.1 / 64))) (rowIdOf x.1) x.2) s
    let m : MemorySystem := { s.mem with dram := pokeN (w := 8) s.mem.dram dst bs }
    (s.setMem (m.dropRow dst true)).setRow
      { r with fills := r.fills.drop 1, fast := r.fast + natOfBool fast, fall := r.fall + natOfBool (!fast) }

/-- The completion element (R303). -/
def RowCmd.element (r : RowCmd) (status : Nat) : Word :=
  BitVec.ofNat 64 (status + r.fn * 2 ^ 16 + r.fall * 2 ^ 32 + r.fast * 2 ^ 48)

/-- The command's credit (R303). -/
def State.rowCredit (s : State) (r : RowCmd) (status : Nat) : State :=
  if RowDesc.barv r.desc then
    match s.inspectLocal placeSp (RowDesc.barrier r.desc) 16 with
    | (s, some inj) => s.consumed inj
    | (s, none) => s.creditBarrier (RowDesc.barrier r.desc) fun x =>
        Barrier.credit (if status = 1 then x else Barrier.flag x 2) (RowDesc.len r.desc)
  else s

/-- Steps 5 and 6 of R300: invalidation, credit and report. -/
def State.reportRow (s : State) (r : RowCmd) : State :=
  let c := s.core
  let status := if r.status = 0 then 1 else r.status
  let drop (s : State) : State :=
    if status = 1 ∨ status = 3 then
      s.setMem ((r.lines.map (· / 16)).eraseDups.foldl (fun m k => m.dropRow (k * 1024) false) s.mem)
    else s
  let pop (s : State) : State := s.withCore { s.core with rows := s.core.rows.drop 1 }
  if c.ending then pop (drop s)
  else if 8 ≤ c.rowFifo.length ∧ c.leaving = false then s.hold
  else
    let e : DoneElem := { word := r.element status, lines := r.lines }
    let s := (drop s).rowCredit r status
    let s := if s.core.rowFifo.length < 8 then s.withCore { s.core with rowFifo := s.core.rowFifo ++ [e] } else s
    pop s

/-- ROW_COMMAND (R300): a step of the core's row engine. A command of an ending item that waits for an answer of the host
waits no more. -/
def execRowCommand (s : State) : Answer :=
  .next (match s.core.rows with
    | [] => s.hold
    | r :: _ =>
      if !r.begun then
        (if s.wire || s.core.seq.wired then s.hold else s.setRow { r with begun := true })
      else if r.lines.isEmpty && decide (r.status ≠ 2) then
        (if r.fills.length < r.count then
          (if s.core.ending && s.pages.awaits s.rowEngine then s.withCore { s.core with rows := s.core.rows.drop 1 }
           else s.translateRow r)
         else s.rowReady r)
      else match r.fills with
        | (dst, src) :: _ => if (dst :: src).any fun pa => s.lineHeld (pa / 64) then s.hold else s.performRow r dst src
        | [] => s.reportRow r)

end Sys2Proof.Machine
end

