-- ==== Sys2Proof/Machine/Tier.lean ====
section
/-! DEFINITION. Memory sites on their own (R257, R281, R282, R287 to R293): the request calendar, invalidation of cached
translations, the pool and store registers, tier commands, heat, and refresh with its alerts. -/

namespace Sys2Proof.Machine

/-! ### The request calendar (R281, R282) -/

/-- The oldest request of a core to a site that waits for its slot. -/
def MemorySystem.unissued (m : MemorySystem) (core site : Nat) : Option CalRequest :=
  m.requests.find? fun r => r.core == core && r.site == site && r.due.isNone

/-- Replaces one request. -/
def MemorySystem.setRequest (m : MemorySystem) (r q : CalRequest) : MemorySystem :=
  { m with requests := m.requests.map fun x => if x = r then q else x }

/-- The cycle on which the first data of a request issued now arrives (R282). -/
def State.dataCycle (s : State) (r : CalRequest) : Nat :=
  s.now + Config.hitLatency +
    (if r.lines.all fun key => (s.mem.cisternAt key).isSome then 0 else 32 * (1 + Config.missRotations r.site s.now))

/-- CALENDAR_SLOT (R281): the core's oldest waiting request to the site is issued in a slot the core owns; a site that has
not joined lets its requests wait (R397). -/
def execCalendarSlot (s : State) : Answer :=
  let site := s.focus.site
  .next (match s.mem.unissued s.cur.val site.val with
    | none => s
    | some r =>
      if s.slotFrom s.cur.val site.val s.now ≠ s.now ∨ (s.sites[site]).joined = false then
        s.postAt (s.slotFrom s.cur.val site.val (s.now + 1)) .calendarSlot
      else
        let due := s.dataCycle r
        let s := (s.setMem (s.mem.setRequest r { r with slot := s.now, due := some due })).postAt due .requestData
        if (s.mem.unissued s.cur.val site.val).isSome then s.postAt (s.now + 32) .calendarSlot else s)

/-- One line of a request reaches the core's home slice; a clean copy with an error is refetched on the way (R368, R370). -/
def State.lineArrives (s : State) (key : Nat) : State :=
  if (s.mem.l2At key).isSome then s else s.l2Fill key (s.tags.ownerOf (key * 64))

/-- A request after the first of its lines has come. -/
def MemorySystem.shorten (m : MemorySystem) (r : CalRequest) (next : Nat) : MemorySystem :=
  match r.lines with
  | _ :: k :: rest => m.setRequest r { r with lines := k :: rest, due := some next }
  | _ => { m with requests := m.requests.filter (· != r) }

/-- A line has to come from a pseudo-channel that takes no activation: a miss then returns whole rotations later (R292, R293). -/
def State.fetchWaits (s : State) (key : Nat) : Bool := (s.mem.l2At key).isNone && (s.mem.cisternAt key).isNone && s.lineHeld key

/-- REQUEST_DATA (R282): 64 bytes arrive, and 64 more on each cycle that follows. -/
def execRequestData (s : State) : Answer :=
  .next (match s.mem.requests.find? fun r =>
      r.core == s.cur.val && r.site == s.focus.site.val && (match r.due with
        | some t => decide (t ≤ s.now)
        | none => false) with
    | none => s
    | some r =>
      if s.fetchWaits (r.lines.headD 0) then
        (s.setMem (s.mem.setRequest r { r with due := some (s.now + 32) })).postAt (s.now + 32) .requestData
      else
      let s := s.lineArrives (r.lines.headD 0)
      let s := s.setMem (s.mem.shorten r (s.now + 1))
      if 1 < r.lines.length then s.postAt (s.now + 1) .requestData else s)

/-! ### Invalidation of cached translations (R287) -/

/-- An invalidation is still to come. -/
def isInvalidation (i : Instr) : Bool :=
  match i with
  | .tivaInvalidate _ => true
  | .tiallInvalidate => true
  | _ => false

/-- BUSY clears with the last invalidation. -/
def State.tiDone (s : State) : State :=
  s.setMem { s.mem with tiBusy := s.agenda.any fun e => isInvalidation e.instr }

/-- An entry of the space TIROOT translates the page of a virtual address. -/
def XlatEntry.covers (e : XlatEntry) (root : Nat) (va : Word) : Bool :=
  e.root == root &&
    e.page % 2 ^ 41 / 2 ^ (levelShift e.level - 16) == bitsAt va 16 41 / 2 ^ (levelShift e.level - 16)

/-- TIVA_INVALIDATE (R287). -/
def execTivaInvalidate (va : Word) (s : State) : Answer :=
  .next (s.dropXlat (·.covers s.mem.tiroot.toNat va)).tiDone

/-- TIALL_INVALIDATE (R287). -/
def execTiallInvalidate (s : State) : Answer :=
  .next (s.dropXlat (·.root == s.mem.tiroot.toNat)).tiDone

/-! ### Pool and store registers (R257, R288) -/

/-- Whether a change of a base or a count is allowed: while a tag is LIVE or RETIRING a count may only rise. -/
def TagUnit.allows (t : TagUnit) (isBase : Bool) (old new : Word) : Bool :=
  !t.busy || old == new || (!isBase && decide (old.toNat ≤ new.toNat))

/-- Writes one entry of a register file. -/
def putWord (v : Vector Word 8) (i : Nat) (x : Word) : Vector Word 8 := v.set (i % 8) x (Nat.mod_lt _ (by decide))

/-- POOL_REGISTER_WRITE (R257, R288): MPBASE, MPCNT, CSBASE or CSCNT of a site. -/
def execPoolRegisterWrite (offset : Nat) (value : Word) (s : State) : Answer :=
  let o := offset - 0x20000
  let base : Word := BitVec.ofNat 64 (fieldIn value 56 16)
  let count : Word := BitVec.ofNat 64 (fieldIn value 31 0)
  .next (
    if 0x40 ≤ o ∧ o < 0xC0 then
      let i := (o - 0x40) / 16
      if o % 16 = 0 then
        (if s.tags.allows true (wordAt s.tags.mpbase i) base then s.setTags { s.tags with mpbase := putWord s.tags.mpbase i base }
         else s.control!)
      else if s.tags.allows false (wordAt s.tags.mpcnt i) count then s.setTags { s.tags with mpcnt := putWord s.tags.mpcnt i count }
      else s.control!
    else
      let i := siteOf ((o - 0x200) / 64)
      let t := s.tiers[i]
      if o % 64 = 0 then
        (if s.tags.allows true t.csbase base then { s with tiers := s.tiers.set i { t with csbase := base } } else s.control!)
      else if s.tags.allows false t.cscnt count then { s with tiers := s.tiers.set i { t with cscnt := count } }
      else s.control!)

/-! ### Tier commands (R288 to R290) -/

/-- A tier command (R289), as its 256 bits. -/
abbrev TierCmd := BitVec 256

def TierCmd.op (c : TierCmd) : Nat := bitsAt c 0 8
def TierCmd.reserved (c : TierCmd) : Nat := bitsAt c 8 56
def TierCmd.ptepa (c : TierCmd) : Nat := bitsAt c 64 64
def TierCmd.dest (c : TierCmd) : Nat := bitsAt c 128 64
def TierCmd.cwpa (c : TierCmd) : Nat := bitsAt c 192 64

/-- TIER_COMMAND_WRITE (R288): a write while eight are queued is dropped. -/
def execTierCommandWrite (site : Fin 8) (value : Word) (s : State) : Answer :=
  let t := s.tiers[site]
  let u := if 8 ≤ t.queue.length then { t with terr := true } else { t with queue := t.queue ++ [fieldIn value 56 5] }
  .next { s with tiers := s.tiers.set site u }

/-- Backing memory of pages that a tier command may name: device DRAM and the board tier. -/
def State.tierMemory (s : State) (pa : Nat) : Bool :=
  (match s.mem.region pa with
   | .dram => true
   | .board _ => true
   | _ => false) && !s.gone pa

/-- The oldest command of a site goes. -/
def State.popTier (s : State) (i : Fin 8) : State :=
  { s with tiers := s.tiers.set i { s.tiers[i] with queue := (s.tiers[i]).queue.drop 1 } }

/-- What the read of a command's 32 bytes gives. -/
inductive TierRead where
  | cmd (c : TierCmd)
  | none
  | wait
  deriving DecidableEq, Repr

/-- Reads a command. One that cannot be read names no completion word: it is dropped. -/
def State.tierRead (s : State) (i : Fin 8) (pa : Nat) : State × TierRead :=
  if !(s.mem.region pa).cached || s.gone pa then ((s.popTier i).control!, .none)
  else if s.siteHolds pa then (s, .wait)
  else match s.agentRun pa 32 with
    | (s, .bytes bs) => (s, .cmd (BitVec.ofNat 256 (leNat bs)))
    | (s, .bad line p inj) =>
      ((s.popTier i).post (.ownerHandling { place := p, line := line, consumer := .host, injected := inj }), .none)

/-- A command ends: its completion word is written, with the frame released to software. -/
def State.endTier (s : State) (i : Fin 8) (c : TierCmd) (frame status : Nat) : State :=
  let s := s.popTier i
  let pa := TierCmd.cwpa c
  if pa = 0 then s
  else if pa % 8 ≠ 0 ∨ (s.mem.region pa).cached = false ∨ s.gone pa = true then s.control!
  else s.agentStore pa (leBytes 8 (fieldIn (BitVec.ofNat 64 frame) 56 16 + status))

/-- The entry of a command is where an entry can lie, and OP is one of the two. -/
def State.tierShape (s : State) (c : TierCmd) : Bool :=
  TierCmd.reserved c == 0 && TierCmd.ptepa c % 8 == 0 && s.tierMemory (TierCmd.ptepa c)

/-- The entry that a command names, read as a walk reads it; none where the command is malformed, or the line holds an error that the
engine consumes (R289, R371: the rule names no status for that, and the model takes BADPTE; DESIGN CHOICE, log entry 21). -/
def State.tierEntry (s : State) (c : TierCmd) : State × Option Word :=
  if s.tierShape c then s.tableRead (TierCmd.ptepa c) else (s, none)

/-- A valid 64 KiB leaf whose page is backed by memory of a tier. -/
def State.tierLeaf (s : State) (p : Word) : Bool :=
  pteV p && pteL p && bitsAt p 57 7 == 0 && !leafMalformed p 0 && s.tierMemory (ptePage p)

/-- A compressed leaf. -/
def tierImage (p : Word) : Bool := !pteV p && pteL p && pteC p && bitsAt p 57 7 == 0 && !p.getLsbD 11

/-- DEST can take a page. -/
def State.tierDest (s : State) (c : TierCmd) : Bool := TierCmd.dest c % 65536 == 0 && s.tierMemory (TierCmd.dest c)

/-- An engine of a core holds a write to a page that it has translated and not performed. -/
def Core.writesPage (c : Core) (page : Nat) : Bool :=
  (c.rows.any fun r => r.fills.any fun x => x.1 / 65536 == page) ||
    c.channels.any fun x => x.2.writing && (match x.2.run with
      | some r => r.pend.any fun b => b.writes.any fun w => w.1 / 65536 == page
      | none => false)

def State.pageWriter (s : State) (page : Nat) : Bool := (List.finRange 96).any fun i => (s.cores[i]).writesPage page

/-- Step 1 of R290. -/
def State.markFlight (s : State) (page : Nat) : State := s.setMem { s.mem with inFlight := page :: s.mem.inFlight }

/-- Steps 4 and 5 of R290: translations of the entry and cached copies of the source go, and stalled writes are released. -/
def State.landFlight (s : State) (pte page : Nat) : State :=
  let s := (s.dropXlat (·.pteAddr == pte)).discardPage page
  s.setMem { s.mem with inFlight := s.mem.inFlight.filter (· != page) }

/-- A command that changes nothing lets the source go again. -/
def State.unmarkFlight (s : State) (page : Nat) : State :=
  s.setMem { s.mem with inFlight := s.mem.inFlight.filter (· != page) }

/-- An error in the source page: it is consumed by the engine, and no item ends (R371). -/
def State.sourceError (s : State) (line : Nat) : State :=
  match s.inspectLine line with
  | (s, some (p, inj)) => s.post (.ownerHandling { place := p, line := line, consumer := .host, injected := inj })
  | (s, none) => s

/-- Bytes of a page as its engine reads them, completed stores and dirty cached lines of it counted, single-bit errors corrected (R290,
R367). -/
def State.pageBytes (s : State) (page : Nat) : List Byte × State :=
  let s := ((s.performEvery).cleanDevice [(page * 65536, 65536)]).cleanSystem [(page * 65536, 65536)]
  let s := (s.mem.marks.filter fun k => decide (k.place ≤ placeDram) && k.key / 1024 == page).foldl
    (fun s k => (s.inspectCistern k.key).1) s
  (peekN (w := 8) s.mem.dram (page * 65536) 65536, s.activatePage (page * 65536))

/-- Store space of an image, in bytes: whole units of 4 KiB, one at least. -/
def imageUnits (size : Nat) : Nat := max 1 ((size + 4095) / 4096) * 4096

/-- The 4 KiB units of a store: its frames are pages of one site, 512 KiB apart (R275, R288). -/
def TierUnit.unitPlace (t : TierUnit) (h : Nat) : Nat := bitsAt t.csbase 16 41 * 2 ^ 16 + h / 16 * 2 ^ 19 + h % 16 * 4096

/-- An image of `size` bytes fits at a place: inside its frame, which is not retired (R371), and apart from the other images. -/
def TierUnit.fits (t : TierUnit) (retired : List Nat) (place size : Nat) : Bool :=
  decide (place % 65536 + imageUnits size ≤ 65536) && !retired.contains (place / 65536 * 65536) &&
    !t.images.any fun x => decide (x.place < place + imageUnits size) &&
      decide (place < x.place + imageUnits (Config.compressedImage x.page).length)

/-- The first unit of the store's `units`, from unit `h` on and round once, where an image fits. -/
def TierUnit.roomFrom (t : TierUnit) (retired : List Nat) (size units : Nat) : Nat → Nat → Option Nat
  | 0, _ => none
  | n + 1, h =>
    if t.fits retired (t.unitPlace (h % units)) size then some (t.unitPlace (h % units)) else t.roomFrom retired size units n (h + 1)

/-- The entry of a compressed page: V = 0 and a HANDLE, all other bits kept. -/
def pteCompressed (p : Word) (handle : Nat) : Word := putBits (putBits p 0 1 0) 11 46 (2 * handle)

/-- The image of a page goes into a site's store, and the entry names it. -/
def State.storeImage (s : State) (i : Fin 8) (pte place : Nat) (page : List Byte) : State :=
  let t := s.tiers[i]
  let s := { s with tiers := s.tiers.set i { t with images := { place := place, pte := pte, page := page } :: t.images } }
  (s.agentStore place (Config.compressedImage page)).writePte [] pte
    (pteCompressed (s.pteAt pte) ((place - bitsAt t.csbase 16 41 * 2 ^ 16) / 4096))

/-- COMPRESS on a page that is in flight. Where in the store the image goes is a free choice (DESIGN CHOICE, log entry 21). -/
def State.compressPage (s : State) (i : Fin 8) (c : TierCmd) (page : Nat) : State :=
  let pte := TierCmd.ptepa c
  match s.mem.badLine page with
  | some line => ((s.unmarkFlight page).sourceError line).endTier i c 0 5
  | none =>
    let r := s.pageBytes page
    let size := (Config.compressedImage r.1).length
    let units := bitsAt (r.2.tiers[i]).cscnt 0 32 * 16
    let h := r.2.pickBelow units
    if 61440 < size then (r.2.unmarkFlight page).endTier i c 0 2
    else match (h.2.tiers[i]).roomFrom h.2.tags.retiredPages size units units h.1 with
      | none => (h.2.unmarkFlight page).endTier i c 0 3
      | some place => ((h.2.storeImage i pte place r.1).landFlight pte page).endTier i c (page * 65536) 1

/-- COMPRESS (R290): the oldest command of the site, where its OP is not MOVE. A reserved OP is malformed. -/
def execCompressTier (s : State) : Answer :=
  let i := s.focus.site
  .next (match (s.tiers[i]).queue with
    | [] => s.hold
    | pa :: _ =>
      match s.tierRead i pa with
      | (s, .none) => s
      | (s, .wait) => s.hold
      | (s, .cmd c) =>
        if TierCmd.op c = 2 then s.hold
        else if TierCmd.op c ≠ 1 then s.endTier i c 0 4
        else match s.tierEntry c with
          | (s, none) => s.endTier i c 0 4
          | (s, some p) =>
            let page := ptePage p / 65536
            if s.tierLeaf p = false ∨ pteC p = false ∨ pteT p = true then s.endTier i c 0 4
            else if !s.mem.inFlight.contains page then s.markFlight page
            else if s.pageWriter page || s.pageHeld (page * 65536) then s.hold
            else s.compressPage i c page)

/-- MOVE of a page that is in flight. -/
def State.movePage (s : State) (i : Fin 8) (c : TierCmd) (page : Nat) : State :=
  let pte := TierCmd.ptepa c
  let dest := TierCmd.dest c
  match s.mem.badLine page with
  | some line => ((s.unmarkFlight page).sourceError line).endTier i c 0 5
  | none =>
    let r := s.pageBytes page
    let s := r.2.putPage dest r.1
    ((s.writePte [] pte (putBits (s.pteAt pte) 16 41 (dest / 65536))).landFlight pte page).endTier i c (page * 65536) 1

/-- MOVE of a compressed page: the image in the site's own store is expanded into DEST (DESIGN CHOICE, log entry 21: the HANDLE counts in the store of
the site that has the command). -/
def State.moveImage (s : State) (i : Fin 8) (c : TierCmd) : State :=
  match s.expand [] i (TierCmd.ptepa c) (TierCmd.dest c) with
  | (s, none) => (s.dropXlat (·.pteAddr == TierCmd.ptepa c)).endTier i c 0 1
  | (s, some (line, _, _)) => (s.sourceError line).endTier i c 0 5

/-- MOVE (R290): the oldest command of the site, where its OP is MOVE. A compressed page is expanded into DEST. -/
def execMoveTier (s : State) : Answer :=
  let i := s.focus.site
  .next (match (s.tiers[i]).queue with
    | [] => s.hold
    | pa :: _ =>
      match s.tierRead i pa with
      | (s, .none) => s
      | (s, .wait) => s.hold
      | (s, .cmd c) =>
        if TierCmd.op c ≠ 2 then s.hold
        else match s.tierEntry c with
          | (s, none) => s.endTier i c 0 4
          | (s, some p) =>
            let page := ptePage p / 65536
            if s.tierDest c = false ∨ (s.tierLeaf p || tierImage p) = false then s.endTier i c 0 4
            else if tierImage p then
              (if s.pageHeld (TierCmd.dest c) then s.hold else s.moveImage i c)
            else if !s.mem.inFlight.contains page then s.markFlight page
            else if s.pageWriter page || s.pageHeld (page * 65536) || s.pageHeld (TierCmd.dest c) then s.hold
            else s.movePage i c page)

/-- OP of a site's oldest command, without reading it for good. -/
def State.tierOp (s : State) (i : Fin 8) : Option Nat :=
  match (s.tiers[i]).queue with
  | [] => none
  | pa :: _ => some (s.mem.number pa 1)

/-! ### Heat (R291) -/

/-- HEAT_HALVING (R291): every counter of the package is halved, rounding down, and again 10 ms later. -/
def execHeatHalving (s : State) : Answer :=
  let heat : Sparse 8 := (s.mem.heat.map fun (e : Nat × BitVec 8) => (e.1, e.2 >>> 1)).filter fun e => e.2 != 0
  .next ((s.setMem { s.mem with heat := heat }).postFor Focus.zero (s.now + s.cyclesFor 10000000) .heatHalving)

/-! ### Refresh and alerts (R292, R293) -/

def State.setSite (s : State) (i : Fin 8) (u : SiteUnit) : State := { s with sites := s.sites.set i u }

/-- The focus that names a site and nothing else. -/
def siteFocus (i : Fin 8) : Focus := { Focus.zero with site := i }

/-- The physical address of a DRAM row (R295). -/
def rowAddress (site : Nat) (r : RowId) : Nat :=
  let o := r.row / 4 % 8
  r.row / 32 * 2 ^ 28 + r.pseudoChannel * 2 ^ 22 + o * 2 ^ 19 + site * 2 ^ 16 +
    (16 * (r.row % 4) + (r.bank + 16 - o) % 16) * 1024

/-- The neighbours of an alerting row, at distance 1 and 2 in its subarray, have been refreshed: that leaves no trace in any
value, and the count that gave the alert starts afresh. -/
def SiteUnit.calm (u : SiteUnit) (r : RowId) : SiteUnit :=
  { u with
    activations := poke u.activations (rowKey r) 0
    alerting := u.alerting.filter (· != r) }

/-- ALERT (R292, R293): the alert is logged and the neighbours are refreshed, under takeover after the fixed back-off of
400 ns, for which the pseudo-channel takes no activation. -/
def execAlert (site : Fin 8) (row : RowId) (s : State) : Answer :=
  let u := s.sites[site]
  .next (
    if u.alerting.contains row then s.setSite site (u.calm row)
    else
      let s := s.report (96 + site.val) 0x08 0 (rowAddress site.val row) 0
      if u.takeover then
        (s.setSite site { u with alerting := u.alerting ++ [row] }).postFor (siteFocus site) (s.now + s.cyclesFor 400)
          (.alert site row)
      else s.setSite site (u.calm row))

/-- The nominal refresh interval in cycles: 3.9 µs. -/
def State.refreshCycles (s : State) : Nat := s.cyclesFor 3900

/-- A refresh is issued and the next one planned. -/
def State.refreshNow (s : State) (i : Fin 8) : State :=
  (s.setSite i { s.sites[i] with refreshes := (s.sites[i]).refreshes + 1 }).postFor (siteFocus i) (s.now + s.refreshCycles) .refresh

/-- REFRESH (R293). -/
def execRefresh (s : State) : Answer := .next (s.refreshNow s.focus.site)

/-- Pending events of a site of one kind are withdrawn. -/
def State.withdraw (s : State) (i : Fin 8) (x : Instr) : State :=
  { s with agenda := s.agenda.filter fun e => !(e.instr == x && e.focus.site == i) }

/-- HEARTBEAT (R293): the next is due 1 µs later, and 2 µs later the sequencer takes over if none has come. Under takeover it
is ignored. -/
def execHeartbeat (s : State) : Answer :=
  let i := s.focus.site
  .next (
    if (s.sites[i]).takeover then s
    else
      let s := (s.setSite i { s.sites[i] with lastHeartbeat := s.clock.gts }).withdraw i .takeover
      (s.postFor (siteFocus i) (s.now + s.cyclesFor 1000) .heartbeat).postFor (siteFocus i) (s.now + s.cyclesFor 2000) .takeover)

/-- TAKEOVER (R293): after two missed heartbeats the sequencer issues a refresh at once and goes on at the nominal
interval; the management plane is notified. -/
def execTakeover (s : State) : Answer :=
  let i := s.focus.site
  let u := s.sites[i]
  .next (
    if u.takeover || decide (s.clock.gts < u.lastHeartbeat + 2000) then s
    else
      let s := (s.setSite i { u with takeover := true }).report (96 + i.val) 0x09 0 0 0
      (s.withdraw i .refresh).refreshNow i)

/-- The site's next refresh lies ahead and none has just been issued. -/
def State.midRefresh (s : State) (i : Fin 8) : Option Nat :=
  (s.agenda.find? fun e => e.instr == .refresh && e.focus.site == i && decide (s.now < e.due ∧ e.due < s.now + s.refreshCycles)).map
    (·.due)

/-- HAND_BACK (R293): at a refresh boundary the restarted site controller takes refresh back. -/
def execHandBack (s : State) : Answer :=
  let i := s.focus.site
  .next (
    if !(s.sites[i]).takeover then s
    else match s.midRefresh i with
      | some t => s.postFor (siteFocus i) t .handBack
      | none =>
        (s.setSite i { s.sites[i] with takeover := false, lastHeartbeat := s.clock.gts }).postFor (siteFocus i) s.now .heartbeat)

end Sys2Proof.Machine
end

