-- ==== Sys2Proof/Machine/Fabric.lean ====
section
/-! DEFINITION. The links of the Cascade fabric (R332, R333, R341): ports, routes and the messages a member sends. -/

namespace Sys2Proof.Machine

def State.setFabric (s : State) (f : Fabric) : State := { s with fabric := f }

/-- This device's number in the pod (R332). -/
def State.devId (s : State) : Nat := bitsAt (peek s.fabric.regs 0x32000) 0 10

/-- A port carries flits. -/
def Fabric.up (f : Fabric) (p : Nat) : Bool := decide (p < 24) && f.portsUp.getLsbD p

/-- The valid candidates of a destination whose ports are up, in candidate order; a port value of 24 to 31 does not count. -/
def Fabric.candidates (f : Fabric) (dest : Nat) : List Nat :=
  let e := peek f.regs (0x30000 + 8 * (dest % 1024))
  (List.range 4).filterMap fun i =>
    if e.getLsbD (8 * i + 5) && f.up (bitsAt e (8 * i) 5) then some (bitsAt e (8 * i) 5) else none

/-- A routing entry is used: each valid candidate with a port value of 24 to 31 logs a CONTROL event at its first use (R14, R332). -/
def State.useRoute (s : State) (dest : Nat) : State :=
  let d := dest % 1024
  let e := peek s.fabric.regs (0x30000 + 8 * d)
  (List.range 4).foldl (fun s i =>
    if e.getLsbD (8 * i + 5) && decide (24 ≤ bitsAt e (8 * i) 5) && !s.fabric.flagged.contains (4 * d + i) then
      (s.setFabric { s.fabric with flagged := (4 * d + i) :: s.fabric.flagged }).control!
    else s) s

/-! ### Flits (R333) -/

/-- Flits of a message: 240 payload bytes each (R340: 13 flits carry 3,120), one where there is no payload. -/
def flitsOf (bytes : Nat) : Nat := max 1 ((bytes + 239) / 240)

/-- When the last flit queued at a port will have left, in sevenths of a nanosecond of GTS. -/
def Fabric.drainOf (f : Fabric) (p : Nat) : Nat := f.drains.toArray.getD p 0

/-- Flits queued at a port: a flit of 256 bytes leaves in 8/7 ns at 224 GB/s (R7). The link's own resends of a flit are not known to
the model and queue nothing (log entry 27). -/
def Fabric.queued (f : Fabric) (gts p : Nat) : Nat := (f.drainOf p + 7 - 7 * gts) / 8

/-- `n` flits queue at a port from `t` on, in sevenths of a nanosecond. -/
def Fabric.pushFlits (f : Fabric) (p t n : Nat) : Fabric :=
  { f with drains := f.drains.setIfInBounds p (max (f.drainOf p) t + 8 * n) }

/-- The emptiest of some ports, the first of those that tie. -/
def Fabric.emptiest (f : Fabric) (gts : Nat) : List Nat → Option Nat
  | [] => none
  | p :: rest =>
    match f.emptiest gts rest with
    | some q => if f.queued gts p ≤ f.queued gts q then some p else some q
    | none => some p

/-- The port of the next flit to a device in adaptive mode: the up candidate with the fewest flits queued, a tie to the lowest
candidate number (R333). -/
def State.adaptivePort (s : State) (dest : Nat) : Option Nat := s.fabric.emptiest s.clock.gts (s.fabric.candidates dest)

/-- `n` flits leave for a device one after the other, each by the port that adaptive mode gives it then; the ports used. -/
def State.spreadFlits (dest : Nat) : Nat → State → List Nat → List Nat × State
  | 0, s, l => (l.reverse, s)
  | n + 1, s, l =>
    match s.adaptivePort dest with
    | none => (l.reverse, s)
    | some p =>
      State.spreadFlits dest n (s.setFabric (s.fabric.pushFlits p (7 * s.clock.gts) 1)) (if l.contains p then l else p :: l)

/-- A message of so many payload bytes leaves: a scheduled run by its port from `t` on, else its backup (R340, R341), everything else
flit by flit through the candidates; the ports it leaves by, or none where no path is left. -/
def State.leaveBy (s : State) (dest bytes : Nat) (hops : List Nat) (t : Nat) : List Nat × State :=
  match hops.find? s.fabric.up with
  | some p => ([p], s.setFabric (s.fabric.pushFlits p (7 * t) (flitsOf bytes)))
  | none => State.spreadFlits dest (flitsOf bytes) (s.useRoute dest) []

/-- A message is on its way. -/
def State.sendBy (s : State) (m : OutMsg) : State := s.setFabric { s.fabric with outbox := s.fabric.outbox ++ [m] }

/-- The start of the first slot of the calendar at or after a GTS (R340): slot `j` of a frame begins (125 j) div 8 ns into it. -/
def slotAtOrAfter (gts : Nat) : Nat := gts / 1000 * 1000 + 125 * ((8 * (gts % 1000) + 124) / 125) / 8

/-- FLIT_FORWARD (R333): a relay sends a flit on by the port adaptive mode gives, a scheduled flit in the first slot of that port that
begins at or after its arrival. A flit for which no path is left goes no further. -/
def execFlitForward (scheduled : Bool) (dest : BitVec 10) (s : State) : Answer :=
  let s := (s.rouse .flit).useRoute dest.toNat
  .next (match s.adaptivePort dest.toNat with
    | some p =>
      let f := s.fabric.pushFlits p (7 * if scheduled then slotAtOrAfter s.clock.gts else s.clock.gts) 1
      s.setFabric { f with forwarded := f.forwarded + 1 }
    | none => s)

/-- PORT_UP (R332): a port has trained with its partner; ports train from stage 1 on. -/
def execPortUp (s : State) : Answer :=
  .next (if s.mgmt.stage = .stage0 then s
    else s.setFabric { s.fabric with portsUp := s.fabric.portsUp ||| (1#24 <<< s.focus.port.val) })

end Sys2Proof.Machine
end

