-- ==== Sys2Proof/Machine/Coll.lean ====
section
/-! DEFINITION. Collectives (R334 to R342): records, signatures, transfers, landings and failures. -/

namespace Sys2Proof.Machine

/-! ### The record (R334, R335) -/

/-- The header of a collective record, as its 1,024 bits. -/
abbrev CollHeader := BitVec 1024

def CollHeader.kind (h : CollHeader) : Nat := bitsAt h 0 8
def CollHeader.nsteps (h : CollHeader) : Nat := bitsAt h 8 5
def CollHeader.adaptive (h : CollHeader) : Bool := h.getLsbD 13
def CollHeader.sat (h : CollHeader) : Bool := h.getLsbD 14
def CollHeader.log (h : CollHeader) : Bool := h.getLsbD 15
def CollHeader.fmt (h : CollHeader) : Nat := bitsAt h 16 5
def CollHeader.rop (h : CollHeader) : Nat := bitsAt h 24 2
def CollHeader.qtype (h : CollHeader) : Nat := bitsAt h 26 2
def CollHeader.collId (h : CollHeader) : BitVec 16 := BitVec.ofNat 16 (bitsAt h 32 16)
def CollHeader.tag (h : CollHeader) : Tag := BitVec.ofNat 16 (bitsAt h 48 16)
def CollHeader.nmem (h : CollHeader) : Nat := bitsAt h 64 16
def CollHeader.rank (h : CollHeader) : Nat := bitsAt h 80 16
def CollHeader.sig (h : CollHeader) : Word := BitVec.ofNat 64 (bitsAt h 128 64)
def CollHeader.memtab (h : CollHeader) : Word := BitVec.ofNat 64 (bitsAt h 512 64)
def CollHeader.slots (h : CollHeader) : Word := BitVec.ofNat 64 (bitsAt h 576 64)
def CollHeader.gts0 (h : CollHeader) : Nat := bitsAt h 640 64

/-- The base of a region (0 SRC, 1 DST, 2 STAGE) and its scale base. -/
def CollHeader.base (h : CollHeader) (region : Nat) : Word := BitVec.ofNat 64 (bitsAt h (192 + 64 * region) 64)
def CollHeader.scaleBase (h : CollHeader) (region : Nat) : Word := BitVec.ofNat 64 (bitsAt h (384 + 64 * region) 64)

/-- The element format of a region: STAGE holds FP32. -/
def CollHeader.fmtOf (h : CollHeader) (region : Nat) : Nat := if region = 2 then 0 else CollHeader.fmt h

/-- A step block, as its 1,024 bits. -/
abbrev CollStep := BitVec 1024

def CollStep.skind (b : CollStep) : Nat := bitsAt b 0 8
def CollStep.wide (b : CollStep) : Bool := b.getLsbD 8
def CollStep.sreg (b : CollStep) : Nat := bitsAt b 9 2
def CollStep.dreg (b : CollStep) : Nat := bitsAt b 11 2
def CollStep.nlev (b : CollStep) : Nat := bitsAt b 13 3
def CollStep.pbase (b : CollStep) : Nat := bitsAt b 16 10
def CollStep.rcoef (b : CollStep) : Int := signedOf 16 (bitsAt b 32 16)
def CollStep.run (b : CollStep) : Nat := bitsAt b 64 32
def CollStep.soff (b : CollStep) : Int := signedOf 48 (bitsAt b 128 48)
def CollStep.doff (b : CollStep) : Int := signedOf 48 (bitsAt b 192 48)
def CollStep.sstr (b : CollStep) (n : Nat) : Int := signedOf 32 (bitsAt b (128 * n + 256) 32)
def CollStep.dstr (b : CollStep) (n : Nat) : Int := signedOf 32 (bitsAt b (128 * n + 288) 32)
def CollStep.count (b : CollStep) (n : Nat) : Nat := bitsAt b (128 * n + 320) 16
def CollStep.pcoef (b : CollStep) (n : Nat) : Int := signedOf 16 (bitsAt b (128 * n + 352) 16)

/-- Transfers of a step. -/
def CollStep.total (b : CollStep) : Nat := (List.range (CollStep.nlev b)).foldl (fun x n => x * CollStep.count b n) 1

/-- The wire format of a step (R335). -/
def wireFmt (h : CollHeader) (b : CollStep) : Nat := if CollStep.wide b then 0 else CollHeader.fmtOf h (CollStep.sreg b)

/-- Bytes of a run in a format: codes, and behind them the scale bytes of Q4. -/
def runBytes (fmt run : Nat) : Nat :=
  match fmt with
  | 5 => run / 2 + run / 32
  | 0 | 6 => 4 * run
  | 1 | 2 => 2 * run
  | _ => run

/-! ### Checks (R336) -/

/-- Fields that must be zero, and the limits of R334. -/
def collHeaderOk (h : CollHeader) : Bool :=
  bitsAt h 704 320 == 0 && bitsAt h 96 32 == 0 && bitsAt h 28 4 == 0 && bitsAt h 21 3 == 0 &&
    decide (1 ≤ CollHeader.kind h ∧ CollHeader.kind h ≤ 6 ∧ 1 ≤ CollHeader.nsteps h ∧ CollHeader.nsteps h ≤ 16) &&
    decide (CollHeader.fmt h ≤ 6 ∧ 1 ≤ CollHeader.nmem h ∧ CollHeader.nmem h ≤ 1024 ∧ CollHeader.rank h < CollHeader.nmem h) &&
    CollHeader.memtab h &&& 1 == 0 && CollHeader.slots h &&& 7 == 0 && CollHeader.gts0 h % 1000 == 0 &&
    (CollHeader.fmt h == 5 || (CollHeader.scaleBase h 0 == 0 && CollHeader.scaleBase h 1 == 0)) &&
    (CollHeader.rop h == 0 || CollHeader.kind h == 2 || CollHeader.kind h == 3) &&
    (if CollHeader.adaptive h then CollHeader.slots h == 0 && CollHeader.gts0 h == 0
     else CollHeader.slots h != 0 && CollHeader.gts0 h != 0)

/-- A level of a step: its reserved bits, and a count within its limits. -/
def collLevelOk (b : CollStep) (n : Nat) : Bool :=
  bitsAt b (128 * n + 368) 16 == 0 && bitsAt b (128 * n + 336) 16 == 0 &&
    (if n < CollStep.nlev b then decide (1 ≤ CollStep.count b n) else CollStep.count b n == 0)

/-- The fields and limits of R335. -/
def collStepOk (h : CollHeader) (b : CollStep) : Bool :=
  bitsAt b 240 16 == 0 && bitsAt b 176 16 == 0 && bitsAt b 96 32 == 0 && bitsAt b 48 16 == 0 && bitsAt b 26 6 == 0 &&
    decide (CollStep.skind b ≤ 1 ∧ CollStep.sreg b ≤ 2 ∧ CollStep.dreg b ≤ 2) &&
    decide (1 ≤ CollStep.nlev b ∧ CollStep.nlev b ≤ 6 ∧ 1 ≤ CollStep.run b ∧ CollStep.pbase b < CollHeader.nmem h) &&
    (List.range 6).all (collLevelOk b) && !(CollStep.wide b && CollHeader.fmt h == 6)

/-- A step touches the STAGE region. -/
def CollStep.staged (b : CollStep) : Bool := CollStep.sreg b == 2 || CollStep.dreg b == 2

/-- A Q4 step keeps to whole blocks. -/
def collBlocksOk (h : CollHeader) (b : CollStep) : Bool :=
  CollHeader.fmt h != 5 || (CollStep.sreg b == 2 && CollStep.dreg b == 2) ||
    (CollStep.run b % 32 == 0 && CollStep.soff b % 32 == 0 && CollStep.doff b % 32 == 0 &&
      (List.range (CollStep.nlev b)).all fun n => CollStep.sstr b n % 32 == 0 && CollStep.dstr b n % 32 == 0)

/-- The rows of R336 about the steps. -/
def collStepsOk (h : CollHeader) (bs : List CollStep) : Bool :=
  bs.all (collStepOk h) && bs.all (collBlocksOk h) &&
    bs.all (fun b => decide (runBytes (wireFmt h b) (CollStep.run b) ≤ 65536)) &&
    (CollHeader.rop h != 0 || bs.all fun b => CollStep.skind b == 0) &&
    (bs.any CollStep.staged == (CollHeader.base h 2 != 0))

/-- The member table of R336. -/
def collMembersOk (h : CollHeader) (devId : Nat) (ms : List Nat) : Bool :=
  ms.all (fun m => decide (m < 1024)) && ms.eraseDups.length == ms.length && ms.getD (CollHeader.rank h) 1024 == devId

/-! ### Signatures (R337) -/

/-- A record without the fields that a signature does not cover. -/
def signedHeader (h : CollHeader) : CollHeader := putBits (putBits (putBits h 128 576 0) 80 16 0) 48 16 0
def signedStep (b : CollStep) : CollStep := putBits (putBits (putBits b 192 48 0) 128 48 0) 16 10 0

/-- The signature: the first 8 bytes of SHAKE256 of the covered record and the member table. -/
def collSignature (h : CollHeader) (bs : List CollStep) (ms : List Nat) : Word :=
  BitVec.ofNat 64 (leNat (shake256 (vecBytes (signedHeader h) ++ bs.flatMap (fun b => vecBytes (signedStep b)) ++
    ms.flatMap (leBytes 2)) 8))

/-! ### Translation for the sequencer (R336) -/

/-- How an access of the collective sequencer translates. -/
inductive CollXlat where
  | ok (segs : List (Nat × Nat)) (s : State)
  | wait (s : State)
  | fail (s : State)
  deriving DecidableEq, Repr

/-- The sequencer's requester for a unit: 0 to 7 for a collective it holds, 8 to 23 for the acceptance from a queue. -/
def collSource (unit : Nat) : Nat := engineSource 108 unit

/-- Waits for an event, which is posted once. -/
def State.collWait (s : State) (ev : Instr) : CollXlat := .wait (if s.agenda.any (·.instr == ev) then s.hold else (s.post ev).hold)

/-- One address: light faults stall, an unmapped page asks the host, and its failure answer ends the member. -/
def State.collXlat (s : State) (source root : Nat) (va : Word) (tag : Tag) (k : Kind) : CollXlat :=
  let req := faultOf source root va tag k
  if s.pages.failed.contains source then .fail (s.setPages { s.pages with failed := s.pages.failed.filter (· != source) })
  else if s.pages.awaits source then .wait s.hold
  else if !canonical va then .fail s
  else match s.serveWalk none root va with
    | (s, .leaf e) =>
      (match s.resolve { e with pte := e.pte ||| (if k.writes then 0x60 else 0x20) } req k with
       | .pa a _ =>
         if s.siteHolds a then .wait s.hold
         else if (s.mem.region a).cached || (s.mem.region a == .zero && !k.writes) then
           .ok [(a, 0)] (s.markPte [] e.pteAddr k.writes)
         else .fail s
       | .light ev => s.collWait ev
       | .trap _ => .fail s
       | .stall => .wait s.hold)
    | (s, .compressed pte) => s.collWait (.compressedFault req pte)
    | (s, .invalid) => s.collWait (.pageRequest req (if k.writes then 1 else 0))
    | (s, .bad _) => .fail s
    | (s, .declined) => .fail s

/-- The runs of an access, each within a line. -/
def State.collMap (s : State) (source root : Nat) (tag : Tag) (k : Kind) : List (Word × Nat) → CollXlat
  | [] => .ok [] s
  | (va, n) :: rest =>
    match s.collXlat source root va tag k with
    | .ok segs s =>
      (match s.collMap source root tag k rest with
       | .ok more s => .ok (segs.map (fun x => (x.1, n)) ++ more) s
       | r => r)
    | r => r

/-- Bytes of translated runs, at SYSTEM scope. -/
def State.collBytes (s : State) : List (Nat × Nat) → State × AgentData
  | [] => (s, .bytes [])
  | (pa, n) :: rest =>
    match s.agentRun pa n with
    | (s, .bytes bs) =>
      (match s.collBytes rest with
       | (s, .bytes more) => (s, .bytes (bs ++ more))
       | r => r)
    | r => r

/-- What a read of virtual memory by the sequencer gives. -/
inductive CollRead where
  | bytes (bs : List Byte) (s : State)
  | wait (s : State)
  | fail (s : State)
  | bad (line : Nat) (place : ErrorPlace) (injected : Bool) (s : State)
  deriving DecidableEq, Repr

/-- A read of runs of virtual memory. -/
def State.collRead (s : State) (source root : Nat) (tag : Tag) (runs : List (Word × Nat)) : CollRead :=
  match s.collMap source root tag .read (runs.flatMap fun r => cuts r.1 (r.2 / 64 + 2) r.2) with
  | .wait s => .wait s
  | .fail s => .fail s
  | .ok segs s =>
    match s.collBytes segs with
    | (s, .bytes bs) => .bytes bs (s.settleOwed source .seq)
    | (s, .bad line p inj) => .bad line p inj s

/-! ### Messages -/

/-- The payload bytes of a message: a run's are those behind its destination offset. -/
def OutMsg.payload (m : OutMsg) : Nat := if m.kind = 2 then m.body.length - 8 else m.body.length

/-- A message leaves by a path to its device; `none` where no path is left. -/
def State.dispatch (s : State) (m : OutMsg) : Option State :=
  match s.leaveBy m.dest m.payload m.hops m.gts with
  | ([], _) => none
  | (ps, s) => some (s.sendBy { m with ports := ps })

/-- A message to a member goes at once; a scheduled run by the ports of its slot, from the start of that slot on. -/
def State.sendMember (s : State) (c : Collective) (rank kind step k : Nat) (slot : Nat × List Nat) (body : List Byte) :
    Option State :=
  s.dispatch
    { gts := slot.1, ports := [], dest := c.members.getD rank 0, kind := kind, coll := CollHeader.collId c.record, step := step,
      k := k, hops := slot.2, body := body }

def Collective.rank (c : Collective) : Nat := CollHeader.rank c.record
def Collective.id (c : Collective) : BitVec 16 := CollHeader.collId c.record

/-- The other members. -/
def Collective.others (c : Collective) : List Nat := (List.range c.members.length).filter (· != c.rank)

/-- A message to every other member that still has a path. -/
def State.sendAll (s : State) (c : Collective) (kind : Nat) (body : List Byte) : State :=
  c.others.foldl (fun s m => match s.sendMember c m kind c.step 0 (s.clock.gts, []) body with
    | some s => s
    | none => s) s

/-! ### The collectives the sequencer holds -/

def State.collAt (s : State) (id : BitVec 16) : Option Collective := s.fabric.colls.find? fun c => c.id == id

def State.setColl (s : State) (c : Collective) : State :=
  s.setFabric { s.fabric with colls := s.fabric.colls.map fun x => if x.command = c.command then c else x }

/-- What the sequencer has planned or holds for a collective. -/
def Collective.owns (c : Collective) (h : HeldChoice) : Bool :=
  match h with
  | .run id _ => id == c.id
  | _ => false

/-- A member's command completes (R342), and what its sequencer asked for is forgotten. -/
def State.endColl (s : State) (c : Collective) (status detail : Nat) : State :=
  let s := s.setFabric { s.fabric with
    colls := s.fabric.colls.filter (·.command != c.command)
    ended := if s.fabric.ended.contains c.id then s.fabric.ended else c.id :: s.fabric.ended }
  let s := s.setOrder { s.order with waiting := s.order.waiting.filter fun h => !c.owns h }
  let s := { s with agenda := s.agenda.filter fun e => !(e.instr == Instr.transfer && e.focus.coll == c.id) }
  let s := s.setFabric { s.fabric with outbox := s.fabric.outbox.filter fun m => !(m.coll == c.id && m.kind == 2) }
  let s := (s.forgetRequests (· == collSource c.unit)).settleOwed (collSource c.unit) .seq
  s.finishCommand c.command status detail

/-- A member ends by an error of its own and tells the others (R336, R341, R371). -/
def State.abortColl (s : State) (c : Collective) (status : Nat) : State := (s.sendAll c 6 []).endColl c status 0

/-- No path to a member is left: LOST goes by every path there is (R341). -/
def State.loseColl (s : State) (c : Collective) : State := (s.sendAll c 5 []).endColl c stLinkLost 0

/-- The focus that names a collective and nothing else. -/
def collFocus (id : BitVec 16) : Focus := { Focus.zero with coll := id }

/-- The next transfer is due. -/
def State.planTransfer (s : State) (c : Collective) (t : Nat) : State := s.postFor (collFocus c.id) t .transfer

def Collective.block (c : Collective) (step : Nat) : CollStep := c.steps.getD step 0

/-- A step has completed on this member (R338). -/
def Collective.stepDone (c : Collective) : Bool :=
  let total := CollStep.total (c.block c.step)
  decide (total ≤ c.next) && (List.range total).all (fun k => c.acked.contains (c.step, k)) &&
    (List.range c.members.length).all fun m =>
      match c.ends.find? fun e => e.1 == c.step && e.2.1 == m with
      | some e => decide (e.2.2 ≤ (c.landed.filter fun l => l.1 == c.step && l.2.1 == m).length)
      | none => false

/-- Goes on to the next step, or completes, where the step has completed. -/
def State.advanceColl (s : State) (c : Collective) : State :=
  if !c.stepDone then s.setColl c
  else if c.step + 1 < c.steps.length then
    let c := { c with step := c.step + 1, next := 0, sent := [] }
    (s.setColl c).planTransfer c s.now
  else (s.setColl c).endColl c stOk 0

/-! ### Acceptance (R336, R337) -/

/-- Every signature has arrived: they agree, or every member completes with MISMATCH. -/
def State.judgeColl (s : State) (c : Collective) : State :=
  if c.sigs.length + 1 < c.members.length then s.setColl c
  else if c.bad || c.sigs.any fun x => x.2.2 || x.2.1 != c.own then (s.setColl c).endColl c stMismatch 0
  else (s.setColl c).planTransfer c s.now

/-- The signature message: its value, and a byte that marks it BAD. -/
def Collective.sigBody (c : Collective) : List Byte := leBytes 8 c.own.toNat ++ leBytes 1 (natOfBool c.bad)

/-- The signature goes to every other member. -/
def State.sendSigs (s : State) (c : Collective) : List Nat → Option State
  | [] => some s
  | m :: rest =>
    match s.sendMember c m 1 0 0 (s.clock.gts, []) c.sigBody with
    | some s => s.sendSigs c rest
    | none => none

/-- A unit number that no active collective holds. -/
def State.freeUnit (s : State) : Nat :=
  ((List.range 8).find? fun u => !s.fabric.colls.any fun c => c.unit == u).getD 0

/-- The sequencer takes a record that has passed its checks. -/
def State.startColl (s : State) (i : Fin 16) (cmd : Command) (h : CollHeader) (bs : List CollStep) (ms : List Nat) : State :=
  let r := s.beginCommand i cmd .collective false
  let own := collSignature h bs ms
  let c : Collective :=
    { command := r.1, queue := i.val, root := r.2.queueRoot i.val, unit := r.2.freeUnit, record := h, steps := bs, members := ms,
      own := own, bad := CollHeader.sig h != own, sigs := [], step := 0, next := 0, sent := [], acked := [], landed := [], ends := [],
      replay := CollHeader.log h && r.2.order.replay, runs := [], left := [], landing := [], arrived := [] }
  let s := r.2.setFabric { r.2.fabric with colls := r.2.fabric.colls ++ [c] }
  match s.sendSigs c c.others with
  | some s => s.judgeColl c
  | none => s.loseColl c

/-- ABORT to the members of a record with which the command ends at acceptance (R341). -/
def State.abortMembers (s : State) (h : CollHeader) (ms : List Nat) : State :=
  ((List.range ms.length).filter (· != CollHeader.rank h)).foldl (fun s m =>
    match s.dispatch
      { gts := s.clock.gts, ports := [], dest := ms.getD m 0, kind := 6, coll := CollHeader.collId h, step := 0, k := 0,
        hops := [], body := [] } with
    | some s => s
    | none => s) s

/-- A read at acceptance: the record in the queue's address space under tag 0. -/
def State.acceptRead (s : State) (i : Fin 16) (cmd : Command) (va : Word) (n : Nat) (told : State → State)
    (f : State → List Byte → State) : State :=
  match s.collRead (collSource (8 + i.val)) (s.queueRoot i.val) 0 [(va, n)] with
  | .bytes bs s => f s bs
  | .wait s => s.hold
  | .fail s => (told s).finishNow i cmd stFault 0
  | .bad line p inj s => (told (s.commandError i line p inj)).finishNow i cmd stUe 0

/-- Numbers of two bytes. -/
def halfWords (bs : List Byte) : List Nat := (chunks 2 (bs.length / 2) bs).map leNat

/-- The step blocks of a record. -/
def stepBlocks (bs : List Byte) : List CollStep := (chunks 128 (bs.length / 128) bs).map fun b => BitVec.ofNat 1024 (leNat b)

/-- COLL (R45, R336, R337, R397): accepted where fewer than eight collectives are active. -/
def execColl (i : Fin 16) (cmd : Command) (s : State) : Answer :=
  .next (
    if !cmdOk cmd then s.finishNow i cmd stFault 2
    else if 8 ≤ s.fabric.colls.length then s.hold
    else if s.mgmt.stage ≠ .stage2 then s.finishNow i cmd stLinkLost 0
    else s.acceptRead i cmd (cmdAddr cmd) 128 id fun s hb =>
      let h : CollHeader := BitVec.ofNat 1024 (leNat hb)
      if !collHeaderOk h then s.finishNow i cmd stFault 2
      else s.acceptRead i cmd (CollHeader.memtab h) (2 * CollHeader.nmem h) id fun s mb =>
        let ms := halfWords mb
        s.acceptRead i cmd (cmdAddr cmd + 128) (128 * CollHeader.nsteps h) (·.abortMembers h ms) fun s sb =>
          let bs := stepBlocks sb
          if !collStepsOk h bs || !collMembersOk h s.devId ms then s.finishNow i cmd stFault 2
          else if !s.tags.isLive (CollHeader.tag h).toNat then (s.abortMembers h ms).finishNow i cmd stFault 3
          else s.startColl i cmd h bs ms)

/-- A message whose collective is not active here: one that comes before the member's own COLL waits for it. Where a collective of that
COLLID has ended on this device the message may as well be a late or repeated one of that collective, which is discarded (R341); a
message does not say which, so the choice is free (DESIGN CHOICE, log entry 27). -/
def State.earlyMsg (s : State) (id : BitVec 16) : State :=
  if s.fabric.ended.contains id then
    let (i, s) := s.pickBelow 2
    if i = 0 then s else s.hold
  else s.hold

/-- SIGNATURE (R337): a signature that comes before the member's own COLL waits for it; a second one of a rank is discarded. -/
def execSignatureMsg (coll : BitVec 16) (rank : Nat) (sig : Word) (bad : Bool) (s : State) : Answer :=
  let s := s.rouse .flit
  .next (match s.collAt coll with
    | none => s.earlyMsg coll
    | some c =>
      if c.sigs.any (·.1 == rank) || !c.others.contains rank then s
      else s.judgeColl { c with sigs := c.sigs ++ [(rank, sig, bad)] })

/-! ### Elements (R335, R338, R339) -/

/-- An address of a region. -/
def addressAt (base : Word) (off : Int) : Word := base + wordOfInt off

/-- The virtual memory of `run` elements of a region: codes, and for Q4 their scale bytes. -/
def regionRuns (h : CollHeader) (region : Nat) (e : Int) (run : Nat) : List (Word × Nat) :=
  match CollHeader.fmtOf h region with
  | 5 => [(addressAt (CollHeader.base h region) (e / 2), run / 2), (addressAt (CollHeader.scaleBase h region) (e / 32), run / 32)]
  | f => [(addressAt (CollHeader.base h region) (runBytes f 1 * e), runBytes f run)]

/-- The values of a run in a format: for Q4 each code under the scale byte of its block. -/
def runValues (fmt run : Nat) (bs : List Byte) : List Num :=
  if fmt = 5 then
    let scales := bs.drop (run / 2)
    ((chunks 32 (run / 32) (q4CodeAt (bs.take (run / 2)))).zip scales).flatMap fun b => b.1.map fun c => q4Value b.2.toNat c
  else (chunks (runBytes fmt 1) run bs).map fun b => laneNum fmt (leNat b)

/-- A block of 32 values in Q4 under a type, rounded RNE (R159). -/
def q4Pack (type : Nat) (xs : List Num) : Nat × List Nat :=
  if xs.any Num.isNaN then (type * 64 + 63, xs.map fun _ => 0)
  else
    let e := q4Exp type (maxMagnitude xs) 63 0
    (type * 64 + e, xs.map (q4Code type e rcRNE 0))

/-- A run in a format, each value rounded once (R339). -/
def packRun (h : CollHeader) (fmt : Nat) (xs : List Num) : List Byte :=
  if fmt = 5 then
    let blocks := (chunks 32 (xs.length / 32) xs).map (q4Pack (CollHeader.qtype h))
    blocks.flatMap (fun b => packCodes b.2) ++ blocks.map fun b => BitVec.ofNat 8 b.1
  else xs.flatMap fun x => leBytes (runBytes fmt 1) ((floatOf fmt).put rcRNE 0 16 (CollHeader.sat h && fmt != 0) x)

/-- Elements of a region in the wire format: as they are, or widened to FP32. -/
def toWire (h : CollHeader) (b : CollStep) (bs : List Byte) : List Byte :=
  let f := CollHeader.fmtOf h (CollStep.sreg b)
  if wireFmt h b = f then bs else (runValues f (CollStep.run b) bs).flatMap fun x => leBytes 4 (fp32.put rcRNE 0 16 false x)

/-- Op on FP32 values (R339, R149, R150). -/
def ropValue (rop : Nat) (a b : Num) : Num :=
  match rop with
  | 2 => a.max b
  | 3 => a.min b
  | _ => fp32.decode (fp32.put rcRNE 0 16 false (a.add false b))

/-- Op on INT32 values. -/
def ropInt (rop : Nat) (a b : BitVec 32) : BitVec 32 :=
  match rop with
  | 2 => if a.slt b then b else a
  | 3 => if b.slt a then b else a
  | _ => a + b

/-- What `n` elements of a run leave in their destination (R339): `old` is what the destination holds. -/
def landPart (h : CollHeader) (b : CollStep) (n : Nat) (old bs : List Byte) : List Byte :=
  let wf := wireFmt h b
  let df := CollHeader.fmtOf h (CollStep.dreg b)
  let acc := CollStep.skind b == 1
  if CollHeader.fmt h = 6 then
    (if acc then
      (List.zipWith (fun x y => leBytes 4 (ropInt (CollHeader.rop h) (BitVec.ofNat 32 (leNat x)) (BitVec.ofNat 32 (leNat y))).toNat)
        (chunks 4 n old) (chunks 4 n bs)).flatten
     else bs)
  else if acc then packRun h df (List.zipWith (ropValue (CollHeader.rop h)) (runValues df n old) (runValues wf n bs))
  else if df = 0 ∧ wf = 0 then bs
  else packRun h df (runValues wf n bs)

/-- The bytes a run leaves in its destination. -/
def landBytes (h : CollHeader) (b : CollStep) (old bs : List Byte) : List Byte := landPart h b (CollStep.run b) old bs

/-- The wire bytes of `count` elements of a run, from element `first` on: for Q4 whole blocks, codes and scale bytes. -/
def wirePart (h : CollHeader) (b : CollStep) (bs : List Byte) (first count : Nat) : List Byte :=
  let f := wireFmt h b
  if f = 5 then (bs.drop (first / 2)).take (count / 2) ++ (bs.drop (CollStep.run b / 2 + first / 32)).take (count / 32)
  else (bs.drop (runBytes f first)).take (runBytes f count)

/-- `r` elements of a size from byte `a` on, grouped by the 16-byte granule: first element and count of each group. -/
def granuleSpans (size a : Nat) : Nat → Nat → Nat → List (Nat × Nat)
  | 0, _, _ => []
  | fuel + 1, first, r =>
    if r = 0 then []
    else
      let k := min r (max 1 ((16 - (a + size * first) % 16) / size))
      (first, k) :: granuleSpans size a fuel (first + k) (r - k)

/-- The groups of elements in which an ACC run is combined with its destination, each in one access: the elements of a granule (R343), or a
whole block of Q4 (R339). -/
def landSpans (h : CollHeader) (b : CollStep) (off : Int) : List (Nat × Nat) :=
  let n := CollStep.run b
  match CollHeader.fmtOf h (CollStep.dreg b) with
  | 5 => (List.range (n / 32)).map fun i => (32 * i, 32)
  | f => granuleSpans (runBytes f 1) ((regionRuns h (CollStep.dreg b) off n).headD (0, 0)).1.toNat n 0 n

/-! ### Transfers (R338, R340) -/

/-- The indices of transfer `k`, level 0 first. -/
def CollStep.digits (b : CollStep) : List Nat → Nat → List (Nat × Nat)
  | [], _ => []
  | n :: rest, x => (n, x % CollStep.count b n) :: CollStep.digits b rest (x / CollStep.count b n)

def CollStep.indices (b : CollStep) (k : Nat) : List (Nat × Nat) := CollStep.digits b (List.range (CollStep.nlev b)) k

/-- A sum over the levels in use. -/
def CollStep.affine (b : CollStep) (k : Nat) (f : Nat → Int) : Int :=
  (CollStep.indices b k).foldl (fun (x : Int) (e : Nat × Nat) => x + f e.1 * (e.2 : Int)) 0

/-- The peer of transfer `k`. -/
def peerOf (h : CollHeader) (b : CollStep) (k : Nat) : Nat :=
  (((CollStep.pbase b : Int) + CollStep.rcoef b * (CollHeader.rank h : Int) + CollStep.affine b k (CollStep.pcoef b)) %
    (CollHeader.nmem h : Int)).toNat

def soffOf (b : CollStep) (k : Nat) : Int := CollStep.soff b + CollStep.affine b k (CollStep.sstr b)
def doffOf (b : CollStep) (k : Nat) : Int := CollStep.doff b + CollStep.affine b k (CollStep.dstr b)

/-- Where a run stands in the slot table: transfers of the whole record in order. -/
def Collective.slotIndex (c : Collective) : Nat :=
  (c.steps.take c.step).foldl (fun n b => n + CollStep.total b) 0 + c.next

/-- A slot-table entry (R340): its first slot's offset from GTS0, and its ports. -/
def slotStart (e : Word) : Nat := 1000 * bitsAt e 16 32 + 125 * bitsAt e 10 6 / 8
def slotHops (e : Word) : List Nat := [bitsAt e 5 5, bitsAt e 0 5]

/-- Slots that a run of so many wire bytes takes. -/
def slotsFor (bytes : Nat) : Nat := (bytes + 3119) / 3120

/-- A port is carrying a run: a run holds its port for its slots, counted from the start of the first (R340). -/
def State.portBusy (s : State) (p : Nat) : Bool :=
  s.fabric.outbox.any fun m => m.ports.contains p && m.kind == 2 && decide (m.gts ≤ s.clock.gts) &&
    decide (s.clock.gts < m.gts + 125 * slotsFor m.payload / 8)

/-- The nanoseconds that GTS has gone on with the present cycle; 1 where a cycle is shorter than that. -/
def State.cycleNs (s : State) : Nat := max 1 ((1000000000 - s.clock.frac + s.clock.hertz - 1) / max 1 s.clock.hertz)

/-- The first slot of an entry, in its frame or a later one, has begun in the present cycle, in which GTS went on by `cyc`: a transfer starts with
its slot (R340). -/
def slotNow (gts gts0 cyc : Nat) (e : Word) : Bool :=
  decide (gts0 + slotStart e ≤ gts) && decide ((gts - gts0 - slotStart e) % 1000 < cyc)

/-- The GTS at which the slot that has just begun began. -/
def slotBegan (gts gts0 : Nat) (e : Word) : Nat := gts - (gts - gts0 - slotStart e) % 1000

/-- The nanoseconds to the next start of an entry's slot. -/
def slotWait (gts gts0 : Nat) (e : Word) : Nat :=
  if gts < gts0 + slotStart e then gts0 + slotStart e - gts else 1000 - (gts - gts0 - slotStart e) % 1000

/-- A run or what announces it, counted for its peer. -/
def countFor (l : List (Nat × Nat)) (m : Nat) : Nat := lookupD 0 l m

/-- END goes to every member: to itself at once. -/
def State.sendEnds (s : State) (c : Collective) : List Nat → Option State
  | [] => some s
  | m :: rest =>
    match s.sendMember c m 4 c.step 0 (s.clock.gts, []) (leBytes 4 (countFor c.sent m)) with
    | some s => s.sendEnds c rest
    | none => none

/-- The peer of transfer `k` of the step at hand. -/
def Collective.peer (c : Collective) (k : Nat) : Nat := peerOf c.record (c.block c.step) k

/-- The last run to a peer has left the sender, so that another may begin (R338). -/
def State.peerFree (s : State) (c : Collective) (m : Nat) : Bool :=
  !(c.runs.any fun r => c.peer r.k == m) && decide (lookupD 0 c.left m ≤ 7 * s.clock.gts)

/-- The sequencer goes on after a run has been sent: with the others, or, once all of the step have been sent, with END to every member. -/
def State.afterTransfer (s : State) (c : Collective) : State :=
  if c.next < CollStep.total (c.block c.step) || !c.runs.isEmpty then (s.setColl c).planTransfer c (s.now + 1)
  else
    let c := { c with ends := c.ends ++ [(c.step, c.rank, countFor c.sent c.rank)] }
    match s.sendEnds c c.others with
    | some s => s.advanceColl c
    | none => (s.setColl c).loseColl c

/-- The contents of a run message: its destination offset and its payload. -/
def runBody (off : Int) (bs : List Byte) : List Byte := leBytes 8 (wordOfInt off).toNat ++ bs

/-- When the message sent last will have left by all its ports, in sevenths of a nanosecond of GTS. -/
def Fabric.lastLeaves (f : Fabric) : Nat :=
  match f.outbox.getLast? with
  | some m => (m.ports.map f.drainOf).foldl max 0
  | none => 0

/-- Run `r` has been read: it goes to its peer, or is served locally. -/
def State.dispatchRun (s : State) (c : Collective) (r : OutRun) (bs : List Byte) : State :=
  let b := c.block c.step
  let m := c.peer r.k
  let off := doffOf b r.k
  let d := { c with runs := c.runs.filter (·.k != r.k), sent := assign c.sent m (countFor c.sent m + 1) }
  if m = c.rank then
    (s.post (.runMsg c.id { step := c.step, rank := c.rank, index := r.k, offset := off, bytes := bs })).afterTransfer d
  else match s.sendMember c m 2 c.step r.k r.slot (runBody off bs) with
    | some s => s.afterTransfer { d with left := assign d.left m s.fabric.lastLeaves }
    | none => s.loseColl c

/-- Why a read of a run stops. -/
inductive CollStop where
  | wait
  | fail
  | bad (line : Nat) (place : ErrorPlace) (injected : Bool)
  deriving DecidableEq, Repr

/-- The granules of a run: each aligned 16-byte piece is read, and written, on its own (R343). -/
def granulesOf (runs : List (Word × Nat)) : List (Word × Nat) := runs.flatMap fun r => pieceCuts r.1 (r.2 / 16 + 2) r.2

/-- Reads some of the granules not yet read, in an order that is free: at least one, and on while it is free to go on. -/
def State.readSome (source root : Nat) (tag : Tag) :
    Nat → State → List (Nat × Word × Nat) → List (Nat × List Byte) → State × List (Nat × List Byte) × Option CollStop
  | 0, s, _, got => (s, got, none)
  | n + 1, s, unread, got =>
    let (i, s) := s.pickBelow unread.length
    match unread[i]? with
    | none => (s, got, none)
    | some (k, va, len) =>
      match s.collRead source root tag [(va, len)] with
      | .wait s => (s, got, some .wait)
      | .fail s => (s, got, some .fail)
      | .bad line p inj s => (s, got, some (.bad line p inj))
      | .bytes bs s =>
        let (more, s) := s.pickBelow 2
        if more = 0 then (s, (k, bs) :: got, none) else State.readSome source root tag n s (unread.eraseIdx i) ((k, bs) :: got)

/-- The granules of a run that have not been read, numbered. -/
def Collective.unread (c : Collective) (r : OutRun) : List (Nat × Word × Nat) :=
  let b := c.block c.step
  let l := granulesOf (regionRuns c.record (CollStep.sreg b) (soffOf b r.k) (CollStep.run b))
  ((List.range l.length).zip l).filter fun e => !r.got.any fun g => g.1 == e.1

/-- The bytes of granules, in their order. -/
def inOrder (n : Nat) (got : List (Nat × List Byte)) : List Byte := (List.range n).flatMap (lookupD [] got)

/-- Whether the next transfer begins now: with the GTS of its start and its slot's ports, or else so many cycles later. -/
inductive Begin where
  | now (slot : Nat × List Nat)
  | later (cycles : Nat)
  | stop (why : CollStop)
  deriving DecidableEq, Repr

/-- The next transfer may begin (R338, R340): in adaptive mode once the run before it to its peer has left; in scheduled mode at the start of its
slot, where its port is free by then too, else at that of the same slot of a later frame. -/
def State.mayBegin (s : State) (c : Collective) : State × Begin :=
  let m := c.peer c.next
  if CollHeader.adaptive c.record then
    (s, if s.peerFree c m then .now (s.clock.gts, []) else .later (max 1 (s.cyclesFor ((lookupD 0 c.left m + 6) / 7 - s.clock.gts))))
  else match s.collRead (collSource c.unit) c.root 0 [(CollHeader.slots c.record + BitVec.ofNat 64 (8 * c.slotIndex), 8)] with
    | .wait s => (s, .stop .wait)
    | .fail s => (s, .stop .fail)
    | .bad line p inj s => (s, .stop (.bad line p inj))
    | .bytes bs s =>
      let e : Word := BitVec.ofNat 64 (leNat bs)
      let gts0 := CollHeader.gts0 c.record
      let busy := m != c.rank && ((slotHops e).find? s.fabric.up).any s.portBusy
      if slotNow s.clock.gts gts0 s.cycleNs e && !busy && s.peerFree c m then (s, .now (slotBegan s.clock.gts gts0 e, slotHops e))
      else (s, .later (max 1 (s.cyclesFor (slotWait s.clock.gts gts0 e))))

/-- Begins transfers in ascending k while they may begin (R338); why it stopped. A fault that waits stalls the member (R336). -/
def State.beginRuns : Nat → State → Collective → State × Collective × Begin
  | 0, s, c => (s, c, .later 1)
  | n + 1, s, c =>
    if CollStep.total (c.block c.step) ≤ c.next || c.runs.any (·.waits) then (s, c, .later 1)
    else match s.mayBegin c with
      | (s, .now slot) =>
        State.beginRuns n s { c with next := c.next + 1, runs := c.runs ++ [{ k := c.next, got := [], slot := slot, waits := false }] }
      | (s, x) => (s, c, x)

/-- A read of the sequencer has consumed an uncorrectable error (R371). -/
def State.collError (s : State) (c : Collective) (line : Nat) (p : ErrorPlace) (inj : Bool) : State :=
  s.post (.ownerHandling { place := p, line := line, consumer := .collective c.id, injected := inj })

/-- A run is read on; it goes once every granule of it has been read. -/
def State.readRun (s : State) (c : Collective) (r : OutRun) : State :=
  match State.readSome (collSource c.unit) c.root (CollHeader.tag c.record) (c.unread r).length s (c.unread r) r.got with
  | (s, _, some .fail) => s.abortColl c stFault
  | (s, _, some (.bad line p inj)) => s.collError c line p inj
  | (s, got, stop) =>
    let r := { r with got := got, waits := stop == some .wait }
    if r.waits || !(c.unread r).isEmpty then (s.setColl { c with runs := c.runs.map fun x => if x.k = r.k then r else x }).hold
    else s.dispatchRun c r (toWire c.record (c.block c.step) (inOrder got.length got))

/-- The run that is read on: one whose fault waits stalls the others, and else the choice is free. -/
def State.nextRead (s : State) (c : Collective) : Option OutRun × State :=
  match c.runs.find? (·.waits) with
  | some r => (some r, s)
  | none => (c.runs[(s.pickBelow c.runs.length).1]?, (s.pickBelow c.runs.length).2)

/-- TRANSFER (R338, R340): transfers begin in ascending k, and the runs that have begun are read and sent, those to different peers side by
side. -/
def execTransfer (s : State) : Answer :=
  .next (match s.collAt s.focus.coll with
    | none => s
    | some c =>
      match State.beginRuns (CollStep.total (c.block c.step) - c.next) s c with
      | (s, _, .stop .fail) => s.abortColl c stFault
      | (s, _, .stop (.bad line p inj)) => s.collError c line p inj
      | (s, c, x) =>
        match s.nextRead c, x with
        | (some r, s), _ => s.readRun c r
        | (none, s), .stop _ => (s.setColl c).hold
        | (none, s), .later t =>
          if CollStep.total (c.block c.step) ≤ c.next then s.setColl c else (s.setColl c).planTransfer c (s.now + t)
        | (none, s), .now _ => s.setColl c)

/-! ### Landings (R338, R339, R387, R388) -/

/-- The object of the landings of a step from the order log: COLLID and step. -/
def mergeKey (coll : BitVec 16) (step : Nat) : Nat := coll.toNat + step % 16 * 2 ^ 16

/-- OBJ of a landing. -/
def mergeObj (coll : BitVec 16) (m : RunMsg) : Nat := mergeKey coll m.step + m.rank % 1024 * 2 ^ 20

/-- The landing's turn where the record is logged: replay decides where the command started under it (R389), else an entry is written,
but none while REPLAY is set (R388). -/
def State.landingTurn (s : State) (c : Collective) (m : RunMsg) : Option State :=
  if !CollHeader.log c.record || CollStep.skind (c.block m.step) != 1 then some s
  else if c.replay then
    s.turn 3 (mergeKey c.id m.step) (fun o => o % 2 ^ 20 == mergeKey c.id m.step)
      (fun o q => o == mergeObj c.id m && q == m.index % 2 ^ 24)
      (fun o q => c.landed.any (fun l => l.1 == m.step && l.2.1 % 1024 == o / 2 ^ 20 && l.2.2 % 2 ^ 24 == q) ||
        c.ends.any fun e => e.1 == m.step && e.2.1 % 1024 == o / 2 ^ 20 && decide (e.2.2 ≤ q))
  else if s.order.replay then some s
  else some (s.logChoice 3 108 (mergeObj c.id m) (m.index % 2 ^ 24))

/-- A landed run is acknowledged to its sender. -/
def State.acknowledge (s : State) (c : Collective) (m : RunMsg) : State :=
  if m.rank = c.rank then s.advanceColl { c with acked := (m.step, m.index) :: c.acked }
  else match s.sendMember c m.rank 3 m.step m.index (s.clock.gts, []) [] with
    | some s => s.advanceColl c
    | none => (s.setColl c).loseColl c

/-- The pieces of a landing: translated granules with their bytes. -/
def landPieces : List (Nat × Nat) → List Byte → List (Nat × List Byte)
  | [], _ => []
  | (pa, n) :: rest, bs => (pa, bs.take n) :: landPieces rest (bs.drop n)

/-- Writes some of the pieces of a landing, in an order that is free: at least one, and on while it is free to go on; a piece whose
pseudo-channel takes no access now waits, and a line that holds an error and is written whole is written at once, which removes the
error (R368). What is left. -/
def State.landSome : Nat → State → List (Nat × List Byte) → State × List (Nat × List Byte)
  | 0, s, left => (s, left)
  | n + 1, s, left =>
    let (i, s) := s.pickBelow left.length
    match left[i]? with
    | none => (s, left)
    | some (pa, bs) =>
      if s.siteHolds pa then (s, left)
      else
        let whole := if s.mem.marks.any fun k => k.key == pa / 64 then wholeLine (pa / 64) left else none
        let (s, left) := match whole with
          | some line => (s.agentStore (pa / 64 * 64) line, left.filter fun (x : Nat × List Byte) => x.1 / 64 != pa / 64)
          | none => (s.agentStore pa bs, left.eraseIdx i)
        let (more, s) := s.pickBelow 2
        if more = 0 then (s, left) else State.landSome n s left

/-- A landing of the run `m` is under way. -/
def Landing.isOf (m : RunMsg) (l : Landing) : Bool := l.msg.step == m.step && l.msg.rank == m.rank && l.msg.index == m.index

/-- Combines some of the parts of an ACC run with their destinations, in an order that is free, each in one access (R313): at least one, and
on while it is free to go on. What is left, and the error that a read of a destination has met. -/
def State.landParts (h : CollHeader) (b : CollStep) :
    Nat → State → List LandUnit → State × List LandUnit × Option (Nat × ErrorPlace × Bool)
  | 0, s, left => (s, left, none)
  | n + 1, s, left =>
    let (i, s) := s.pickBelow left.length
    match left[i]? with
    | none => (s, left, none)
    | some u =>
      if u.segs.any (fun x => s.siteHolds x.1) then (s, left, none)
      else match s.collBytes u.segs with
        | (s, .bad line p inj) => (s, left, some (line, p, inj))
        | (s, .bytes old) =>
          let s := (landPieces u.segs (landPart h b u.count old u.bytes)).foldl (fun s x => s.agentStore x.1 x.2) s
          let left := left.eraseIdx i
          let (more, s) := s.pickBelow 2
          if more = 0 then (s, left, none) else State.landParts h b n s left

/-- A run has landed. -/
def Collective.hasLanded (c : Collective) (m : RunMsg) : Collective :=
  { c with
    landed := (m.step, m.rank, m.index) :: c.landed
    landing := c.landing.filter (!·.isOf m)
    arrived := c.arrived.filter (· != (m.step, m.rank, m.index)) }

/-- A landing goes on; once its last piece is written the run has landed. -/
def State.landMore (s : State) (c : Collective) (l : Landing) : State :=
  let r := State.landSome l.left.length s l.left
  match State.landParts c.record (c.block l.msg.step) l.parts.length r.1 l.parts with
  | (s, _, some (line, p, inj)) => s.collError c line p inj
  | (s, parts, none) =>
    if r.2.isEmpty && parts.isEmpty then (s.settleOwed (collSource c.unit) .seq).acknowledge (c.hasLanded l.msg) l.msg
    else
      let l' := { l with left := r.2, parts := parts }
      (s.setColl { c with landing := c.landing.map fun x => if x.isOf l.msg then l' else x }).hold

/-- The run begins to land: the bytes of a MOVE are settled here and its granules written one by one (R343); each part of an ACC run is combined
with what its destination holds at that moment (R313). -/
def State.landRun (s : State) (c : Collective) (m : RunMsg) (left : List (Nat × List Byte)) (parts : List LandUnit) : State :=
  match s.landingTurn c m with
  | none => (s.setColl c).holdChoice (.run c.id m)
  | some s =>
    let l : Landing := { msg := m, left := left, parts := parts }
    s.landMore { c with landing := c.landing ++ [l] } l

/-- A run may begin to land. MOVE runs land side by side. An ACC run waits for those of its step that have arrived before it, for it reads what
they leave (R339), but where replay gives the order (R388); it waits for everything that is landing. -/
def Collective.mayLand (c : Collective) (m : RunMsg) : Bool :=
  let acc (k : Nat) : Bool := CollStep.skind (c.block k) == 1
  (c.landing.all fun l => !acc l.msg.step && !acc m.step) &&
    (!acc m.step || c.replay || (c.arrived.takeWhile (· != (m.step, m.rank, m.index))).all fun x => x.1 != m.step)

/-- The run has arrived, and takes its place among those that have. -/
def Collective.noteArrival (c : Collective) (m : RunMsg) : Collective :=
  if c.arrived.contains (m.step, m.rank, m.index) then c else { c with arrived := c.arrived ++ [(m.step, m.rank, m.index)] }

/-- The parts of an ACC run: their places, translated one after the other, and their wire bytes. -/
def landUnits (h : CollHeader) (b : CollStep) (bs : List Byte) : List (Nat × Nat × Nat) → List (Nat × Nat) → List LandUnit
  | [], _ => []
  | (first, count, n) :: rest, segs =>
    { segs := segs.take n, count := count, bytes := wirePart h b bs first count } :: landUnits h b bs rest (segs.drop n)

/-- The places of the parts of an ACC run: first element, count and runs of virtual memory. -/
def accPlaces (h : CollHeader) (b : CollStep) (off : Int) : List (Nat × Nat × List (Word × Nat)) :=
  (landSpans h b off).map fun x => (x.1, x.2, granulesOf (regionRuns h (CollStep.dreg b) (off + x.1) x.2))

/-- A run that may land is translated and begins to. -/
def State.mapRun (s : State) (c : Collective) (m : RunMsg) : State :=
  let b := c.block m.step
  let acc := CollStep.skind b == 1
  let places := if acc then accPlaces c.record b m.offset else []
  let runs := if acc then places.flatMap (·.2.2) else granulesOf (regionRuns c.record (CollStep.dreg b) m.offset (CollStep.run b))
  match s.collMap (collSource c.unit) c.root (CollHeader.tag c.record) .write runs with
  | .wait s => (s.setColl c).hold
  | .fail s => s.abortColl c stFault
  | .ok segs s =>
    if acc then s.landRun c m [] (landUnits c.record b m.bytes (places.map fun x => (x.1, x.2.1, x.2.2.length)) segs)
    else s.landRun c m (landPieces segs (landBytes c.record b [] m.bytes)) []

/-- RUN (R338, R339): the whole run has arrived. One that has landed before is discarded; before the handshake is over it
waits. -/
def execRunMsg (coll : BitVec 16) (msg : RunMsg) (s : State) : Answer :=
  let s := s.rouse .flit
  .next (match s.collAt coll with
    | none => s
    | some c =>
      if c.steps.length ≤ msg.step ∨ c.landed.contains (msg.step, msg.rank, msg.index) = true then s
      else if c.sigs.length + 1 < c.members.length then (s.setColl (c.noteArrival msg)).hold
      else match c.landing.find? (·.isOf msg) with
      | some l => s.landMore c l
      | none =>
        let c := c.noteArrival msg
        if c.mayLand msg then s.mapRun c msg else (s.setColl c).hold)

/-- ACK (R338). -/
def execAckMsg (coll : BitVec 16) (step k : Nat) (s : State) : Answer :=
  let s := s.rouse .flit
  .next (match s.collAt coll with
    | none => s
    | some c => if c.acked.contains (step, k) then s else s.advanceColl { c with acked := (step, k) :: c.acked })

/-- END (R338): no run of that sender is still to come, so a run that replay holds for one is tried again (R390). -/
def execEndMsg (coll : BitVec 16) (step rank count : Nat) (s : State) : Answer :=
  let s := s.rouse .flit
  .next (match s.collAt coll with
    | none => s
    | some c =>
      if c.ends.any fun e => e.1 == step && e.2.1 == rank then s
      else s.wakeHeld.advanceColl { c with ends := c.ends ++ [(step, rank, count)] })

/-- LOST (R341). -/
def execLostMsg (s : State) : Answer :=
  let s := s.rouse .flit
  .next (match s.collAt s.focus.coll with
    | none => s.earlyMsg s.focus.coll
    | some c => s.endColl c stLinkLost 0)

/-- ABORT (R341). -/
def execAbortMsg (s : State) : Answer :=
  let s := s.rouse .flit
  .next (match s.collAt s.focus.coll with
    | none => s.earlyMsg s.focus.coll
    | some c => s.endColl c stFault 0)

/-! ### A port goes down (R332, R341) -/

/-- A message is sent again by another path, a scheduled run by its backup port in the same slot of a later frame; where no path is
left its collective, if it is still active, is lost. -/
def State.resend (s : State) (m : OutMsg) : State :=
  let s := s.setFabric { s.fabric with outbox := s.fabric.outbox.erase m }
  let gts := if m.hops.isEmpty then s.clock.gts else m.gts + 1000 * ((s.clock.gts - m.gts) / 1000 + 1)
  match s.dispatch { m with gts := gts } with
  | some s => s
  | none => match s.collAt m.coll with
    | some c => s.loseColl c
    | none => s

/-- A message that a port which goes down was carrying is sent again unless it has been delivered: a run until it is acknowledged, any
other message until its delivery has been confirmed, which the model does not see and leaves free (DESIGN
CHOICE, log entry 27). The messages of a collective that has
ended on this member count too: LOST, ABORT, the last acknowledgements and ENDs (R341). -/
def State.recarry (p : Nat) (s : State) (m : OutMsg) : State :=
  if !m.ports.contains p then s
  else if m.kind = 2 then
    (match s.collAt m.coll with
     | some c => if c.acked.contains (m.step, m.k) then s else s.resend m
     | none => s)
  else
    let (i, s) := s.pickBelow 2
    if i = 0 then s.resend m else s

/-- The member waits for END of another, before which comes its signature, or for an acknowledgement (R337, R341). -/
def Collective.awaits (c : Collective) (m : Nat) : Bool :=
  !(c.ends.any fun e => e.1 == c.step && e.2.1 == m) ||
    (List.range c.next).any fun k => peerOf c.record (c.block c.step) k == m && !c.acked.contains (c.step, k)

/-- No path to a member is left: every candidate is down, and so is every port that the slot table named for a run to it. -/
def State.cutOff (s : State) (c : Collective) (m : Nat) : Bool :=
  (s.fabric.candidates (c.members.getD m 0)).isEmpty &&
    !s.fabric.outbox.any fun x => x.coll == c.id && x.dest == c.members.getD m 0 && x.hops.any s.fabric.up

/-- A collective that waits for a member it has no path to is lost. -/
def State.checkPaths (s : State) (c : Collective) : State :=
  if (s.collAt c.id).isSome && c.others.any fun m => c.awaits m && s.cutOff c m then s.loseColl c else s

/-- PORT_DOWN (R332, R341): the port reads FAILED and a LINK event is logged; what it carried is sent again. -/
def execPortDown (s : State) : Answer :=
  let p := s.focus.port.val
  let f := { s.fabric with
    portsUp := s.fabric.portsUp &&& ~~~(1#24 <<< p), portsFailed := s.fabric.portsFailed ||| (1#24 <<< p) }
  .next (
    if !s.fabric.portsUp.getLsbD p then s
    else
      let s := (s.setFabric f).report (110 + p) 0x0A 0 0 0
      let s := s.fabric.outbox.foldl (State.recarry p) s
      s.fabric.colls.foldl State.checkPaths s)

end Sys2Proof.Machine
end

