-- ==== Sys2Proof/Machine/Ras.lean ====
section
/-! DEFINITION. Errors and their handling (R116, R368, R370, R371, R377, R394), and the accesses of agents outside the
cores (R280). -/

namespace Sys2Proof.Machine

/-! ### INJ (R116) -/

/-- Data bits 0 and 1 of a word are flipped: what was flipped before is flipped back. -/
def MemorySystem.plant (m : MemorySystem) (place core key : Nat) (kind : BitVec 2) : MemorySystem :=
  let old : BitVec 2 := match m.mark place core key with
    | some k => k.bits
    | none => 0
  let bits := old ^^^ (if kind = 0 then 1 else 3)
  let m := m.unmark place core key
  if bits = 0 then m
  else { m with marks :=
    { place := place, core := core, key := key, bits := bits, double := bits == 3, injected := true, origin := place } :: m.marks }

/-- `inj` pushes whether it planted the error and the flow goes on. -/
def State.injDone (s : State) (c : Core) (done : Bool) : State := plainWord s (c.pushResult (wordOfBool done)) 1

/-- What a stop of its translation makes of `inj`. -/
def Stop.seq (x : Stop) : State :=
  match x with
  | .block s => s.hold
  | .trap s code va =>
    s.raise { src := 0, cause := causeXlate, info := BitVec.ofNat 64 code, va := some va, pc := some s.core.pc, flow := none,
              order := s.core.queues.order, cycle := s.now }

/-- A line of memory that `inj` may name: any cached region, for target 2 device DRAM alone. -/
def State.injLine (s : State) (target : Nat) (pa : Nat) : Bool :=
  if target = 2 then s.mem.region pa == .dram else (s.mem.region pa).cached

/-- Plants an error in a copy of a line, where that copy is present. -/
def State.injCopy (s : State) (c : Core) (target key : Nat) (kind : BitVec 2) : State :=
  match target with
  | 0 => if (s.mem.cisternAt key).isSome then (s.setMem (s.mem.plant placeCistern 0 key kind)).injDone c true else s.injDone c false
  | 1 => if (s.mem.l2At key).isSome then (s.setMem (s.mem.plant placeL2 0 key kind)).injDone c true else s.injDone c false
  | _ => (s.setMem (s.mem.plant placeDram 0 key kind)).injDone c true

/-- Targets 0 to 2: the operand is a virtual address under XTAG. -/
def State.injMemory (s : State) (c : Core) (i : Instr) (target : Nat) (va : Word) (kind : BitVec 2) : State :=
  if !canonical va then (Stop.trap s 2 va).seq
  else match s.translate s.cur.val s.core.root va s.core.sys.xtag .read with
    | .trap code => (Stop.trap s code va).seq
    | .light ev => (s.faultStop ev va).seq
    | .stall => s.hold
    | .pa a _ => if s.injLine target a then s.injCopy c target (a / 64) kind else s.illegal i

/-- INJ (R116, R373). -/
def execInj (a : OpCode) (kind : BitVec 2) (target : BitVec 4) (s : State) : Answer :=
  let i := Instr.inj a kind target
  let t := target.toNat
  .next (
    if !s.mgmt.rasMode.getLsbD s.cur.val ∨ 2 ≤ kind.toNat ∨ 5 ≤ t then s.illegal i
    else withOperands s i [a] fun vs c =>
      let v := arg0 vs
      if t = 3 then
        (if v.toNat < 2 ^ 23 then
          (s.setMem (s.mem.plant placeSp s.cur.val (v.toNat / 8) kind)).injDone c true
         else s.illegal i)
      else if t = 4 then
        (if v.toNat < 1024 then
          (s.setMem (s.mem.plant placeVrf s.cur.val (v.toNat * 512) kind)).injDone c true
         else s.illegal i)
      else s.injMemory c i t v kind)

/-! ### Owner handling (R371) -/

/-- The array of a place. -/
def arrayOf (p : ErrorPlace) : Nat :=
  match p with
  | .cistern => placeCistern
  | .l2 => placeL2
  | .dram => placeDram

/-- The context of a core's item. -/
def Core.context (c : Core) : Option Tag :=
  c.item.map fun it => if c.status = .running then c.sys.ctx else it.tag

/-- The page-table root that the consuming translation started from. -/
def State.consumerRoot (s : State) (who : Consumer) : Option Nat :=
  match who with
  | .item i _ => (s.cores[i]).item.map (·.root)
  | .loader i => (s.cores[i]).item.map (·.root)
  | .walkerRead root => some root
  | .command q => some (s.queueRoot q.val)
  | .collective id => (s.collAt id).map (·.root)
  | .host => none
  | .tableWalk => none

/-- Step 1: what becomes of the consumer. -/
def State.consumerEnds (s : State) (who : Consumer) (c : Tag) : State :=
  match who with
  | .item i ctx => if ctx = c then s else s.post (.termination i 0x03 0)
  | .loader i => s.endItem i stUe 0 true true
  | .collective id => (match s.collAt id with
    | some k => s.abortColl k stUe
    | none => s)
  | .walkerRead _ => s
  | .command _ => s
  | .host => s
  | .tableWalk => s

/-- A translation covers a page of memory. -/
def XlatEntry.maps (e : XlatEntry) (page : Nat) : Bool :=
  decide (ptePage e.pte / 65536 ≤ page ∧ page < ptePage e.pte / 65536 + 2 ^ (levelShift e.level - 16))

/-- The core, or its die, holds a translation to a page. -/
def State.reaches (s : State) (i : Fin 96) (page : Nat) : Bool :=
  (s.cores[i]).caches.tlb.any (·.maps page) || s.mem.walkCache.any fun d => d.1 == dieOf i.val && d.2.maps page

/-- Step 2: whether a core's item is killed. -/
def State.killed (s : State) (c : Tag) (root : Option Nat) (page : Nat) (i : Fin 96) : Bool :=
  match (s.cores[i]).item, (s.cores[i]).context with
  | some it, some ctx => if c ≠ 0 then ctx == c else root == some it.root || s.reaches i page
  | _, _ => false

/-- Step 2 of R371. -/
def State.kill (s : State) (c : Tag) (root : Option Nat) (page : Nat) : State :=
  let hit := (List.finRange 96).filter (s.killed c root page)
  let s := if c ≠ 0 ∧ s.tags.killed.contains c.toNat = false then s.setTags { s.tags with killed := c.toNat :: s.tags.killed } else s
  hit.foldl (fun s i => s.post (.termination i 0x03 0)) s

/-- An uncorrectable error of a line arose in the storage of an array, wherever moves have carried it since. -/
def MemorySystem.arose (m : MemorySystem) (place key : Nat) : Bool :=
  m.marks.any fun k => decide (k.place ≤ placeDram) && k.key == key && k.double && k.origin == place

/-- Step 3 of R371: the line goes from every cache, and the ways in whose own storage the error arose are quarantined; an error that
arose in DRAM, or that a move has carried there, stays in the word of DRAM. -/
def State.dropLine (s : State) (key : Nat) : State :=
  let q := if s.mem.arose placeCistern key then [(lineSite key, cisternSet key, s.mem.quarantine.length)] else []
  let q2 := if s.mem.arose placeL2 key then [sliceOfLine key] else []
  let m := (s.mem.l2Drop key).cisternDrop key
  let m := { m with marks := m.marks.map fun (k : ErrMark) => if k.place == placeDram && k.key == key then { k with origin := placeDram } else k }
  { s with
    cores := s.cores.map fun c => c.dropLines (· == key)
    mem := { m with quarantine := q ++ m.quarantine, l2Quarantine := q2 ++ m.l2Quarantine } }

/-- Steps 4 and 5 of R371: the page is retired, and recorded in flash where the list of 8,192 entries has room. -/
def State.retirePage (s : State) (page : Nat) : State :=
  let f := page * 65536
  let s := if s.tags.retiredPages.contains f then s else s.setTags { s.tags with retiredPages := f :: s.tags.retiredPages }
  if s.mgmt.flash.contains f ∨ Config.retirementList.contains f = true ∨ 8192 ≤ Config.retirementList.length + s.mgmt.flash.length
  then s
  else { s with mgmt := { s.mgmt with flash := s.mgmt.flash ++ [f] } }

/-- A copy of the line still holds an uncorrectable error. -/
def MemorySystem.damaged (m : MemorySystem) (place key : Nat) : Bool :=
  match m.mark place 0 key with
  | some k => k.double
  | none => false

/-- OWNER_HANDLING (R370, R371): of an error that has been handled before, only the consumer is left to be dealt with. -/
def execOwnerHandling (err : ErrorReq) (s : State) : Answer :=
  let key := err.line
  let page := key / 1024
  let c := s.lineOwner key
  let root := s.consumerRoot err.consumer
  let there := s.mem.damaged (arrayOf err.place) key
  let s := s.consumerEnds err.consumer c
  .next (
    if !there then s
    else (((s.kill c root page).dropLine key).retirePage page).report (placeSource (arrayOf err.place) key)
      (if c ≠ 0 then 0x05 else 0x06) c.toNat (key * 64) 0 err.injected)

/-! ### Patrol (R368) -/

/-- Marks of a site in the Cistern and in DRAM. -/
def MemorySystem.patrolled (m : MemorySystem) (site : Nat) : List ErrMark :=
  m.marks.filter fun k => (k.place == placeCistern || k.place == placeDram) && lineSite k.key == site

/-- The mark with the lowest line at or after a line. -/
def nextMark (from_ : Nat) : List ErrMark → Option ErrMark
  | [] => none
  | k :: rest =>
    match nextMark from_ rest with
    | some b => if from_ ≤ k.key ∧ k.key ≤ b.key then some k else some b
    | none => if from_ ≤ k.key then some k else none

/-- A class that an event may carry: the spec names none for what the patrol finds in dirty data. -/
def State.anyClass (s : State) : Nat × State :=
  let r := s.pickBelow 11
  (r.1 + 1, r.2)

/-- What the patrol does with an error that it finds. -/
def State.patrolAt (s : State) (k : ErrMark) : State :=
  let owner := s.lineOwner k.key
  if !k.double then s.correct k.place k.key k
  else
    let dirty := k.place != placeCistern || (match s.mem.cisternAt k.key with
      | some l => l.dirty
      | none => true)
    if dirty then
      let r := s.anyClass
      r.2.report (placeSource k.place k.key) r.1 owner.toNat (k.key * 64) 0 k.injected
    else ((s.inspectCistern k.key).1).cisternFill k.key owner

/-- The patrol of a site goes on later. The spec gives its pace nowhere, so the time is free (DESIGN CHOICE, log entry 20). -/
def State.patrolLater (s : State) (i : Fin 8) : State :=
  let (k, s) := s.pickBelow (2 ^ 32)
  s.postFor { Focus.zero with site := i } (s.now + 1 + k) .patrol

/-- PATROL (R368): the patrol of a site goes on to the next damaged word of its Cistern slice or its DRAM. -/
def execPatrol (s : State) : Answer :=
  let i := s.focus.site
  let s := match nextMark (s.sites[i]).patrol (s.mem.patrolled i.val) with
    | none => s.setSite i { s.sites[i] with patrol := 0 }
    | some k =>
      let s := s.patrolAt k
      s.setSite i { s.sites[i] with patrol := k.key + 1 }
  .next (s.patrolLater i)

/-! ### Ripple sensors (R377) -/

/-- STRIKE (R377): logged; a core's zone cancels its phase if one is open or holding. R6 gives a sensor of an L2 zone no source number:
the model's choice is 104 + die, the die's own number (DESIGN CHOICE, log entry 16). -/
def execStrike (die : Fin 4) (zone : Fin 32) (s : State) : Answer :=
  let i := coreOf (die.val * 24 + zone.val)
  let core := decide (zone.val < 24)
  let tag := if core then (((s.cores[i]).context).getD 0).toNat else 0
  let s := s.report (if core then i.val else 104 + die.val) 0x04 tag 0 (zone.val + die.val * 32)
  .next (if core && (s.cores[i]).phaseOpen then s.onCore i State.cancelGroup else s)

/-! ### The error log (R394) -/

/-- The record that comes first in the order of R6, after a first candidate. -/
def firstRecord (r : ErrRecord) : List ErrRecord → ErrRecord
  | [] => r
  | x :: rest =>
    if bitsAt x 0 64 < bitsAt r 0 64 ∨ (bitsAt x 0 64 = bitsAt r 0 64 ∧ bitsAt x 64 8 < bitsAt r 64 8) then firstRecord x rest
    else firstRecord r rest

/-- There is a ring with room for a record. -/
def Management.logRoom (m : Management) : Bool :=
  let n := bitsAt (peek m.regs 0x10) 0 4
  let held := (BitVec.ofNat 32 (bitsAt (peek m.regs 0x18) 0 32) - BitVec.ofNat 32 (bitsAt (peek m.regs 0x20) 0 32)).toNat
  decide (4 ≤ n ∧ held < 2 ^ n)

/-- ERROR_RECORD (R394): the next record is written to the ring and vector 17 is raised; without room it waits. Records stand in the order
of R6, so that one waits for the end of its nanosecond of GTS, within which a source of a lower number may still log an event. -/
def execErrorRecord (s : State) : Answer :=
  .next (match s.mgmt.internalLog with
    | [] => s
    | x :: rest =>
      if !s.mgmt.logRoom then s
      else
        let r := firstRecord x rest
        if s.clock.gts ≤ bitsAt r 0 64 then s.postAt (s.now + 1) .errorRecord
        else
        let tail := bitsAt (peek s.mgmt.regs 0x18) 0 32
        let h := fieldIn (peek s.mgmt.regs 0x10) 56 12 + 32 * (tail % 2 ^ bitsAt (peek s.mgmt.regs 0x10) 0 4)
        let s := s.recordStore (hostPlace h) (vecBytes r)
        let regs := poke s.mgmt.regs 0x18 (BitVec.ofNat 64 ((tail + 1) % 2 ^ 32))
        let s := { s with mgmt := { s.mgmt with internalLog := s.mgmt.internalLog.erase r, regs := regs } }
        let s := s.interrupt 17
        if s.mgmt.internalLog.isEmpty then s else s.post .errorRecord)

/-! ### Agents outside the cores (R280) -/

/-- Where an agent's access of `n` bytes goes. -/
def State.agentPlace (s : State) (addr n : Nat) : Region :=
  if s.mem.region (addr + (n - 1)) = s.mem.region addr then s.mem.region addr
  else if (s.mem.region addr).cached ∧ (s.mem.region (addr + (n - 1))).cached = true then .dram
  else .reserved

/-- How many bytes of memory an access touches. -/
def agentWidth (op : AgentOp) (bytes : List Byte) : Nat := if op = .cas then bytes.length / 2 else bytes.length

/-- A host atomic is aligned, and has 4 or 8 bytes; `cas` has 16 as well (PRESUMED, log entry 55). -/
def agentSound (op : AgentOp) (addr : Nat) (bytes : List Byte) : Bool :=
  let n := agentWidth op bytes
  let whole := (n == 4 || n == 8) && addr % n == 0
  match op with
  | .read => true
  | .write => true
  | .fetchAdd => whole
  | .swap => whole
  | .cas => bytes.length == 2 * n && (whole || n == 16 && addr % 16 == 0)

/-- What an access makes of the bytes that stand there, where it writes. -/
def agentResult (op : AgentOp) (old bytes : List Byte) : Option (List Byte) :=
  match op with
  | .read => none
  | .write => some bytes
  | .fetchAdd => some (leBytes bytes.length (leNat old + leNat bytes))
  | .swap => some bytes
  | .cas => if old = bytes.take old.length then some (bytes.drop old.length) else none

/-- Where the host's memory, and with it the memory that an agent can name, ends. -/
def agentTop : Nat := 2 ^ 57 + 0x1000_0000_0000

/-- AGENT_ACCESS (R280, R313, R392, R399): the host reads or writes memory through HDM, writes its own memory (`hostPlace`), or performs an
atomic in one step (R313). An idle device is woken first; a site that has not joined, or a pseudo-channel that an alert holds, lets the
access wait; one that failed training loses it; the zero page and the heat window take no write. A reserved address, one beyond the
capacity of its port and the local-engine page of a core that no core accesses are declined (R273): nothing is delivered and nothing
written. The register range takes aligned accesses of 8 bytes and declines the rest (R274). -/
def execAgentAccess (op : AgentOp) (addr : Nat) (bytes : List Byte) (s : State) : Answer :=
  let n := agentWidth op bytes
  if agentTop < addr + n then .fault .noSuchAddress
  else if s.mgmt.idle ≠ 0 then .next (s.rouse .hostAccess).hold
  else match s.agentPlace addr n with
    | .zero => .next s
    | .heat => .next s
    | .regs => .next (if op == .write && addr % 8 == 0 && n == 8 then
        s.regWrite (addr - 0x00F0_0800_0000) (BitVec.ofNat 64 (leNat bytes)) else s)
    | .localPage => .next s
    | .reserved => .next s
    | _ =>
      if s.gone addr || !agentSound op addr bytes then .next s
      else if s.siteHolds addr then .next s.hold
      else if op = .write then .next (s.agentStore addr bytes)
      else match s.agentRun addr n with
        | (s, .bytes old) => .next (match agentResult op old bytes with
          | some new => s.agentStore addr new
          | none => s)
        | (s, .bad line p inj) => .next (s.post (.ownerHandling { place := p, line := line, consumer := .host, injected := inj }))

end Sys2Proof.Machine
end

