-- ==== Sys2Proof/Machine/Mgmt.lean ====
section
/-! DEFINITION. The management plane (R8, R391 to R400): reset and the stages, memory sites, power, idle states, expansion
root ports, and attestation. -/

namespace Sys2Proof.Machine

def State.setMgmt (s : State) (m : Management) : State := { s with mgmt := m }

/-- An event of the management controller (R372, class CONTROL). -/
def State.mgmtControl (s : State) : State := s.report 109 0x0B 0 0 0

/-! ### The clock (R8) -/

/-- The clock that a stage allows: 750 MHz in early service (R397), and in stage 0 as well, for which no rule gives one (DESIGN CHOICE, log
entry 29). -/
def Stage.topClock (g : Stage) : Nat :=
  match g with
  | .stage2 => Config.fullClock
  | .stage1 => Config.fullClock / 2
  | .stage0 => Config.fullClock / 2

/-- Events planned for a time and not for a count of cycles. -/
def isTimed (i : Instr) : Bool :=
  match i with
  | .waitGtsComplete => true
  | .waitWordRead => true
  | .preemptionTimeout => true
  | .heatHalving => true
  | .refresh => true
  | .heartbeat => true
  | .takeover => true
  | .handBack => true
  | .alert .. => true
  | .transfer => true
  | _ => false

/-- A planned event after a change of the clock. -/
def Pending.rescaled (e : Pending) (now old new : Nat) : Pending :=
  if isTimed e.instr && decide (now < e.due) then { e with due := now + ((e.due - now) * new + old - 1) / old } else e

/-- The clock that a stage allows and the power limit in force holds (R8); what is planned for a time keeps its time, and so does
the part of a nanosecond that GTS has in hand (R6). -/
def State.setClock (s : State) (g : Stage) : State :=
  let new := max 1 (min s.mgmt.limitHertz g.topClock)
  { s with
    clock := { s.clock with hertz := new, frac := s.clock.frac * new / max 1 s.clock.hertz }
    agenda := (s.agenda.map fun e => e.rescaled s.now (max 1 s.clock.hertz) new).foldl agendaAdd [] }

/-! ### Reset and the stages (R395 to R398) -/

/-- Events that come from outside the device: a reset does not take them back. -/
def isInput (i : Instr) : Bool :=
  match i with
  | .registerWrite .. => true
  | .agentAccess .. => true
  | .tagnewRead => true
  | .stage1 => true
  | .siteJoin .. => true
  | .portUp => true
  | .portDown => true
  | .rootPortLinkDown => true
  | .rootPortRetrain => true
  | .powerLimit .. => true
  | .resetDevice => true
  | .strike .. => true
  | .signatureMsg .. => true
  | .runMsg .. => true
  | .ackMsg .. => true
  | .endMsg .. => true
  | .lostMsg => true
  | .abortMsg => true
  | .flitForward .. => true
  | _ => false

/-- RESET (R396): stage 0, everything at its reset value; where that changes STAGE vector 18 is raised. Memory behind the caches and the
retirement list in flash stay, and so do the count of cycles and what the outside world is about to do. -/
def execResetDevice (s : State) : Answer :=
  let r := State.reset
  let t : State := { r with
    free := s.free
    clock := { r.clock with cycle := s.clock.cycle }
    mem := { r.mem with dram := s.mem.dram }
    mgmt := { r.mgmt with flash := s.mgmt.flash }
    agenda := s.agenda.filter fun e => isInput e.instr }
  .next (if s.mgmt.stage = .stage0 then t else t.interrupt 18)

/-- Capacity that a root port maps: at most the first 1 TiB of its device (R393). -/
def portCapacity (p : Nat) : Nat := min (Config.boardBytes p) (2 ^ 40)

/-- What runs on its own from stage 1 on: refresh, heartbeats and the patrol of each site, and the halving of heat. -/
def State.startClocks (s : State) : State :=
  let s := s.postFor Focus.zero (s.now + s.cyclesFor 10000000) .heatHalving
  (List.finRange 8).foldl (fun s i =>
    ((s.postFor (siteFocus i) (s.now + s.refreshCycles) .refresh).postFor (siteFocus i) s.now .heartbeat).postFor (siteFocus i) s.now
      .patrol) s

/-- STAGE_1 (R395 to R397): early service. Where no slot of the blob, or of an image that stage 1 needs, verifies, the device stays in
stage 0 and logs it. -/
def execStage1 (s : State) : Answer :=
  .next (
    if s.mgmt.stage ≠ .stage0 then s
    else if !imagesValid then s.mgmtControl
    else
      let s := { s with
        clock := { s.clock with calZero := s.clock.cycle }
        mgmt := { s.mgmt with stage := .stage1 }
        tags := { s.tags with retiredPages := Config.retirementList ++ s.mgmt.flash }
        mem := { s.mem with boardCap := Vector.ofFn fun p : Fin 4 => portCapacity p.val, rootLinks := 15 } }
      ((s.setClock .stage1).interrupt 18).startClocks)

/-- SITE_JOIN (R397): a site that has trained joins; one that fails never joins, and without a site controller's image that verifies none
can be trained (R395). -/
def execSiteJoin (site : Fin 8) (ok : Bool) (s : State) : Answer :=
  let u := s.sites[site]
  .next (
    if s.mgmt.stage ≠ .stage1 ∨ u.joined = true ∨ u.failed = true then s
    else if ok && (slotChosen objSite).isSome then s.setSite site { u with joined := true }
    else (s.setSite site { u with failed := true }).mgmtControl)

/-- STAGE_2 (R398): once every site has joined and no command is active. -/
def execStage2 (s : State) : Answer :=
  .next (
    if !s.switching || !s.control.commands.isEmpty then s.hold
    else
      let s := { s with
        mem := { s.mem with cistern := [], marks := s.mem.marks.filter fun k => k.place != placeCistern }
        tags := { s.tags with tags := [] }
        mgmt := { s.mgmt with stage := .stage2 } }
      ((s.setClock .stage2).interrupt 18).grantWaiters s.tags.waiters.length)

/-! ### Power (R8) -/

/-- POWER_LIMIT (R8): the limit in force, never above 8,000 W, and the clock that holds it. Rates change, results do not. -/
def execPowerLimit (milliwatts hertz : Nat) (s : State) : Answer :=
  .next (({ s with mgmt := { s.mgmt with powerLimit := min milliwatts 8000000, limitHertz := hertz } }).setClock s.mgmt.stage)

/-! ### Idle states (R399) -/

/-- No head of a queue is ready or waits. -/
def State.headsAbsent (s : State) : Bool :=
  (List.finRange 16).all fun i =>
    let q := s.control.queues[i]
    !q.enabled || q.error || !q.sized || (s.headCommand q).isNone

/-- The device is idle: an item that a mailbox started is no command, and does not keep it busy. -/
def State.isIdle (s : State) : Bool :=
  s.mgmt.stage != .stage0 && s.control.commands.isEmpty && s.headsAbsent && s.pages.outstanding.isEmpty && s.pages.waiting.isEmpty

/-- The deepest state whose exit latency is no more than TOL: I3 only where no Weir entry is armed. -/
def State.idleTarget (s : State) : Nat :=
  let tol := s.mgmt.tol.toNat
  if 2000000 ≤ tol ∧ s.control.weir.isEmpty then 3
  else if 40000 ≤ tol then 2
  else if 2000 ≤ tol then 1
  else 0

/-- What a core loses in I2, and in I3 its scratchpad as well. -/
def Core.powered (c : Core) (deep : Bool) : Core :=
  { c with
    resident := none
    caches := CoreCaches.empty
    arrays := { c.arrays with
      imem := [], vrf := [], acc0 := [], acc1 := [], feedA := [], feedB := [], sp := if deep then [] else c.arrays.sp } }

/-- Errors in words that have lost their contents are gone with them. -/
def MemorySystem.forgetLocal (m : MemorySystem) (deep : Bool) : MemorySystem :=
  { m with marks := m.marks.filter fun k => !(k.place == placeVrf || (deep && k.place == placeSp)) }

/-- The L2 and the Cistern are written back to memory and left invalid. -/
def State.flushCaches (s : State) : State :=
  let s := s.mem.l2.foldl (fun s l => let s := s.writeBackL2 l; s.setMem (s.mem.l2Drop l.key)) s
  s.mem.cistern.foldl (fun s l => s.cisternEvict l.key) s

/-- What is lost on entry to a state. -/
def State.enterIdle (s : State) (n : Nat) : State :=
  let s := { s with mgmt := { s.mgmt with idle := n, idleSince := s.now } }
  if n < 2 then s
  else
    let deep := n == 3
    let s := { s with cores := s.cores.map fun c => c.powered deep, mem := s.mem.forgetLocal deep }
    if deep then s.flushCaches else s

/-- IDLE_ENTRY (R399). -/
def execIdleEntry (s : State) : Answer :=
  .next (if s.mgmt.idle ≠ 0 ∨ s.isIdle = false ∨ s.idleTarget = 0 then s.hold else s.enterIdle s.idleTarget)

/-- WAKE (R399): the device is active again. -/
def execWake (_cause : WakeCause) (s : State) : Answer := .next (s.setMgmt { s.mgmt with idle := 0 })

/-- TOL_WRITE (R394, R399): a write to TOL wakes the device, which then enters the deepest state that fits. -/
def execTolWrite (tol : BitVec 32) (s : State) : Answer := .next ((s.setMgmt { s.mgmt with tol := tol }).rouse .tolWrite)

/-! ### Expansion root ports (R393) -/

/-- The root port that the focus names. -/
def State.rootPort (s : State) : Fin 4 := ⟨s.focus.port.val % 4, Nat.mod_lt _ (by decide)⟩

/-- ROOT_PORT_LINK_DOWN (R393): every later access to the port's range is a declined fault. -/
def execRootPortLinkDown (s : State) : Answer :=
  let p := s.rootPort
  let m := { s.mem with boardCap := s.mem.boardCap.set p 0, rootLinks := s.mem.rootLinks &&& ~~~(1#4 <<< p.val) }
  .next ((s.setMem m).report (134 + p.val) 0x0A 0 0 0)

/-- ROOT_PORT_RETRAIN (R393): the management plane has retrained the port. -/
def execRootPortRetrain (s : State) : Answer :=
  let p := s.rootPort
  .next (if s.mgmt.stage = .stage0 then s
    else s.setMem { s.mem with
      boardCap := s.mem.boardCap.set p (portCapacity p.val), rootLinks := s.mem.rootLinks ||| (1#4 <<< p.val) })

/-! ### Attestation (R400) -/

/-- Sets ATSTAT. -/
def State.setAtstat (s : State) (v : Nat) : State :=
  s.setMgmt { s.mgmt with regs := poke s.mgmt.regs 0x30 (BitVec.ofNat 64 v) }

/-- ATTESTATION_REQUEST (R400): the request's nonce is read; it is refused while another's report is still to be written, where a reserved
byte is not zero, and where its bytes cannot be read (log entry 35). -/
def execAttestationRequest (addr : Word) (s : State) : Answer :=
  let pa := hostPlace addr.toNat
  .next (
    if !s.mgmt.reports.isEmpty || s.gone pa then s.setAtstat 3
    else match s.agentRun pa 64 with
      | (s, .bad line p inj) =>
        (s.post (.ownerHandling { place := p, line := line, consumer := .host, injected := inj })).setAtstat 3
      | (s, .bytes bs) =>
        if (bs.drop 32).any (· != 0) then s.setAtstat 3
        else
          let s := s.setMgmt { s.mgmt with reports := s.mgmt.reports ++ [(pa, bs.take 32)] }
          (s.setAtstat 1).post .attestationReport)

/-- A field of `n` bytes. -/
def fixedBytes (n : Nat) (bs : List Byte) : List Byte := (bs ++ zeroBytes n).take n

/-- Entries on the retirement list in flash. -/
def State.retiredCount (s : State) : Nat := min 8192 (Config.retirementList.length + s.mgmt.flash.length)

/-- Bytes 0 to 367 of the report. -/
def State.reportBody (s : State) (nonce : List Byte) : List Byte :=
  fixedBytes 32 nonce ++ leBytes 8 s.clock.gts ++ leBytes 2 s.devId ++ leBytes 1 s.mgmt.stage.code ++ zeroBytes 1 ++
    leBytes 4 s.retiredCount ++ (List.range 5).flatMap fun k => fixedBytes 64 (objectDigest k)

/-- The report: its body and the signature over the body's digest. -/
def State.attestation (s : State) (nonce : List Byte) : List Byte :=
  s.reportBody nonce ++ fixedBytes 114 (Config.sign (objectDigest objManagement) (shake256 (s.reportBody nonce) 64))

/-- ATTESTATION_REPORT (R400): the report is written at the request's address + 64 and ATSTAT becomes 2. -/
def execAttestationReport (s : State) : Answer :=
  .next (match s.mgmt.reports with
    | [] => s
    | (pa, nonce) :: rest =>
      let bs := s.attestation nonce
      ((s.recordStore (pa + 64) bs).setMgmt { s.mgmt with reports := rest }).setAtstat 2)

end Sys2Proof.Machine
end

