-- ==== Sys2Proof/Machine/ScalarFp.lean ====
section
/-! DEFINITION. The falu group: scalar floating point (R101, R102). -/

namespace Sys2Proof.Machine

/-- FADD (R102). -/
def execFadd (d a b : OpCode) (s : State) : Res := falu2 s (.fadd d a b) d a b 3 (fpArith (Num.add false))
/-- FSUB (R102). -/
def execFsub (d a b : OpCode) (s : State) : Res :=
  falu2 s (.fsub d a b) d a b 3 (fpArith fun x y => Num.add false x y.neg)
/-- FMUL (R102). -/
def execFmul (d a b : OpCode) (s : State) : Res := falu2 s (.fmul d a b) d a b 3 (fpArith Num.mul)
/-- FDIV (R102). -/
def execFdiv (d a b : OpCode) (s : State) : Res := falu2 s (.fdiv d a b) d a b 12 fpDiv
/-- FSQRT (R102). -/
def execFsqrt (d a : OpCode) (s : State) : Res := falu1 s (.fsqrt d a) d a 12 fpSqrt
/-- FMIN (R102). -/
def execFmin (d a b : OpCode) (s : State) : Res := falu2 s (.fmin d a b) d a b 3 (fpPick false)
/-- FMAX (R102). -/
def execFmax (d a b : OpCode) (s : State) : Res := falu2 s (.fmax d a b) d a b 3 (fpPick true)
/-- FABS (R101, R102): bit 31 cleared, no flag. -/
def execFabs (d a : OpCode) (s : State) : Res :=
  falu1 s (.fabs d a) d a 3 (fun x => (fpWord (low32 x % 2 ^ 31), FpFlags.none))
/-- FNEG (R101, R102): bit 31 inverted, no flag. -/
def execFneg (d a : OpCode) (s : State) : Res :=
  falu1 s (.fneg d a) d a 3 (fun x => (fpWord ((low32 x + 2 ^ 31) % 2 ^ 32), FpFlags.none))
/-- FEQ (R102). -/
def execFeq (d a b : OpCode) (s : State) : Res := falu2 s (.feq d a b) d a b 3 (fpCompare true Num.eqv)
/-- FLT (R102). -/
def execFlt (d a b : OpCode) (s : State) : Res := falu2 s (.flt d a b) d a b 3 (fpCompare false Num.lt)
/-- FLE (R102). -/
def execFle (d a b : OpCode) (s : State) : Res :=
  falu2 s (.fle d a b) d a b 3 (fpCompare false fun x y => x.lt y || x.eqv y)
/-- FCVTFI (R102). -/
def execFcvtfi (d a : OpCode) (s : State) : Res := falu1 s (.fcvtfi d a) d a 3 fpToInt
/-- FCVTIF (R102). -/
def execFcvtif (d a : OpCode) (s : State) : Res := falu1 s (.fcvtif d a) d a 3 fpOfInt

end Sys2Proof.Machine
end

