-- ==== Sys2Proof/Machine/WideExec.lean ====
section
/-! DEFINITION. The wide operations of R84 at the head of the CQ, one meaning each: acceptance by its unit. What the
operation computes is done at its completion (`execWideOpCompletion`). -/

namespace Sys2Proof.Machine

/-- An operation under a given wide opcode. -/
def withCode (op : WideOp) (code : Nat) : WideOp := { op with record := putBits op.record 0 8 code }

/-- VADD (R149). -/
def execVadd (op : WideOp) (s : State) : Answer := .next (s.acceptWide (withCode op 0x00))

/-- VSUB (R149). -/
def execVsub (op : WideOp) (s : State) : Answer := .next (s.acceptWide (withCode op 0x01))

/-- VMUL (R149). -/
def execVmul (op : WideOp) (s : State) : Answer := .next (s.acceptWide (withCode op 0x02))

/-- VFMA (R149). -/
def execVfma (op : WideOp) (s : State) : Answer := .next (s.acceptWide (withCode op 0x03))

/-- VFMS (R149). -/
def execVfms (op : WideOp) (s : State) : Answer := .next (s.acceptWide (withCode op 0x04))

/-- VMIN (R149). -/
def execVmin (op : WideOp) (s : State) : Answer := .next (s.acceptWide (withCode op 0x05))

/-- VMAX (R149). -/
def execVmax (op : WideOp) (s : State) : Answer := .next (s.acceptWide (withCode op 0x06))

/-- VABS (R149). -/
def execVabs (op : WideOp) (s : State) : Answer := .next (s.acceptWide (withCode op 0x07))

/-- VNEG (R149). -/
def execVneg (op : WideOp) (s : State) : Answer := .next (s.acceptWide (withCode op 0x08))

/-- VRCP (R149). -/
def execVrcp (op : WideOp) (s : State) : Answer := .next (s.acceptWide (withCode op 0x09))

/-- VRSQRT (R149). -/
def execVrsqrt (op : WideOp) (s : State) : Answer := .next (s.acceptWide (withCode op 0x0A))

/-- VSQRT (R149). -/
def execVsqrt (op : WideOp) (s : State) : Answer := .next (s.acceptWide (withCode op 0x0B))

/-- VEXP2 (R149). -/
def execVexp2 (op : WideOp) (s : State) : Answer := .next (s.acceptWide (withCode op 0x0C))

/-- VLOG2 (R149). -/
def execVlog2 (op : WideOp) (s : State) : Answer := .next (s.acceptWide (withCode op 0x0D))

/-- VTANH (R149). -/
def execVtanh (op : WideOp) (s : State) : Answer := .next (s.acceptWide (withCode op 0x0E))

/-- VSCALE (R149). -/
def execVscale (op : WideOp) (s : State) : Answer := .next (s.acceptWide (withCode op 0x0F))

/-- VIADD (R152). -/
def execViadd (op : WideOp) (s : State) : Answer := .next (s.acceptWide (withCode op 0x20))

/-- VISUB (R152). -/
def execVisub (op : WideOp) (s : State) : Answer := .next (s.acceptWide (withCode op 0x21))

/-- VIMUL (R152). -/
def execVimul (op : WideOp) (s : State) : Answer := .next (s.acceptWide (withCode op 0x22))

/-- VAND (R152). -/
def execVand (op : WideOp) (s : State) : Answer := .next (s.acceptWide (withCode op 0x23))

/-- VOR (R152). -/
def execVor (op : WideOp) (s : State) : Answer := .next (s.acceptWide (withCode op 0x24))

/-- VXOR (R152). -/
def execVxor (op : WideOp) (s : State) : Answer := .next (s.acceptWide (withCode op 0x25))

/-- VNOT (R152). -/
def execVnot (op : WideOp) (s : State) : Answer := .next (s.acceptWide (withCode op 0x26))

/-- VSHL (R152). -/
def execVshl (op : WideOp) (s : State) : Answer := .next (s.acceptWide (withCode op 0x27))

/-- VSHR (R152). -/
def execVshr (op : WideOp) (s : State) : Answer := .next (s.acceptWide (withCode op 0x28))

/-- VSAR (R152). -/
def execVsar (op : WideOp) (s : State) : Answer := .next (s.acceptWide (withCode op 0x29))

/-- VIMIN (R152). -/
def execVimin (op : WideOp) (s : State) : Answer := .next (s.acceptWide (withCode op 0x2A))

/-- VIMAX (R152). -/
def execVimax (op : WideOp) (s : State) : Answer := .next (s.acceptWide (withCode op 0x2B))

/-- VIMINU (R152). -/
def execViminu (op : WideOp) (s : State) : Answer := .next (s.acceptWide (withCode op 0x2C))

/-- VIMAXU (R152). -/
def execVimaxu (op : WideOp) (s : State) : Answer := .next (s.acceptWide (withCode op 0x2D))

/-- VCMP (R152). -/
def execVcmp (op : WideOp) (s : State) : Answer := .next (s.acceptWide (withCode op 0x2E))

/-- VSEL (R152). -/
def execVsel (op : WideOp) (s : State) : Answer := .next (s.acceptWide (withCode op 0x2F))

/-- VRSUM (R153). -/
def execVrsum (op : WideOp) (s : State) : Answer := .next (s.acceptWide (withCode op 0x40))

/-- VRMAX (R153). -/
def execVrmax (op : WideOp) (s : State) : Answer := .next (s.acceptWide (withCode op 0x41))

/-- VRMIN (R153). -/
def execVrmin (op : WideOp) (s : State) : Answer := .next (s.acceptWide (withCode op 0x42))

/-- VCSUM (R154). -/
def execVcsum (op : WideOp) (s : State) : Answer := .next (s.acceptWide (withCode op 0x43))

/-- VMOV (R155). -/
def execVmov (op : WideOp) (s : State) : Answer := .next (s.acceptWide (withCode op 0x44))

/-- VBCAST (R155). -/
def execVbcast (op : WideOp) (s : State) : Answer := .next (s.acceptWide (withCode op 0x45))

/-- VEXT (R155). -/
def execVext (op : WideOp) (s : State) : Answer := .next (s.acceptWide (withCode op 0x46))

/-- VINS (R155). -/
def execVins (op : WideOp) (s : State) : Answer := .next (s.acceptWide (withCode op 0x47))

/-- VIOTA (R155). -/
def execViota (op : WideOp) (s : State) : Answer := .next (s.acceptWide (withCode op 0x48))

/-- VPERM (R155). -/
def execVperm (op : WideOp) (s : State) : Answer := .next (s.acceptWide (withCode op 0x49))

/-- VCOMPACT (R156). -/
def execVcompact (op : WideOp) (s : State) : Answer := .next (s.acceptWide (withCode op 0x4A))

/-- VTRANS (R157). -/
def execVtrans (op : WideOp) (s : State) : Answer := .next (s.acceptWide (withCode op 0x4B))

/-- VCVT (R158). -/
def execVcvt (op : WideOp) (s : State) : Answer := .next (s.acceptWide (withCode op 0x4C))

/-- VQ4 (R159). -/
def execVq4 (op : WideOp) (s : State) : Answer := .next (s.acceptWide (withCode op 0x4D))

/-- VDQ4 (R160). -/
def execVdq4 (op : WideOp) (s : State) : Answer := .next (s.acceptWide (withCode op 0x4E))

/-- MZERO (R172). -/
def execMzero (op : WideOp) (s : State) : Answer := .next (s.acceptWide (withCode op 0x60))

/-- MLOAD (R172). -/
def execMload (op : WideOp) (s : State) : Answer := .next (s.acceptWide (withCode op 0x61))

/-- MMA (R173). -/
def execMma (op : WideOp) (s : State) : Answer := .next (s.acceptWide (withCode op 0x62))

/-- MDRAIN (R174). -/
def execMdrain (op : WideOp) (s : State) : Answer := .next (s.acceptWide (withCode op 0x63))

/-- MCHOL (R189). -/
def execMchol (op : WideOp) (s : State) : Answer := .next (s.acceptWide (withCode op 0x64))

/-- MLU (R190). -/
def execMlu (op : WideOp) (s : State) : Answer := .next (s.acceptWide (withCode op 0x65))

/-- MQR (R191). -/
def execMqr (op : WideOp) (s : State) : Answer := .next (s.acceptWide (withCode op 0x66))

/-- MTRS (R192). -/
def execMtrs (op : WideOp) (s : State) : Answer := .next (s.acceptWide (withCode op 0x67))

/-- MSHIFT (R194). -/
def execMshift (op : WideOp) (s : State) : Answer := .next (s.acceptWide (withCode op 0x68))

/-- MPIV (R195). -/
def execMpiv (op : WideOp) (s : State) : Answer := .next (s.acceptWide (withCode op 0x69))

end Sys2Proof.Machine
end

