-- ==== Sys2Proof/Machine/Dispatch.lean ====
section
/-! DEFINITION. The dispatch: one arm for each constructor of Instr, each the direct call of one meaning. -/

namespace Sys2Proof.Machine

open Sys2Proof

/-- What each instruction and each event does in a state. -/
def exec (i : Instr) (s : State) : Host.Outcome State Fault Refusal :=
  match i with
  | .add d a b => Sys2Proof.Machine.execAdd d a b s
  | .sub d a b => Sys2Proof.Machine.execSub d a b s
  | .mul d a b => Sys2Proof.Machine.execMul d a b s
  | .mulh d a b => Sys2Proof.Machine.execMulh d a b s
  | .mulhu d a b => Sys2Proof.Machine.execMulhu d a b s
  | .div d a b => Sys2Proof.Machine.execDiv d a b s
  | .divu d a b => Sys2Proof.Machine.execDivu d a b s
  | .rem d a b => Sys2Proof.Machine.execRem d a b s
  | .remu d a b => Sys2Proof.Machine.execRemu d a b s
  | .and_ d a b => Sys2Proof.Machine.execAnd d a b s
  | .or_ d a b => Sys2Proof.Machine.execOr d a b s
  | .xor_ d a b => Sys2Proof.Machine.execXor d a b s
  | .andn d a b => Sys2Proof.Machine.execAndn d a b s
  | .shl d a b => Sys2Proof.Machine.execShl d a b s
  | .shr d a b => Sys2Proof.Machine.execShr d a b s
  | .sar d a b => Sys2Proof.Machine.execSar d a b s
  | .min_ d a b => Sys2Proof.Machine.execMin d a b s
  | .max_ d a b => Sys2Proof.Machine.execMax d a b s
  | .minu d a b => Sys2Proof.Machine.execMinu d a b s
  | .maxu d a b => Sys2Proof.Machine.execMaxu d a b s
  | .seq d a b => Sys2Proof.Machine.execSeq d a b s
  | .sne d a b => Sys2Proof.Machine.execSne d a b s
  | .slt d a b => Sys2Proof.Machine.execSlt d a b s
  | .sle d a b => Sys2Proof.Machine.execSle d a b s
  | .sltu d a b => Sys2Proof.Machine.execSltu d a b s
  | .sleu d a b => Sys2Proof.Machine.execSleu d a b s
  | .clz d a => Sys2Proof.Machine.execClz d a s
  | .popc d a => Sys2Proof.Machine.execPopc d a s
  | .mov d a => Sys2Proof.Machine.execMov d a s
  | .bfx d a b => Sys2Proof.Machine.execBfx d a b s
  | .addi d a imm => Sys2Proof.Machine.execAddi d a imm s
  | .andi d a imm => Sys2Proof.Machine.execAndi d a imm s
  | .ori d a imm => Sys2Proof.Machine.execOri d a imm s
  | .xori d a imm => Sys2Proof.Machine.execXori d a imm s
  | .shli d a amount => Sys2Proof.Machine.execShli d a amount s
  | .shri d a amount => Sys2Proof.Machine.execShri d a amount s
  | .sari d a amount => Sys2Proof.Machine.execSari d a amount s
  | .slti d a imm => Sys2Proof.Machine.execSlti d a imm s
  | .sltiu d a imm => Sys2Proof.Machine.execSltiu d a imm s
  | .lui d imm => Sys2Proof.Machine.execLui d imm s
  | .fadd d a b => Sys2Proof.Machine.execFadd d a b s
  | .fsub d a b => Sys2Proof.Machine.execFsub d a b s
  | .fmul d a b => Sys2Proof.Machine.execFmul d a b s
  | .fdiv d a b => Sys2Proof.Machine.execFdiv d a b s
  | .fsqrt d a => Sys2Proof.Machine.execFsqrt d a s
  | .fmin d a b => Sys2Proof.Machine.execFmin d a b s
  | .fmax d a b => Sys2Proof.Machine.execFmax d a b s
  | .fabs d a => Sys2Proof.Machine.execFabs d a s
  | .fneg d a => Sys2Proof.Machine.execFneg d a s
  | .feq d a b => Sys2Proof.Machine.execFeq d a b s
  | .flt d a b => Sys2Proof.Machine.execFlt d a b s
  | .fle d a b => Sys2Proof.Machine.execFle d a b s
  | .fcvtfi d a => Sys2Proof.Machine.execFcvtfi d a s
  | .fcvtif d a => Sys2Proof.Machine.execFcvtif d a s
  | .branch disp => Sys2Proof.Machine.execBranch disp s
  | .branchCond cond a disp => Sys2Proof.Machine.execBranchCond cond a disp s
  | .call disp => Sys2Proof.Machine.execCall disp s
  | .jr a => Sys2Proof.Machine.execJr a s
  | .ret => Sys2Proof.Machine.execRet s
  | .loop level count body => Sys2Proof.Machine.execLoop level count body s
  | .loopEnd lastWord => Sys2Proof.Machine.execLoopEnd lastWord s
  | .srr d reg => Sys2Proof.Machine.execSrr d reg s
  | .srw a reg => Sys2Proof.Machine.execSrw a reg s
  | .nop => Sys2Proof.Machine.execNop s
  | .done => Sys2Proof.Machine.execDone s
  | .trap code => Sys2Proof.Machine.execTrap code s
  | .eret => Sys2Proof.Machine.execEret s
  | .safept n => Sys2Proof.Machine.execSafept n s
  | .phb => Sys2Proof.Machine.execPhb s
  | .phc => Sys2Proof.Machine.execPhc s
  | .waitsc a k => Sys2Proof.Machine.execWaitsc a k s
  | .brk code => Sys2Proof.Machine.execBrk code s
  | .inj a kind target => Sys2Proof.Machine.execInj a kind target s
  | .amov wn sn a sx => Sys2Proof.Machine.execAmov wn sn a sx s
  | .aadd wn sn a sx => Sys2Proof.Machine.execAadd wn sn a sx s
  | .aaddi wn sn a imm => Sys2Proof.Machine.execAaddi wn sn a imm s
  | .aget wn sn a => Sys2Proof.Machine.execAget wn sn a s
  | .ldB wn sn a sx imm => Sys2Proof.Machine.execLdB wn sn a sx imm s
  | .ldBu wn sn a sx imm => Sys2Proof.Machine.execLdBu wn sn a sx imm s
  | .ldH wn sn a sx imm => Sys2Proof.Machine.execLdH wn sn a sx imm s
  | .ldHu wn sn a sx imm => Sys2Proof.Machine.execLdHu wn sn a sx imm s
  | .ldW wn sn a sx imm => Sys2Proof.Machine.execLdW wn sn a sx imm s
  | .ldWu wn sn a sx imm => Sys2Proof.Machine.execLdWu wn sn a sx imm s
  | .ldD wn sn a sx imm => Sys2Proof.Machine.execLdD wn sn a sx imm s
  | .ldroW wn sn a sx imm => Sys2Proof.Machine.execLdroW wn sn a sx imm s
  | .ldroD wn sn a sx imm => Sys2Proof.Machine.execLdroD wn sn a sx imm s
  | .ldxW wn sn a sx imm => Sys2Proof.Machine.execLdxW wn sn a sx imm s
  | .ldxD wn sn a sx imm => Sys2Proof.Machine.execLdxD wn sn a sx imm s
  | .lv wn sn row col h1 w1 a => Sys2Proof.Machine.execLv wn sn row col h1 w1 a s
  | .mld wn sn feed a sx => Sys2Proof.Machine.execMld wn sn feed a sx s
  | .pset wn sn a port imm => Sys2Proof.Machine.execPset wn sn a port imm s
  | .cbset wn sn a buf imm => Sys2Proof.Machine.execCbset wn sn a buf imm s
  | .tdef wn sn tmpl count => Sys2Proof.Machine.execTdef wn sn tmpl count s
  | .bind wn sn a entry imm => Sys2Proof.Machine.execBind wn sn a entry imm s
  | .unbind wn sn entry => Sys2Proof.Machine.execUnbind wn sn entry s
  | .fence wn sn inv scope => Sys2Proof.Machine.execFence wn sn inv scope s
  | .roinv wn sn => Sys2Proof.Machine.execRoinv wn sn s
  | .roinvRange wn sn a sx => Sys2Proof.Machine.execRoinvRange wn sn a sx s
  | .acq wn sn a sx scope => Sys2Proof.Machine.execAcq wn sn a sx scope s
  | .clean wn sn a sx scope => Sys2Proof.Machine.execClean wn sn a sx scope s
  | .pf wn sn a sx target => Sys2Proof.Machine.execPf wn sn a sx target s
  | .tbinit wn sn a sx imm => Sys2Proof.Machine.execTbinit wn sn a sx imm s
  | .tbarr wn sn a imm => Sys2Proof.Machine.execTbarr wn sn a imm s
  | .tbexp wn sn a sx imm => Sys2Proof.Machine.execTbexp wn sn a sx imm s
  | .tbarrexp wn sn a sx imm => Sys2Proof.Machine.execTbarrexp wn sn a sx imm s
  | .tbwait wn sn a sx imm => Sys2Proof.Machine.execTbwait wn sn a sx imm s
  | .tbtest wn sn a imm => Sys2Proof.Machine.execTbtest wn sn a imm s
  | .amoAdd wn sn a sx size scope acq rel ord => Sys2Proof.Machine.execAmoAdd wn sn a sx size scope acq rel ord s
  | .amoAnd wn sn a sx size scope acq rel ord => Sys2Proof.Machine.execAmoAnd wn sn a sx size scope acq rel ord s
  | .amoOr wn sn a sx size scope acq rel ord => Sys2Proof.Machine.execAmoOr wn sn a sx size scope acq rel ord s
  | .amoXor wn sn a sx size scope acq rel ord => Sys2Proof.Machine.execAmoXor wn sn a sx size scope acq rel ord s
  | .amoMin wn sn a sx size scope acq rel ord => Sys2Proof.Machine.execAmoMin wn sn a sx size scope acq rel ord s
  | .amoMax wn sn a sx size scope acq rel ord => Sys2Proof.Machine.execAmoMax wn sn a sx size scope acq rel ord s
  | .amoMinu wn sn a sx size scope acq rel ord => Sys2Proof.Machine.execAmoMinu wn sn a sx size scope acq rel ord s
  | .amoMaxu wn sn a sx size scope acq rel ord => Sys2Proof.Machine.execAmoMaxu wn sn a sx size scope acq rel ord s
  | .amoSwap wn sn a sx size scope acq rel ord => Sys2Proof.Machine.execAmoSwap wn sn a sx size scope acq rel ord s
  | .amoFadd wn sn a sx scope acq rel ord => Sys2Proof.Machine.execAmoFadd wn sn a sx scope acq rel ord s
  | .amoFmin wn sn a sx scope acq rel ord => Sys2Proof.Machine.execAmoFmin wn sn a sx scope acq rel ord s
  | .amoFmax wn sn a sx scope acq rel ord => Sys2Proof.Machine.execAmoFmax wn sn a sx scope acq rel ord s
  | .cas wn sn a sx new size => Sys2Proof.Machine.execCas wn sn a sx new size s
  | .tagnew wn sn => Sys2Proof.Machine.execTagnew wn sn s
  | .tagnewNb wn sn => Sys2Proof.Machine.execTagnewNb wn sn s
  | .tagret wn sn sx wait => Sys2Proof.Machine.execTagret wn sn sx wait s
  | .ctxset wn sn sx => Sys2Proof.Machine.execCtxset wn sn sx s
  | .xtagset wn sn sx => Sys2Proof.Machine.execXtagset wn sn sx s
  | .stB wp sp a sx imm => Sys2Proof.Machine.execStB wp sp a sx imm s
  | .stH wp sp a sx imm => Sys2Proof.Machine.execStH wp sp a sx imm s
  | .stW wp sp a sx imm => Sys2Proof.Machine.execStW wp sp a sx imm s
  | .stD wp sp a sx imm => Sys2Proof.Machine.execStD wp sp a sx imm s
  | .relD wp sp a sx scope => Sys2Proof.Machine.execRelD wp sp a sx scope s
  | .sv wp sp row col h1 w1 a => Sys2Proof.Machine.execSv wp sp row col h1 w1 a s
  | .stxW wp sp a sx imm => Sys2Proof.Machine.execStxW wp sp a sx imm s
  | .stxD wp sp a sx imm => Sys2Proof.Machine.execStxD wp sp a sx imm s
  | .rowcopy wp sp a imm => Sys2Proof.Machine.execRowcopy wp sp a imm s
  | .rowfill wp sp a imm => Sys2Proof.Machine.execRowfill wp sp a imm s
  | .rowand wp sp a imm => Sys2Proof.Machine.execRowand wp sp a imm s
  | .rowor wp sp a imm => Sys2Proof.Machine.execRowor wp sp a imm s
  | .rowxor wp sp a imm => Sys2Proof.Machine.execRowxor wp sp a imm s
  | .rownot wp sp a imm => Sys2Proof.Machine.execRownot wp sp a imm s
  | .rowmaj wp sp a imm => Sys2Proof.Machine.execRowmaj wp sp a imm s
  | .patch tmpl field value => Sys2Proof.Machine.execPatch tmpl field value s
  | .tx wp wn sp sn tmpl rep1 => Sys2Proof.Machine.execTx wp wn sp sn tmpl rep1 s
  | .vadd op => Sys2Proof.Machine.execVadd op s
  | .vsub op => Sys2Proof.Machine.execVsub op s
  | .vmul op => Sys2Proof.Machine.execVmul op s
  | .vfma op => Sys2Proof.Machine.execVfma op s
  | .vfms op => Sys2Proof.Machine.execVfms op s
  | .vmin op => Sys2Proof.Machine.execVmin op s
  | .vmax op => Sys2Proof.Machine.execVmax op s
  | .vabs op => Sys2Proof.Machine.execVabs op s
  | .vneg op => Sys2Proof.Machine.execVneg op s
  | .vrcp op => Sys2Proof.Machine.execVrcp op s
  | .vrsqrt op => Sys2Proof.Machine.execVrsqrt op s
  | .vsqrt op => Sys2Proof.Machine.execVsqrt op s
  | .vexp2 op => Sys2Proof.Machine.execVexp2 op s
  | .vlog2 op => Sys2Proof.Machine.execVlog2 op s
  | .vtanh op => Sys2Proof.Machine.execVtanh op s
  | .vscale op => Sys2Proof.Machine.execVscale op s
  | .viadd op => Sys2Proof.Machine.execViadd op s
  | .visub op => Sys2Proof.Machine.execVisub op s
  | .vimul op => Sys2Proof.Machine.execVimul op s
  | .vand op => Sys2Proof.Machine.execVand op s
  | .vor op => Sys2Proof.Machine.execVor op s
  | .vxor op => Sys2Proof.Machine.execVxor op s
  | .vnot op => Sys2Proof.Machine.execVnot op s
  | .vshl op => Sys2Proof.Machine.execVshl op s
  | .vshr op => Sys2Proof.Machine.execVshr op s
  | .vsar op => Sys2Proof.Machine.execVsar op s
  | .vimin op => Sys2Proof.Machine.execVimin op s
  | .vimax op => Sys2Proof.Machine.execVimax op s
  | .viminu op => Sys2Proof.Machine.execViminu op s
  | .vimaxu op => Sys2Proof.Machine.execVimaxu op s
  | .vcmp op => Sys2Proof.Machine.execVcmp op s
  | .vsel op => Sys2Proof.Machine.execVsel op s
  | .vrsum op => Sys2Proof.Machine.execVrsum op s
  | .vrmax op => Sys2Proof.Machine.execVrmax op s
  | .vrmin op => Sys2Proof.Machine.execVrmin op s
  | .vcsum op => Sys2Proof.Machine.execVcsum op s
  | .vmov op => Sys2Proof.Machine.execVmov op s
  | .vbcast op => Sys2Proof.Machine.execVbcast op s
  | .vext op => Sys2Proof.Machine.execVext op s
  | .vins op => Sys2Proof.Machine.execVins op s
  | .viota op => Sys2Proof.Machine.execViota op s
  | .vperm op => Sys2Proof.Machine.execVperm op s
  | .vcompact op => Sys2Proof.Machine.execVcompact op s
  | .vtrans op => Sys2Proof.Machine.execVtrans op s
  | .vcvt op => Sys2Proof.Machine.execVcvt op s
  | .vq4 op => Sys2Proof.Machine.execVq4 op s
  | .vdq4 op => Sys2Proof.Machine.execVdq4 op s
  | .mzero op => Sys2Proof.Machine.execMzero op s
  | .mload op => Sys2Proof.Machine.execMload op s
  | .mma op => Sys2Proof.Machine.execMma op s
  | .mdrain op => Sys2Proof.Machine.execMdrain op s
  | .mchol op => Sys2Proof.Machine.execMchol op s
  | .mlu op => Sys2Proof.Machine.execMlu op s
  | .mqr op => Sys2Proof.Machine.execMqr op s
  | .mtrs op => Sys2Proof.Machine.execMtrs op s
  | .mshift op => Sys2Proof.Machine.execMshift op s
  | .mpiv op => Sys2Proof.Machine.execMpiv op s
  | .wideOpCompletion core serial => Sys2Proof.Machine.execWideOpCompletion core serial s
  | .tokenPush => Sys2Proof.Machine.execTokenPush s
  | .trapEntry => Sys2Proof.Machine.execTrapEntry s
  | .termination core status detail => Sys2Proof.Machine.execTermination core status detail s
  | .preemption => Sys2Proof.Machine.execPreemption s
  | .resumption => Sys2Proof.Machine.execResumption s
  | .preemptionTimeout => Sys2Proof.Machine.execPreemptionTimeout s
  | .interruptRequest core value => Sys2Proof.Machine.execInterruptRequest core value s
  | .preemptionRequest core value => Sys2Proof.Machine.execPreemptionRequest core value s
  | .accessedFault pte => Sys2Proof.Machine.execAccessedFault pte s
  | .dirtyFault pte => Sys2Proof.Machine.execDirtyFault pte s
  | .compressedFault req pte => Sys2Proof.Machine.execCompressedFault req pte s
  | .materialisation req pte => Sys2Proof.Machine.execMaterialisation req pte s
  | .walkMiss req => Sys2Proof.Machine.execWalkMiss req s
  | .pageRequest req kind => Sys2Proof.Machine.execPageRequest req kind s
  | .pageRequestSuccess rid gen => Sys2Proof.Machine.execPageRequestSuccess rid gen s
  | .pageRequestFailure rid gen => Sys2Proof.Machine.execPageRequestFailure rid gen s
  | .doorbell q tail => Sys2Proof.Machine.execDoorbell q tail s
  | .errorClear => Sys2Proof.Machine.execErrorClear s
  | .launch q cmd => Sys2Proof.Machine.execLaunch q cmd s
  | .coll q cmd => Sys2Proof.Machine.execColl q cmd s
  | .waitGts q cmd => Sys2Proof.Machine.execWaitGts q cmd s
  | .waitWord q cmd => Sys2Proof.Machine.execWaitWord q cmd s
  | .waitWordRead => Sys2Proof.Machine.execWaitWordRead s
  | .waitQevent q cmd => Sys2Proof.Machine.execWaitQevent q cmd s
  | .signalStore q cmd => Sys2Proof.Machine.execSignalStore q cmd s
  | .signalAdd q cmd => Sys2Proof.Machine.execSignalAdd q cmd s
  | .phasefence q cmd => Sys2Proof.Machine.execPhasefence q cmd s
  | .arm q cmd => Sys2Proof.Machine.execArm q cmd s
  | .disarm q cmd => Sys2Proof.Machine.execDisarm q cmd s
  | .marker q cmd => Sys2Proof.Machine.execMarker q cmd s
  | .priorityAging => Sys2Proof.Machine.execPriorityAging s
  | .weirFire => Sys2Proof.Machine.execWeirFire s
  | .pendingFiring => Sys2Proof.Machine.execPendingFiring s
  | .itemPlacement => Sys2Proof.Machine.execItemPlacement s
  | .gangPlacement => Sys2Proof.Machine.execGangPlacement s
  | .nextPhaseDispatch => Sys2Proof.Machine.execNextPhaseDispatch s
  | .itemLoad => Sys2Proof.Machine.execItemLoad s
  | .syncGroupStart => Sys2Proof.Machine.execSyncGroupStart s
  | .go => Sys2Proof.Machine.execGo s
  | .itemRetire => Sys2Proof.Machine.execItemRetire s
  | .copyStartWord core chan word => Sys2Proof.Machine.execCopyStartWord core chan word s
  | .copyCommand => Sys2Proof.Machine.execCopyCommand s
  | .completionPop => Sys2Proof.Machine.execCompletionPop s
  | .rowCommand => Sys2Proof.Machine.execRowCommand s
  | .rowCompletionPop => Sys2Proof.Machine.execRowCompletionPop s
  | .calendarSlot => Sys2Proof.Machine.execCalendarSlot s
  | .requestData => Sys2Proof.Machine.execRequestData s
  | .agentAccess op addr bytes => Sys2Proof.Machine.execAgentAccess op addr bytes s
  | .ownerHandling err => Sys2Proof.Machine.execOwnerHandling err s
  | .patrol => Sys2Proof.Machine.execPatrol s
  | .tagRetirement tag => Sys2Proof.Machine.execTagRetirement tag s
  | .tagnewRead => Sys2Proof.Machine.execTagnewRead s
  | .tagretWrite tag => Sys2Proof.Machine.execTagretWrite tag s
  | .tivaInvalidate va => Sys2Proof.Machine.execTivaInvalidate va s
  | .tiallInvalidate => Sys2Proof.Machine.execTiallInvalidate s
  | .compressTier => Sys2Proof.Machine.execCompressTier s
  | .moveTier => Sys2Proof.Machine.execMoveTier s
  | .poolRegisterWrite offset value => Sys2Proof.Machine.execPoolRegisterWrite offset value s
  | .heatHalving => Sys2Proof.Machine.execHeatHalving s
  | .alert site row => Sys2Proof.Machine.execAlert site row s
  | .refresh => Sys2Proof.Machine.execRefresh s
  | .heartbeat => Sys2Proof.Machine.execHeartbeat s
  | .takeover => Sys2Proof.Machine.execTakeover s
  | .handBack => Sys2Proof.Machine.execHandBack s
  | .strike die zone => Sys2Proof.Machine.execStrike die zone s
  | .phaseCommit => Sys2Proof.Machine.execPhaseCommit s
  | .errorRecord => Sys2Proof.Machine.execErrorRecord s
  | .signatureMsg coll rank sig bad => Sys2Proof.Machine.execSignatureMsg coll rank sig bad s
  | .transfer => Sys2Proof.Machine.execTransfer s
  | .runMsg coll msg => Sys2Proof.Machine.execRunMsg coll msg s
  | .ackMsg coll step k => Sys2Proof.Machine.execAckMsg coll step k s
  | .endMsg coll step rank count => Sys2Proof.Machine.execEndMsg coll step rank count s
  | .lostMsg => Sys2Proof.Machine.execLostMsg s
  | .abortMsg => Sys2Proof.Machine.execAbortMsg s
  | .flitForward scheduled dest => Sys2Proof.Machine.execFlitForward scheduled dest s
  | .portUp => Sys2Proof.Machine.execPortUp s
  | .portDown => Sys2Proof.Machine.execPortDown s
  | .rootPortLinkDown => Sys2Proof.Machine.execRootPortLinkDown s
  | .resetDevice => Sys2Proof.Machine.execResetDevice s
  | .stage1 => Sys2Proof.Machine.execStage1 s
  | .siteJoin site ok => Sys2Proof.Machine.execSiteJoin site ok s
  | .stage2 => Sys2Proof.Machine.execStage2 s
  | .powerLimit milliwatts hertz => Sys2Proof.Machine.execPowerLimit milliwatts hertz s
  | .idleEntry => Sys2Proof.Machine.execIdleEntry s
  | .wake cause => Sys2Proof.Machine.execWake cause s
  | .tolWrite tol => Sys2Proof.Machine.execTolWrite tol s
  | .attestationRequest addr => Sys2Proof.Machine.execAttestationRequest addr s
  | .replayRelease held => Sys2Proof.Machine.execReplayRelease held s
  | .divergence kind obj => Sys2Proof.Machine.execDivergence kind obj s
  | .registerWrite offset value => Sys2Proof.Machine.execRegisterWrite offset value s
  | .waitGtsComplete => Sys2Proof.Machine.execWaitGtsComplete s
  | .illegalWord word => Sys2Proof.Machine.execIllegalWord word s
  | .tierCommandWrite site value => Sys2Proof.Machine.execTierCommandWrite site value s
  | .rootPortRetrain => Sys2Proof.Machine.execRootPortRetrain s
  | .attestationReport => Sys2Proof.Machine.execAttestationReport s

end Sys2Proof.Machine
end

