-- ==== Sys2Proof/Machine/Movers.lean ====
section
/-! DEFINITION. Which unit may act next (R12, R38 to R110): the actions a state offers, fetching and decoding included, and the
passing of time when none can proceed. -/

namespace Sys2Proof.Machine

/-- An action that a state offers: whose it is, what it is, the free values that its choice has used, and whether it is a word that a
sequencer begins. -/
structure Mover where
  focus : Focus
  instr : Instr
  draws : Nat
  routes : Bool := false
  deriving DecidableEq, Repr

/-- An action of a unit of a core. -/
def coreMover (i : Fin 96) (a : Actor) (x : Instr) : Mover :=
  { focus := { Focus.zero with core := i, actor := a }, instr := x, draws := 0 }

/-- An action of a queue, and one of a site. -/
def queueMover (i : Fin 16) (x : Instr) : Mover := { focus := queueFocus i, instr := x, draws := 0 }
def siteMover (i : Fin 8) (x : Instr) : Mover := { focus := siteFocus i, instr := x, draws := 0 }

/-! ### Fetching (R103, R71) -/

/-- The word at the pc: IMEM ends at 262,140, and what is fetched beyond is a free value. -/
def State.fetchWord (s : State) (i : Fin 96) : IWord :=
  let c := s.cores[i]
  if c.pc ≤ Config.lastPc then peek c.arrays.imem (c.pc / 4) else BitVec.ofNat 32 (Config.freeWord s.free).toNat

/-- The instruction of a word, or the step that an encoding outside the listing takes (R77). -/
def instrOf (w : IWord) : Instr :=
  match decodeWord w with
  | .ok i => i
  | .error _ => .illegalWord w

/-- The sequencer's next word. -/
def State.fetchMover (s : State) (i : Fin 96) : Mover :=
  { coreMover i .seq (instrOf (s.fetchWord i)) with draws := if (s.cores[i]).pc ≤ Config.lastPc then 0 else 1, routes := true }

/-! ### The sequencer and the queues of a core -/

/-- A word in the LQ that holds the sequencer until it has completed (R264): a token push that still stands out holds nothing. -/
def QEntry.holdsSeq (e : QEntry) : Bool :=
  !e.state.completed && match e.instr with
  | .ctxset .. => true
  | .xtagset .. => true
  | _ => false

/-- An operation that has a result for the sequencer still to push (R73, R156): the count has been pushed once it has completed. -/
def QEntry.pushes (e : QEntry) : Bool :=
  !e.state.completed && match e.instr with
  | .vcompact _ => true
  | _ => false

/-- The word at the pc is one whose access was declined: it goes on, to its trap (R69, R116). -/
def Core.declinedWord (c : Core) : Bool := c.faults.any fun f => f.unit == .seq && f.declined

/-- The sequencer may begin a word (R69, R73, R85, R94, R264): the stall wire holds it from the cycle in which a fault is taken to the one on
which the wire drops (R70). -/
def State.mayFetch (s : State) (i : Fin 96) : Bool :=
  let c := s.cores[i]
  decide (c.seq.ready ≤ s.now) && ((!c.seq.wired && !(s.onUnit i .seq).wire) || c.declinedWord) && c.queues.unplaced.isEmpty &&
    !c.queues.lq.any QEntry.holdsSeq && !c.queues.cq.any QEntry.pushes && !c.queues.windows.any (·.entry.pushes)

/-- What the sequencer of a running core may do: an item that is ending takes no trap (R364, R381), and `done` and `safept` take their own
cycle (R94). -/
def State.seqMoves (s : State) (i : Fin 96) : List Mover :=
  let c := s.cores[i]
  match c.seq.mode with
  | .ending st d => [coreMover i .seq (.termination i st d)]
  | .run => if c.seq.trap.isSome then [coreMover i .seq .trapEntry] else if s.mayFetch i then [s.fetchMover i] else []
  | .draining =>
    if c.seq.trap.isSome then [coreMover i .seq .trapEntry]
    else if s.now < c.seq.ready then []
    else if c.phase.isSome then [coreMover i .seq .phaseCommit] else [coreMover i .seq .itemRetire]
  | .phcHold _ => if c.seq.trap.isSome then [coreMover i .seq .trapEntry] else [coreMover i .seq .phaseCommit]
  | .preempting _ _ =>
    if c.seq.trap.isSome then [coreMover i .seq .trapEntry] else if s.now < c.seq.ready then [] else [coreMover i .seq .preemption]

/-- What the head of a queue may do. -/
def headMoves (i : Fin 96) (a : Actor) (q : List QEntry) : List Mover :=
  match q with
  | [] => []
  | e :: _ => match e.state with
    | .pushing _ _ => [coreMover i a .tokenPush]
    | .stopped _ => []
    | .waiting => [coreMover i a e.instr]
    | .again => [coreMover i a e.instr]
    | .begun => [coreMover i a e.instr]

/-- A list turned by `k` places. -/
def turned {α : Type} (l : List α) (k : Nat) : List α := l.drop (k % max 1 l.length) ++ l.take (k % max 1 l.length)

/-- A list in a free order: it is turned, by a free value of its own. -/
def State.anyOrder (s : State) (k : Nat) (l : List (List Mover)) : List Mover :=
  let ls := l.filter fun x => !x.isEmpty
  if 1 < ls.length then (turned ls (Config.pick (s.free + k))).flatten.map fun m => { m with draws := m.draws + k + 1 } else ls.flatten

/-- What the queues of a core may do. The LQ and the SQ, which can take a fault, start nothing more in a cycle in which a word has begun: the
stall wire of a cycle is settled before any word begins (R69), and a word routed in a cycle executes no earlier than that cycle (R68). -/
def State.queueMoves (s : State) (i : Fin 96) : List Mover :=
  let c := s.cores[i]
  match c.status with
  | .running => s.anyOrder 0 [if s.routed then [] else headMoves i .lq c.queues.lq, headMoves i .cq c.queues.cq,
      if s.routed then [] else headMoves i .sq c.queues.sq]
  | _ => []

/-- What the sequencer of a core, or its loader, may do. -/
def State.wordMoves (s : State) (i : Fin 96) : List Mover :=
  let c := s.cores[i]
  match c.status with
  | .loading => [coreMover i .seq .itemLoad]
  | .loaded =>
    if (c.item.bind (·.resume)).isSome then [coreMover i .seq .resumption] else [coreMover i .seq .syncGroupStart]
  | .running => s.seqMoves i
  | .idle => []
  | .ended => []

/-- A `waitsc` whose target has come, and then `inj`, whose own access can take a fault, go before the other words of a cycle. -/
def State.wordRank (s : State) (i : Fin 96) : Nat :=
  if (s.cores[i]).seq.waiting then 0
  else match s.wordMoves i with
    | [m] => match m.instr with
      | .inj .. => 1
      | _ => 2
    | _ => 2

/-- The cores whose words have a rank. -/
def State.ranked (s : State) (k : Nat) : List (Fin 96) := (List.finRange 96).filter fun i => s.wordRank i == k

/-- What all cores may do: their queues, and then their sequencers; no order among the units of a core, or among cores, is laid down. -/
def State.allCoreMoves (s : State) : List Mover :=
  s.anyOrder 1 ((List.finRange 96).map s.queueMoves) ++
    ([0, 1, 2].map fun k => s.anyOrder 1 ((s.ranked k).map s.wordMoves)).flatten

/-! ### The other units -/

/-- Block-transfer channels and the row engine of a core. -/
def State.engineMoves (s : State) (i : Fin 96) : List Mover :=
  let c := s.cores[i]
  let busy := c.channels.filter fun x => !x.2.jobs.isEmpty
  let chans := if c.refetch.isEmpty then busy.map (·.1) else [0]
  (chans.map fun k => { coreMover i .seq .copyCommand with focus := { Focus.zero with core := i, chan := ⟨k % 16, Nat.mod_lt _ (by decide)⟩ } }) ++
    (if c.rows.isEmpty then [] else [coreMover i .seq .rowCommand])

/-- The Sluice: the head that is next, and behind it the others that are ready (R46). -/
def State.sluiceMoves (s : State) : List Mover :=
  match s.sluiceNext with
  | none => []
  | some h => queueMover h.1 h.2 :: (s.readyHeads.filter (·.1 != h.1)).map fun x => queueMover x.1 x.2

/-- The walker. -/
def State.walkerMoves (s : State) : List Mover :=
  if s.control.job.isNone && s.control.requeued.isEmpty then []
  else [.itemPlacement, .gangPlacement, .nextPhaseDispatch].map (queueMover 0)

/-- The tier units. -/
def State.tierMoves (s : State) : List Mover :=
  (List.finRange 8).filterMap fun i => (s.tierOp i).map fun op => siteMover i (if op = 2 then .moveTier else .compressTier)

/-- A head has stood ready for another 2 ms. -/
def SluiceQueue.agesNow (q : SluiceQueue) : Bool := decide ((q.aged + 1) * 2000000 ≤ q.headSince)

/-- Heads that have stood ready for another 2 ms (R46). -/
def State.agingMoves (s : State) : List Mover :=
  (s.agingHeads.filter fun (x : Fin 16 × Instr) => (s.control.queues[x.1]).agesNow).map fun x => queueMover x.1 .priorityAging

/-- The management plane. -/
def State.mgmtMoves (s : State) : List Mover :=
  (if s.switching then [queueMover 0 .stage2] else []) ++
    (if s.mgmt.idle = 0 ∧ s.mgmt.tol ≠ 0 then [queueMover 0 .idleEntry] else [])

/-- The cores have power: in I2 and I3 they are off (R399). -/
def State.coresOn (s : State) : Bool := decide (s.mgmt.idle < 2)

/-- What the cores and their engines offer. -/
def State.unitMoves (s : State) : List Mover :=
  if s.coresOn then s.allCoreMoves ++ (List.finRange 96).flatMap s.engineMoves else []

/-- Every action that the state offers, in the order they are tried. -/
def State.movers (s : State) : List Mover :=
  s.sluiceMoves ++ s.walkerMoves ++ s.unitMoves ++ s.tierMoves ++ s.agingMoves ++ s.mgmtMoves

/-! ### Time -/

/-- The ready heads have waited `ns` longer, and in the switch of stage those that would be ready (R398). -/
def State.ageHeads (s : State) (ns : Nat) : State :=
  s.agingHeads.foldl (fun s x => s.setQueue x.1 { s.control.queues[x.1] with headSince := (s.control.queues[x.1]).headSince + ns }) s

/-- `n` cycles of a core's sequencer pass, with its stall wire asserted or not: from the cycle of the fault to the one on which the wire drops
SCHED stands still, and a word that takes several cycles goes on afterwards where it stopped (R67, R69, R70). -/
def SeqState.pass (q : SeqState) (now n : Nat) (wire : Bool) : SeqState :=
  if wire || q.wired then
    { q with wired := wire, frozen := q.frozen + n, ready := if now < q.ready then q.ready + n else q.ready }
  else q

/-- The sequencers of all cores when `n` cycles pass. -/
def State.freezeSched (s : State) (n : Nat) : State :=
  { s with cores := Vector.ofFn fun i : Fin 96 =>
      let c := s.cores[i]
      { c with seq := c.seq.pass s.now n (c.status == .running && (s.onUnit i .seq).wire) } }

/-- What a cycle brings with it: the tag allocator takes the requests of the cycle that ends (R260), stores arrive (R311), and the arrays
read and write their ports (R170). -/
def State.settleCycle (s : State) : State :=
  (List.finRange 96).foldl State.streamPorts ((List.finRange 96).foldl State.arrivals s.settleAsks)

/-- `n` core cycles pass. -/
def State.elapse (s : State) (n : Nat) : State :=
  let h := max 1 s.clock.hertz
  let ns := (s.clock.frac + n * 1000000000) / h
  let s := ((s.settleCycle).ageHeads ns).freezeSched n
  { s with routed := false, clock := { s.clock with
      cycle := s.clock.cycle + n, gts := (s.clock.gts + ns) % 2 ^ 64, frac := (s.clock.frac + n * 1000000000) % h } }

/-- The cycle of the next pending event after now. -/
def State.nextDue (s : State) : Option Nat := (s.agenda.find? fun e => decide (s.now < e.due)).map (·.due)

/-- Nothing but pending events can change the state. -/
def State.quiet (s : State) : Bool :=
  s.readyHeads.isEmpty && s.control.job.isNone && s.control.requeued.isEmpty && (List.finRange 96).all fun i => (s.cores[i]).item.isNone

/-- Time passes: one cycle, or to the next event where only that can bring anything about. -/
def State.pass (s : State) : State :=
  match s.nextDue with
  | some t => if s.quiet then s.elapse (t - s.now) else s.elapse 1
  | none => s.elapse 1

/-- Sequencers that have repetitions of a `tx` left place one each (R78, R85). -/
def State.placing (s : State) : List (Fin 96) :=
  (List.finRange 96).filter fun i => s.coresOn && (s.cores[i]).places s.now && !(s.onUnit i .seq).wire

def State.placeAll (s : State) : State :=
  s.placing.foldl (fun s (i : Fin 96) => { s with cores := s.cores.set i ((s.cores[i]).placeNext s.now) }) s

/-- No unit can act: sequencers place repetitions, and then time passes. -/
def State.rest (s : State) : State := if s.placing.isEmpty then s.pass else s.placeAll

/-! ### One step -/

/-- Tries actions in order; what one that cannot proceed has changed is kept, but for one that would reach memory at a site that has not
joined, or a row that takes no activation: it has not begun (R292, R293, R397). -/
def tryMoves (k : State → Host.Outcome State Fault Refusal) :
    List Mover → State → Host.Outcome State Fault Refusal
  | [], s => k s
  | m :: ms, s =>
    match exec m.instr { s with focus := m.focus, free := s.free + m.draws } with
    | .next t =>
      if t.blocked then tryMoves k ms s
      else if t.held then tryMoves k ms { t with held := false }
      else .next { t with routed := t.routed || m.routes }
    | .fault f => .fault f
    | .refused r => .refused r

/-- An event that could not take place stays in the agenda, ahead of those that are due no earlier. -/
def agendaFront (e : Pending) : List Pending → List Pending
  | [] => [e]
  | q :: rest => if e.due ≤ q.due then e :: q :: rest else q :: agendaFront e rest

/-- Tries the events that are due, in order. -/
def tryEvents (k : State → Host.Outcome State Fault Refusal) :
    List Pending → State → Host.Outcome State Fault Refusal
  | [], s => k s
  | e :: es, s =>
    match exec e.instr { s with focus := e.focus, agenda := s.agenda.erase e } with
    | .next t =>
      if t.blocked then tryEvents k es s
      else if t.held then tryEvents k es { t with held := false, agenda := agendaFront e t.agenda }
      else .next t
    | .fault f => .fault f
    | .refused r => .refused r

/-- One step: a pending event that is due, else the first action that can proceed, else time passes. -/
def State.oneStep (s : State) : Host.Outcome State Fault Refusal :=
  tryEvents (fun s => tryMoves (fun s => .next s.rest) s.movers s)
    (s.agenda.filter fun e => decide (e.due ≤ s.now)) { s with held := false, blocked := false }

/-! ### A word placed where the next fetch finds it -/

/-- The item of a word placed for its fetch. -/
def fetchItem : Item :=
  { command := none, queue := 0, lin := 0, phase := 0, root := 0, image := 0, args := 0, tag := 0, idx := [], cnt := [], flags := 0,
    group := 0, pto := 0, replay := false, resume := none, die := none, prio := 0, pressed := false }

/-- The image of a word placed for its fetch: no handler. -/
def fetchImage : ImageInfo :=
  { handler := false, trapvec := 0, lmcount := 0, tmcount := 0, tmoff := 0, codesize := 262144, entry := 0, rodoff := 0, ctbase := 0, ctcount := 0 }

/-- Core 0 runs an item in full service, with a word in IMEM where its sequencer fetches next. -/
def State.placeWord (s : State) (w : Nat) : State :=
  let c := s.cores[(0 : Fin 96)]
  let c := { c with
    status := .running, item := some fetchItem, image := some fetchImage
    arrays := { c.arrays with imem := poke c.arrays.imem (c.pc / 4) (BitVec.ofNat 32 w) }
    seq := { c.seq with mode := .run, ready := s.now, wired := false, trap := none } }
  { s with
    cores := s.cores.set 0 c
    agenda := s.agenda.filter fun e => decide (s.now < e.due)
    sites := s.sites.map fun u => { u with joined := true }
    mgmt := { s.mgmt with stage := .stage2, idle := 0 } }

end Sys2Proof.Machine
end

