-- ==== Sys2Proof/Safety.lean ====
section
/-! DEFINITION. What a safe run is, and the forms that the stores and the registers of the machine keep. -/

namespace Sys2Proof.Machine

/-! ### Runs -/

/-- `n` steps; nothing where one of them stops. -/
def State.after : Nat → State → Option State
  | 0, s => some s
  | n + 1, s =>
    match step s with
    | .next t => t.after n
    | .fault _ => none
    | .refused _ => none

/-- A run of `n` steps is safe: none of them stops. -/
def State.SafeFor (n : Nat) (s : State) : Prop := (s.after n).isSome = true

/-! ### Canonical forms -/

/-- The stores of a core are in canonical form. -/
def CoreArrays.wf (a : CoreArrays) : Bool :=
  Sparse.wf a.imem && Memory.wf a.vrf && Memory.wf a.sp && Sparse.wf a.acc0 && Sparse.wf a.acc1 && Sparse.wf a.templates

/-- Lines kept by rising line number, so that equal contents are equal lists. -/
def rising {α : Type} (key : α → Nat) : List α → Bool
  | [] => true
  | [_] => true
  | x :: y :: rest => decide (key x < key y) && rising key (y :: rest)

/-- Memory behind the cores is in canonical form: bytes, heat counters, and the lines of the shared caches. -/
def MemorySystem.wf (m : MemorySystem) : Bool :=
  Memory.wf m.dram && Sparse.wf m.heat && rising (·.key) m.l2 && rising (·.key) m.cistern

/-- Every store of the machine is in canonical form. -/
def State.memoryWf (s : State) : Bool :=
  s.mem.wf && s.cores.toList.all (fun c => c.arrays.wf) && Sparse.wf s.fabric.regs && Sparse.wf s.mgmt.regs && Sparse.wf s.pages.gens &&
    s.sites.toList.all fun u => Sparse.wf u.activations

/-! ### What the sequencer of a core keeps -/

/-- The loop levels and the return stack of a trap level stay within their depth (R104, R105). -/
def SeqLevel.wf (l : SeqLevel) : Bool := decide (l.ldepth ≤ 4) && decide (l.rs.length ≤ 16)

/-- The pc names a word of IMEM, and both trap levels stay within their depth. -/
def Core.seqWf (c : Core) : Bool := decide (c.pc % 4 = 0) && c.level0.wf && c.level1.wf

/-- Counts of a Sluice queue that the spec bounds: GTS is a 64-bit count (R6), the machine clock is never stopped. -/
def Clock.wf (c : Clock) : Bool := decide (c.gts < 2 ^ 64) && decide (c.frac < max 1 c.hertz)

end Sys2Proof.Machine
end

