-- ==== Sys2Proof/Certificates/Slice0/Obligations.lean ====
section
/-! DEFINITION. The statements about the model that are put to proof. Each names the rules of the spec it rests on. -/

namespace Sys2Proof.Machine

/-! ### Words of the sequencer: what the statements name

A form lists the destination code, the operand codes in their order, the cycles of R94 and the function of the values read. -/

/-- The number of 1 bits among bits 63 to 0. -/
def onesOf (x : Word) : Nat := ((List.range 64).filter fun k => x.getLsbD k).length

/-- The number of 0 bits above the highest 1 bit. -/
def zerosAbove (x : Word) : Nat := ((List.range 64).takeWhile fun k => !x.getLsbD (63 - k)).length

/-- The integer words (R96 to R100). -/
def integerForm : Instr → Option (OpCode × List OpCode × Nat × (List Word → Word))
  | .add d a b => some (d, [a, b], 1, fun v => argN v 0 + argN v 1)
  | .sub d a b => some (d, [a, b], 1, fun v => argN v 0 - argN v 1)
  | .mul d a b => some (d, [a, b], 3, fun v => argN v 0 * argN v 1)
  | .mulh d a b => some (d, [a, b], 3, fun v => BitVec.ofInt 64 ((argN v 0).toInt * (argN v 1).toInt / 2 ^ 64))
  | .mulhu d a b => some (d, [a, b], 3, fun v => BitVec.ofNat 64 ((argN v 0).toNat * (argN v 1).toNat / 2 ^ 64))
  | .div d a b => some (d, [a, b], 18, fun v =>
      if argN v 1 = 0 then -1 else BitVec.ofInt 64 ((argN v 0).toInt.tdiv (argN v 1).toInt))
  | .divu d a b => some (d, [a, b], 18, fun v => if argN v 1 = 0 then -1 else argN v 0 / argN v 1)
  | .rem d a b => some (d, [a, b], 18, fun v =>
      if argN v 1 = 0 then argN v 0 else BitVec.ofInt 64 ((argN v 0).toInt.tmod (argN v 1).toInt))
  | .remu d a b => some (d, [a, b], 18, fun v => if argN v 1 = 0 then argN v 0 else argN v 0 % argN v 1)
  | .and_ d a b => some (d, [a, b], 1, fun v => argN v 0 &&& argN v 1)
  | .or_ d a b => some (d, [a, b], 1, fun v => argN v 0 ||| argN v 1)
  | .xor_ d a b => some (d, [a, b], 1, fun v => argN v 0 ^^^ argN v 1)
  | .andn d a b => some (d, [a, b], 1, fun v => argN v 0 &&& ~~~argN v 1)
  | .shl d a b => some (d, [a, b], 1, fun v => argN v 0 <<< bitsAt (argN v 1) 0 6)
  | .shr d a b => some (d, [a, b], 1, fun v => argN v 0 >>> bitsAt (argN v 1) 0 6)
  | .sar d a b => some (d, [a, b], 1, fun v => (argN v 0).sshiftRight (bitsAt (argN v 1) 0 6))
  | .min_ d a b => some (d, [a, b], 1, fun v => if (argN v 0).toInt ≤ (argN v 1).toInt then argN v 0 else argN v 1)
  | .max_ d a b => some (d, [a, b], 1, fun v => if (argN v 0).toInt ≤ (argN v 1).toInt then argN v 1 else argN v 0)
  | .minu d a b => some (d, [a, b], 1, fun v => if (argN v 0).toNat ≤ (argN v 1).toNat then argN v 0 else argN v 1)
  | .maxu d a b => some (d, [a, b], 1, fun v => if (argN v 0).toNat ≤ (argN v 1).toNat then argN v 1 else argN v 0)
  | .seq d a b => some (d, [a, b], 1, fun v => if argN v 0 = argN v 1 then 1 else 0)
  | .sne d a b => some (d, [a, b], 1, fun v => if argN v 0 = argN v 1 then 0 else 1)
  | .slt d a b => some (d, [a, b], 1, fun v => if (argN v 0).toInt < (argN v 1).toInt then 1 else 0)
  | .sle d a b => some (d, [a, b], 1, fun v => if (argN v 0).toInt ≤ (argN v 1).toInt then 1 else 0)
  | .sltu d a b => some (d, [a, b], 1, fun v => if (argN v 0).toNat < (argN v 1).toNat then 1 else 0)
  | .sleu d a b => some (d, [a, b], 1, fun v => if (argN v 0).toNat ≤ (argN v 1).toNat then 1 else 0)
  | .clz d a => some (d, [a], 1, fun v => BitVec.ofNat 64 (zerosAbove (argN v 0)))
  | .popc d a => some (d, [a], 1, fun v => BitVec.ofNat 64 (onesOf (argN v 0)))
  | .mov d a => some (d, [a], 1, fun v => argN v 0)
  | .bfx d a b => some (d, [a, b], 1, fun v =>
      let pos := bitsAt (argN v 1) 0 6
      let len := bitsAt (argN v 1) 6 6 + 1
      let f := BitVec.ofNat len ((argN v 0).toNat >>> pos)
      if (argN v 1).getLsbD 12 then f.signExtend 64 else f.zeroExtend 64)
  | .addi d a k => some (d, [a], 1, fun v => argN v 0 + k.signExtend 64)
  | .andi d a k => some (d, [a], 1, fun v => argN v 0 &&& k.signExtend 64)
  | .ori d a k => some (d, [a], 1, fun v => argN v 0 ||| k.signExtend 64)
  | .xori d a k => some (d, [a], 1, fun v => argN v 0 ^^^ k.signExtend 64)
  | .shli d a k => some (d, [a], 1, fun v => argN v 0 <<< k.toNat)
  | .shri d a k => some (d, [a], 1, fun v => argN v 0 >>> k.toNat)
  | .sari d a k => some (d, [a], 1, fun v => (argN v 0).sshiftRight k.toNat)
  | .slti d a k => some (d, [a], 1, fun v => if (argN v 0).toInt < k.toInt then 1 else 0)
  | .sltiu d a k => some (d, [a], 1, fun v => if (argN v 0).toNat < (k.signExtend 64).toNat then 1 else 0)
  | .lui d k => some (d, [], 1, fun _ => k.signExtend 64 <<< 12)
  | _ => none

/-- The scalar floating-point words with result and flags (R102). -/
def floatForm : Instr → Option (OpCode × List OpCode × Nat × (List Word → Word × FpFlags))
  | .fadd d a b => some (d, [a, b], 3, fun v => fpArith (Num.add false) (argN v 0) (argN v 1))
  | .fsub d a b => some (d, [a, b], 3, fun v => fpArith (fun x y => Num.add false x y.neg) (argN v 0) (argN v 1))
  | .fmul d a b => some (d, [a, b], 3, fun v => fpArith Num.mul (argN v 0) (argN v 1))
  | .fdiv d a b => some (d, [a, b], 12, fun v => fpDiv (argN v 0) (argN v 1))
  | .fsqrt d a => some (d, [a], 12, fun v => fpSqrt (argN v 0))
  | .fmin d a b => some (d, [a, b], 3, fun v => fpPick false (argN v 0) (argN v 1))
  | .fmax d a b => some (d, [a, b], 3, fun v => fpPick true (argN v 0) (argN v 1))
  | .fabs d a => some (d, [a], 3, fun v => (argN v 0 &&& 0x7FFFFFFF, FpFlags.none))
  | .fneg d a => some (d, [a], 3, fun v => ((argN v 0 &&& 0xFFFFFFFF) ^^^ 0x80000000, FpFlags.none))
  | .feq d a b => some (d, [a, b], 3, fun v => fpCompare true Num.eqv (argN v 0) (argN v 1))
  | .flt d a b => some (d, [a, b], 3, fun v => fpCompare false Num.lt (argN v 0) (argN v 1))
  | .fle d a b => some (d, [a, b], 3, fun v => fpCompare false (fun x y => x.lt y || x.eqv y) (argN v 0) (argN v 1))
  | .fcvtfi d a => some (d, [a], 3, fun v => fpToInt (argN v 0))
  | .fcvtif d a => some (d, [a], 3, fun v => fpOfInt (argN v 0))
  | _ => none

/-- The wide operations by opcode (R84): four blocks, numbered from 0x00, 0x20, 0x40 and 0x60. -/
def wideTable : List (Nat × (WideOp → Instr)) :=
  ([Instr.vadd, .vsub, .vmul, .vfma, .vfms, .vmin, .vmax, .vabs, .vneg, .vrcp, .vrsqrt, .vsqrt, .vexp2, .vlog2, .vtanh,
    .vscale].zipIdx.map fun p => (p.2, p.1)) ++
  ([Instr.viadd, .visub, .vimul, .vand, .vor, .vxor, .vnot, .vshl, .vshr, .vsar, .vimin, .vimax, .viminu, .vimaxu, .vcmp,
    .vsel].zipIdx.map fun p => (0x20 + p.2, p.1)) ++
  ([Instr.vrsum, .vrmax, .vrmin, .vcsum, .vmov, .vbcast, .vext, .vins, .viota, .vperm, .vcompact, .vtrans, .vcvt, .vq4,
    .vdq4].zipIdx.map fun p => (0x40 + p.2, p.1)) ++
  ([Instr.mzero, .mload, .mma, .mdrain, .mchol, .mlu, .mqr, .mtrs, .mshift, .mpiv].zipIdx.map fun p => (0x60 + p.2, p.1))

/-- An address lies in the body of a loop level (R105, R106). -/
def SeqLevel.inBody (l : SeqLevel) (k a : Nat) : Prop := (l.loopAt k).first ≤ a ∧ a ≤ (l.loopAt k).last

/-- A 64-bit value stands where WriteResult puts it: in the result queue, whose entries move up, and in the s-register that the
code names (R31, R73). -/
structure Written (c c' : Core) (d : OpCode) (v : Word) : Prop where
  newest : c'.bank.resq[(0 : Fin 16)] = v
  older : ∀ k : Fin 15, c'.bank.resq[k.succ] = c.bank.resq[k.castSucc]
  named : ∀ k : Fin 32, k.val = d.toNat → c'.sregs[k] = v
  others : ∀ k : Fin 32, k.val ≠ d.toNat → c'.sregs[k] = c.sregs[k]

/-- Everything of a core that a word of the sequencer has no business with. -/
structure CoreKept (c c' : Core) : Prop where
  aregs : c'.aregs = c.aregs
  loads : c'.bank.loads = c.bank.loads
  tok : c'.bank.tok = c.bank.tok
  arrays : c'.arrays = c.arrays
  caches : c'.caches = c.caches
  queues : c'.queues = c.queues
  ports : c'.ports = c.ports
  bufs : c'.bufs = c.bufs
  bindings : c'.bindings = c.bindings
  clause : c'.clause = c.clause
  trapRegs : c'.trapRegs = c.trapRegs
  sys : c'.sys = c.sys
  tl : c'.tl = c.tl
  chk : c'.chk = c.chk
  rs : c'.level.rs = c.level.rs
  channels : c'.channels = c.channels
  rows : c'.rows = c.rows
  rowFifo : c'.rowFifo = c.rowFifo
  status : c'.status = c.status
  item : c'.item = c.item
  image : c'.image = c.image
  faults : c'.faults = c.faults
  units : c'.units = c.units
  phase : c'.phase = c.phase
  cancels : c'.cancels = c.cancels
  fills : c'.fills = c.fills
  refetch : c'.refetch = c.refetch
  requests : c'.prq = c.prq ∧ c'.irq = c.irq
  mailbox : c'.mailbox = c.mailbox ∧ c'.lstat = c.lstat
  damage : c'.damage = c.damage
  otherBank : if c.tl = true then c'.bank0 = c.bank0 else c'.bank1 = c.bank1
  otherLevel : if c.tl = true then c'.level0 = c.level0 else c'.level1 = c.level1

/-- Everything of a core but the load-return queue of its trap level. -/
structure CoreKeptButLoads (c c' : Core) : Prop where
  sregs : c'.sregs = c.sregs
  aregs : c'.aregs = c.aregs
  pc : c'.pc = c.pc
  arrays : c'.arrays = c.arrays
  queues : c'.queues = c.queues
  seq : c'.seq = c.seq
  levels : c'.level0 = c.level0 ∧ c'.level1 = c.level1
  mode : c'.tl = c.tl ∧ c'.chk = c.chk
  clause : c'.clause = c.clause
  trapRegs : c'.trapRegs = c.trapRegs
  factor : c'.factor = c.factor
  sys : c'.sys = c.sys
  otherBank : if c.tl = true then c'.bank0 = c.bank0 else c'.bank1 = c.bank1

/-- Everything outside the cores. -/
structure Outside (s t : State) : Prop where
  mem : t.mem = s.mem
  control : t.control = s.control
  tags : t.tags = s.tags
  pages : t.pages = s.pages
  tiers : t.tiers = s.tiers
  sites : t.sites = s.sites
  fabric : t.fabric = s.fabric
  order : t.order = s.order
  mgmt : t.mgmt = s.mgmt
  clock : t.clock = s.clock
  agenda : t.agenda = s.agenda

/-- Only the core that acts has changed. -/
structure OthersKept (s t : State) : Prop where
  focus : t.focus = s.focus
  cores : ∀ j : Fin 96, j ≠ s.cur → t.cores[j] = s.cores[j]

end Sys2Proof.Machine

section

open Sys2Proof Sys2Proof.Machine

/-! ### Encoding and stepping -/

/-- Words written out from the encodings of R71 decode to the instructions they stand for. -/
def Obligations.DecodedWords : Prop :=
  decodeTableWord 32 0x0010_4202 = some (.mul 1 1 2) ∧
  decodeTableWord 32 0x0461_BFFF = some (.addi 6 6 0x3FFF) ∧
  decodeTableWord 32 0x4146_FFFD = some (.branchCond 5 6 0xFFFD) ∧
  decodeTableWord 32 0x8428_7100 = some (.ldxD false false 1 49 0) ∧
  decodeTableWord 32 0x9C00_72C0 = some (.amoAdd false false 1 50 true 2 false false false) ∧
  decodeTableWord 32 0xC28C_4200 = some (.stD true true 1 2 0) ∧
  decodeTableWord 32 0xCC04_C001 = some (.rowfill false false 3 1) ∧
  decodeTableWord 32 0xE641_0000 = some (.tx true false false true 1 0)

/-- Decoding the encoding of a well-formed instruction that has a word gives the instruction back, with every operand. -/
def Obligations.DecodeOfEncode : Prop :=
  ∀ (i : Instr) (w : IWord), i.wf = true → encode i = some w → decodeWord w = .ok i

/-- Encoding what a word decodes to gives the word back: a word has one meaning, and no reserved bit is ignored (R77). -/
def Obligations.EncodeOfDecode : Prop :=
  ∀ (i : Instr) (w : IWord), decodeWord w = .ok i → i.wf = true ∧ encode i = some w

/-- Where one core runs alone, its queues empty and its sequencer free, a step runs the instruction that the word at its pc
decodes to, and moves the flow itself: nothing is added around the instruction but the note that a word has begun in this cycle (R69). That
the word goes ahead of the engines, the tiers, the aging of heads and the management plane is the model's order of its movers (log entry 1). -/
def Obligations.StepRunsDecodedWord : Prop :=
  ∀ (s t : State) (k : Fin 96) (i : Instr), s.held = false → s.blocked = false →
    (∀ e ∈ s.agenda, s.now < e.due) → s.sluiceMoves = [] → s.walkerMoves = [] →
    (∀ j : Fin 96, s.queueMoves j = []) → (∀ j : Fin 96, j ≠ k → s.wordMoves j = []) → s.mgmt.idle < 2 →
    (s.cores[k]).status = .running → (s.cores[k]).seq.mode = .run → (s.cores[k]).seq.trap = none →
    s.mayFetch k = true → (s.cores[k]).pc ≤ 262140 →
    decodeWord (peek (s.cores[k]).arrays.imem ((s.cores[k]).pc / 4)) = .ok i →
    exec i { s with focus := { Focus.zero with core := k, actor := .seq } } = .next t → t.held = false → t.blocked = false →
    step s = .next { t with routed := true }

/-! ### Words of the sequencer -/

/-- What an operand code reads (R72): s-registers, the result queue, the load-return queue, constants, the core's number and CTX;
a reserved code is illegal, and only `%ld` changes anything: it takes the oldest entry, or meets the error that it holds (R367). The operand
fields of one word are read in order, so that of two `%ld` codes the earlier field takes the older return: a before b, s before new (no word
has another pair). -/
def Obligations.OperandCodes : Prop :=
  (∀ (c : Core) (id : Nat) (code : OpCode),
    (∀ k : Fin 32, code.toNat = k.val → c.readOperand id code = .ok [c.sregs[k]] c) ∧
    (∀ k : Fin 16, code.toNat = 32 + k.val → c.readOperand id code = .ok [c.bank.resq[k]] c) ∧
    (code = 48 → c.bank.loads = [] → c.readOperand id code = .stall) ∧
    (∀ v rest, code = 48 → c.bank.loads = v :: rest → c.damageIn partLoads c.loadsBase 1 = none →
      ∃ c', c.readOperand id code = .ok [v] c' ∧ c'.bank = { c.bank with loads := rest } ∧ CoreKeptButLoads c c') ∧
    (∀ v rest inj, code = 48 → c.bank.loads = v :: rest → c.damageIn partLoads c.loadsBase 1 = some inj → c.readOperand id code = .bad inj) ∧
    (code = 49 → c.readOperand id code = .ok [0] c) ∧
    (code = 50 → c.readOperand id code = .ok [1] c) ∧
    (code = 51 → c.readOperand id code = .ok [BitVec.allOnes 64] c) ∧
    (code = 52 → c.readOperand id code = .ok [BitVec.ofNat 64 id] c) ∧
    (code = 53 → c.readOperand id code = .ok [c.sys.ctx.zeroExtend 64] c) ∧
    (54 ≤ code.toNat → c.readOperand id code = .illegal) ∧
    (∀ (x y : OpCode) (v w : Word) (c₁ c₂ : Core), c.readOperand id x = .ok [v] c₁ → c₁.readOperand id y = .ok [w] c₂ →
      c.readAll id [x, y] = .ok [v, w] c₂)) ∧
  (∀ (s : State) (d : OpCode) (v w : Word) (rest : List Word), okDst d = true → s.core.bank.loads = v :: w :: rest → s.core.damage = [] →
    ∃ t, exec (.sub d 48 48) s = .next t ∧ t.core.bank.resq[(0 : Fin 16)] = v - w ∧ t.core.bank.loads = rest) ∧
  (∀ (s : State) (v : Word), s.core.bank.loads = [v] → s.core.damage = [] → ∀ d : OpCode, exec (.sub d 48 48) s = .next { s with held := true }) ∧
  (∀ (s : State) (wn sn size : Bool) (a : BitVec 4) (v w : Word) (rest : List Word), s.actor = .seq → s.mgmt.stage = .stage2 →
    (s.core.side true).length < 32 → s.core.bank.loads = v :: w :: rest → s.core.damage = [] →
    ∃ t e, exec (.cas wn sn a 48 48 size) s = .next t ∧ t.core.side true = s.core.side true ++ [e] ∧ e.caps = [v, w] ∧
      t.core.bank.loads = rest)

/-- Every integer word whose operands can be read and whose destination code is legal completes: its result is pushed and
written, the flow goes on after its cycles, and nothing else changes (R31, R73, R94, R96 to R100). -/
def Obligations.IntegerWords : Prop :=
  ∀ (i : Instr) (d : OpCode) (srcs : List OpCode) (cost : Nat) (f : List Word → Word) (s : State) (vs : List Word) (c : Core),
    integerForm i = some (d, srcs, cost, f) → okDst d = true → s.core.readAll s.cur.val srcs = .ok vs c →
    ∃ t, exec i s = .next t ∧ Written c t.core d (f vs) ∧ CoreKept c t.core ∧ t.core.factor = c.factor ∧
      t.core.pc = (c.level.finish c.pc c.level.ldepth).1 ∧ t.core.seq.ready = s.now + cost ∧ OthersKept s t ∧ Outside s t

/-- Every scalar floating-point word completes in the same way, never traps, and ORs its flags into FSTAT (R101, R102). -/
def Obligations.FloatWords : Prop :=
  ∀ (i : Instr) (d : OpCode) (srcs : List OpCode) (cost : Nat) (f : List Word → Word × FpFlags) (s : State) (vs : List Word) (c : Core),
    floatForm i = some (d, srcs, cost, f) → okDst d = true → s.core.readAll s.cur.val srcs = .ok vs c →
    ∃ t, exec i s = .next t ∧ Written c t.core d (f vs).1 ∧ CoreKept c t.core ∧
      t.core.factor = { c.factor with fstat := c.factor.fstat ||| BitVec.ofNat 64 (f vs).2.bits } ∧
      t.core.pc = (c.level.finish c.pc c.level.ldepth).1 ∧ t.core.seq.ready = s.now + cost ∧ OthersKept s t ∧ Outside s t

/-- An integer or floating-point word traps ILLEGAL on a reserved destination code or a reserved operand code, waits without
any effect while `%ld` is empty, and consumes the error it finds there (R72, R73, R77, R369). -/
def Obligations.ResultWordStops : Prop :=
  ∀ (i : Instr) (d : OpCode) (srcs : List OpCode) (s : State),
    ((∃ cost f, integerForm i = some (d, srcs, cost, f)) ∨ ∃ cost f, floatForm i = some (d, srcs, cost, f)) →
    (s.core.readAll s.cur.val srcs = .illegal → exec i s = .next (s.illegal i)) ∧
    (s.core.readAll s.cur.val srcs = .stall → exec i s = .next { s with held := true }) ∧
    (∀ inj, s.core.readAll s.cur.val srcs = .bad inj → exec i s = .next (s.consumed inj)) ∧
    (∀ vs c, s.core.readAll s.cur.val srcs = .ok vs c → okDst d = false → exec i s = .next (s.illegal i))

/-- Transfers of control (R103, R104, R106): `b`, a taken `bc` and `jr` go to their target, end the loops they leave and let the
next word begin two cycles later; an untaken `bc` flows on; `call` pushes and `ret` pops the return stack.
A transfer traps (R103, R104, R106): ILLEGAL where it stands last in the body of an active loop or its target is no
address of a word, STACK with code 0 for a `call` on a full return stack and with code 1 for a `ret` on an empty one. The outermost level
whose body holds the word and not its target ends with every inner one (R106). -/
def Obligations.Transfers : Prop :=
  (∀ (s : State), s.core.atLoopEnd = false →
     (∀ (disp : BitVec 16) (p : Nat), (p : Int) = s.core.pc + 4 + 4 * disp.toInt → p ≤ 262140 →
       ∃ t, exec (.branch disp) s = .next t ∧ t.core.pc = p ∧ t.core.level = s.core.level.leave s.core.pc p ∧
         t.core.sregs = s.core.sregs ∧ t.core.bank = s.core.bank ∧ t.core.seq.ready = s.now + 2 ∧ OthersKept s t ∧ Outside s t) ∧
     (∀ (cond : BitVec 4) (a : OpCode) (disp : BitVec 16) (p : Nat) (v : Word) (c : Core), s.core.readAll s.cur.val [a] = .ok [v] c →
       condHolds cond v = true → (p : Int) = s.core.pc + 4 + 4 * disp.toInt → p ≤ 262140 →
       ∃ t, exec (.branchCond cond a disp) s = .next t ∧ t.core.pc = p ∧ t.core.level = c.level.leave c.pc p ∧
         t.core.sregs = c.sregs ∧ t.core.bank = c.bank ∧ t.core.seq.ready = s.now + 2 ∧ OthersKept s t ∧ Outside s t) ∧
     (∀ (cond : BitVec 4) (a : OpCode) (disp : BitVec 16) (v : Word) (c : Core), s.core.readAll s.cur.val [a] = .ok [v] c →
       condHolds cond v = false →
       ∃ t, exec (.branchCond cond a disp) s = .next t ∧ t.core.pc = (c.level.finish c.pc c.level.ldepth).1 ∧ CoreKept c t.core ∧
         t.core.sregs = c.sregs ∧ t.core.bank = c.bank ∧ t.core.seq.ready = s.now + 1 ∧ OthersKept s t ∧ Outside s t) ∧
     (∀ (a : OpCode) (v : Word) (c : Core), s.core.readAll s.cur.val [a] = .ok [v] c → v.toNat % 4 = 0 → v.toNat ≤ 262140 →
       ∃ t, exec (.jr a) s = .next t ∧ t.core.pc = v.toNat ∧ t.core.level = c.level.leave c.pc v.toNat ∧ t.core.sregs = c.sregs ∧
         t.core.bank = c.bank ∧ t.core.seq.ready = s.now + 2 ∧ OthersKept s t ∧ Outside s t) ∧
     (∀ (disp : BitVec 20) (p : Nat), (p : Int) = s.core.pc + 4 + 4 * disp.toInt → p ≤ 262140 → s.core.level.rs.length < 16 →
       ∃ t, exec (.call disp) s = .next t ∧ t.core.pc = p ∧ t.core.level = { s.core.level with rs := (s.core.pc + 4) :: s.core.level.rs } ∧
         t.core.sregs = s.core.sregs ∧ t.core.seq.ready = s.now + 2 ∧ OthersKept s t ∧ Outside s t) ∧
     (∀ (p : Nat) (rest : List Nat), s.core.level.rs = p :: rest →
       ∃ t, exec .ret s = .next t ∧ t.core.pc = p ∧ t.core.level = { s.core.level with rs := rest } ∧ t.core.sregs = s.core.sregs ∧
         t.core.seq.ready = s.now + 2 ∧ OthersKept s t ∧ Outside s t)) ∧
  (∀ (s : State),
     (s.core.atLoopEnd = true → ∀ disp disp' cond a, exec (.branch disp) s = .next (s.illegal (.branch disp)) ∧
       exec (.branchCond cond a disp) s = .next (s.illegal (.branchCond cond a disp)) ∧ exec .ret s = .next (s.illegal .ret) ∧
       exec (.jr a) s = .next (s.illegal (.jr a)) ∧ exec (.call disp') s = .next (s.illegal (.call disp'))) ∧
     (s.core.atLoopEnd = false → ∀ disp : BitVec 16, ((s.core.pc : Int) + 4 + 4 * disp.toInt < 0 ∨ 262140 < (s.core.pc : Int) + 4 + 4 * disp.toInt) →
       exec (.branch disp) s = .next (s.illegal (.branch disp)) ∧
       ∀ (cond : BitVec 4) (a : OpCode) (v : Word) (c : Core), s.core.readAll s.cur.val [a] = .ok [v] c → condHolds cond v = true →
         exec (.branchCond cond a disp) s = .next (s.illegal (.branchCond cond a disp))) ∧
     (s.core.atLoopEnd = false → ∀ disp : BitVec 20, ((s.core.pc : Int) + 4 + 4 * disp.toInt < 0 ∨ 262140 < (s.core.pc : Int) + 4 + 4 * disp.toInt) →
       exec (.call disp) s = .next (s.illegal (.call disp))) ∧
     (s.core.atLoopEnd = false → ∀ (a : OpCode) (v : Word) (c : Core), s.core.readAll s.cur.val [a] = .ok [v] c →
       (v.toNat % 4 ≠ 0 ∨ 262140 < v.toNat) → exec (.jr a) s = .next (s.illegal (.jr a))) ∧
     (s.core.atLoopEnd = false → ∀ disp : BitVec 20, 0 ≤ (s.core.pc : Int) + 4 + 4 * disp.toInt →
       (s.core.pc : Int) + 4 + 4 * disp.toInt ≤ 262140 → 16 ≤ s.core.level.rs.length → exec (.call disp) s = .next (s.raiseSeq 6 0)) ∧
     (s.core.atLoopEnd = false → s.core.level.rs = [] → exec .ret s = .next (s.raiseSeq 6 1))) ∧
  (∀ (l : SeqLevel) (p t : Nat),
     (∀ k, k < l.ldepth → l.inBody k p → ¬ l.inBody k t → (∀ j, j < k → l.inBody j p → l.inBody j t) →
       l.leave p t = { l with ldepth := k }) ∧
     ((∀ k, k < l.ldepth → l.inBody k p → l.inBody k t) → l.leave p t = l))

/-- A `loop` that names the next free level opens it over its body, one with a count of 0 goes on behind its body (R105).
The end step of the hardware loops (R105): the body starts again while iterations remain; a level that ends leaves LDEPTH at its number, and the
step is made again for the level outside it, or the flow goes on behind the word where that one ends elsewhere or there is none; a word at no
end lets the flow go on behind it. LOOP_END is this step, without an extra cycle. -/
def Obligations.LoopWords : Prop :=
  (∀ (s : State) (level : BitVec 2) (count : OpCode) (body : BitVec 10) (v : Word) (c : Core),
     s.core.atLoopEnd = false → s.core.readAll s.cur.val [count] = .ok [v] c → level.toNat = c.level.ldepth → v.toNat < 2 ^ 32 →
     c.pc + 4 * body.toNat ≤ 262140 →
     (∀ k, c.level.ldepth = k + 1 → c.pc < (c.level.loopAt k).first ∨ (c.level.loopAt k).last < c.pc ∨
       c.pc + 4 * body.toNat ≤ (c.level.loopAt k).last) →
     (v ≠ 0 → ∃ t, exec (.loop level count body) s = .next t ∧ t.core.pc = c.pc + 4 ∧ t.core.level.ldepth = level.toNat + 1 ∧
       t.core.level.loopAt level.toNat = ⟨c.pc + 4, c.pc + 4 * body.toNat, v.toNat⟩ ∧
       (∀ k, k ≠ level.toNat → t.core.level.loopAt k = c.level.loopAt k) ∧ t.core.level.rs = c.level.rs ∧ t.core.sregs = c.sregs ∧
       t.core.bank = c.bank ∧ t.core.seq.ready = s.now + 1 ∧ OthersKept s t ∧ Outside s t) ∧
     (v = 0 → ∃ t, exec (.loop level count body) s = .next t ∧
       t.core.pc = (c.level.finish (c.pc + 4 * body.toNat) c.level.ldepth).1 ∧
       t.core.level = (c.level.finish (c.pc + 4 * body.toNat) c.level.ldepth).2 ∧ t.core.sregs = c.sregs ∧ t.core.bank = c.bank ∧
       t.core.seq.ready = s.now + 1 ∧ OthersKept s t ∧ Outside s t)) ∧
  ((∀ (s : State) (p : Nat), ∃ t, exec (.loopEnd p) s = .next t ∧ t.core.pc = (s.core.level.finish p s.core.level.ldepth).1 ∧
     t.core.level = (s.core.level.finish p s.core.level.ldepth).2 ∧ t.core.sregs = s.core.sregs ∧ t.core.bank = s.core.bank ∧
     t.core.seq = s.core.seq ∧ OthersKept s t ∧ Outside s t) ∧
   ∀ (l : SeqLevel) (p : Nat), l.ldepth ≤ 4 →
     (l.ldepth = 0 → l.finish p l.ldepth = (p + 4, l)) ∧
     (∀ k, l.ldepth = k + 1 → (l.loopAt k).last ≠ p → l.finish p l.ldepth = (p + 4, l)) ∧
     (∀ k, l.ldepth = k + 1 → (l.loopAt k).last = p → 1 < (l.loopAt k).rem →
       (l.finish p l.ldepth).1 = (l.loopAt k).first ∧ ((l.finish p l.ldepth).2.loopAt k).rem = (l.loopAt k).rem - 1 ∧
         (l.finish p l.ldepth).2.ldepth = l.ldepth ∧ (l.finish p l.ldepth).2.rs = l.rs ∧
         ∀ j, j ≠ k → (l.finish p l.ldepth).2.loopAt j = l.loopAt j) ∧
     (l.ldepth = 1 → (l.loopAt 0).last = p → (l.loopAt 0).rem ≤ 1 → l.finish p l.ldepth = (p + 4, { l with ldepth := 0 })) ∧
     (∀ k, l.ldepth = k + 2 → (l.loopAt (k + 1)).last = p → (l.loopAt (k + 1)).rem ≤ 1 → (l.loopAt k).last ≠ p →
       l.finish p l.ldepth = (p + 4, { l with ldepth := k + 1 })) ∧
     (∀ k, l.ldepth = k + 1 → (l.loopAt k).last = p → (l.loopAt k).rem ≤ 1 →
       l.finish p l.ldepth = SeqLevel.finish { l with ldepth := k } p k))

end

section

open Sys2Proof Sys2Proof.Machine

/-! ### System registers -/

/-- `srr` reads every register of R92 as the state holds it; one that the CQ updates waits until that is empty, one that the LQ updates until
that is, and a number that is not listed traps ILLEGAL. -/
def Obligations.SystemRegisterRead : Prop :=
  ∀ (s : State) (d : OpCode) (reg : BitVec 14),
    (∀ v, s.sysReg reg.toNat = some v → s.core.readStalls reg.toNat = false → okDst d = true →
      ∃ t, exec (.srr d reg) s = .next t ∧ Written s.core t.core d v ∧ CoreKept s.core t.core ∧ t.core.factor = s.core.factor ∧
        t.core.pc = (s.core.level.finish s.core.pc s.core.level.ldepth).1 ∧ t.core.seq.ready = s.now + 1 ∧ OthersKept s t ∧ Outside s t) ∧
    ((reg = 0x30 ∨ reg = 0x31 ∨ reg = 0x32 ∨ reg = 0x33) → s.core.queues.cq ≠ [] → exec (.srr d reg) s = .next { s with held := true }) ∧
    ((reg = 0x00 ∨ reg = 0x01 ∨ reg = 0x38) → s.core.queues.lq ≠ [] → exec (.srr d reg) s = .next { s with held := true }) ∧
    (s.sysReg reg.toNat = none → exec (.srr d reg) s = .next (s.illegal (.srr d reg))) ∧
    s.sysReg 0x00 = some (s.core.sys.ctx.zeroExtend 64) ∧ s.sysReg 0x01 = some (s.core.sys.xtag.zeroExtend 64) ∧
    s.sysReg 0x02 = some (BitVec.ofNat 64 s.cur.val) ∧ s.sysReg 0x03 = some (BitVec.ofNat 64 (s.cur.val / 12 % 2)) ∧
    s.sysReg 0x04 = some (BitVec.ofNat 64 (s.cur.val / 24)) ∧
    s.sysReg 0x08 = some (BitVec.ofNat 64 (s.now - s.core.seq.start - s.core.seq.frozen)) ∧
    s.sysReg 0x09 = some (BitVec.ofNat 64 s.clock.gts) ∧
    (∃ m, s.sysReg 0x10 = some m ∧ m.getLsbD 0 = s.core.chk ∧ m.getLsbD 1 = s.core.tl ∧ m.getLsbD 2 = s.core.itemFlag Item.log ∧
      m.getLsbD 3 = s.core.itemFlag Item.replay ∧ m.getLsbD 4 = s.mgmt.rasMode.getLsbD s.cur.val ∧ m.toNat < 32) ∧
    s.sysReg 0x20 = some s.core.trapRegs.cause ∧
    s.sysReg 0x21 = some s.core.trapRegs.info ∧ s.sysReg 0x22 = some s.core.trapRegs.pc ∧ s.sysReg 0x23 = some s.core.trapRegs.va ∧
    (∀ k, k < 4 → s.sysReg (0x24 + k) = some (BitVec.ofNat 64 (bitsAt s.core.trapRegs.clause (64 * k) 64))) ∧
    s.sysReg 0x30 = some s.core.factor.fcol ∧ s.sysReg 0x31 = some s.core.factor.fstat ∧ s.sysReg 0x32 = some s.core.factor.grow ∧
    s.sysReg 0x33 = some s.core.factor.bkval ∧ s.sysReg 0x34 = some s.core.factor.pivdst ∧ s.sysReg 0x38 = some s.core.sys.mprog ∧
    s.sysReg 0x40 = some (s.core.sys.livemap.zeroExtend 64) ∧ s.sysReg 0x41 = some s.core.sys.savearea ∧
    s.sysReg 0x42 = some s.core.sys.spbase ∧ s.sysReg 0x43 = some s.core.sys.landbase

/-- `srw` writes a register that may be written: the value is read back but for the bits its map reserves, no other system register, no
s-register and no result-queue entry changes, and the flow goes on after one cycle (R87, R92, R93, R108, R181). A write of FSTAT or PIVDST waits
until the CQ is empty, and one of MODE that changes CHK until every queue is.
`srw` of a register that only reads, of one that is not listed, or below trap level 1 of one that only a handler may write,
traps ILLEGAL (R92, R108). -/
def Obligations.SystemRegisterWrite : Prop :=
  (∀ (s : State) (a : OpCode) (reg : BitVec 14) (v : Word) (c : Core),
     s.core.readAll s.cur.val [a] = .ok [v] c → c.writeStalls reg.toNat v = false →
     (sysAccess reg.toNat = .rw ∨ (sysAccess reg.toNat = .trapLevel ∧ s.core.tl = true)) →
     ∃ t, exec (.srw a reg) s = .next t ∧ t.core.sregs = c.sregs ∧ t.core.bank = c.bank ∧ t.core.aregs = c.aregs ∧
       t.core.arrays = c.arrays ∧ t.core.queues = c.queues ∧ t.core.level.rs = c.level.rs ∧
       t.core.pc = (c.level.finish c.pc c.level.ldepth).1 ∧ t.core.seq.ready = s.now + 1 ∧ OthersKept s t ∧ Outside s t ∧
       (∀ m, m ≠ reg.toNat → t.sysReg m = s.sysReg m) ∧
       (reg = 0x10 → t.core.chk = v.getLsbD 0) ∧
       (reg ≠ 0x10 → t.core.chk = c.chk) ∧
       (reg = 0x22 → t.core.trapRegs.pc = BitVec.ofNat 64 (bitsAt v 2 16 * 4)) ∧
       (reg = 0x24 → t.sysReg 0x24 = some v) ∧ (reg = 0x25 → t.sysReg 0x25 = some v) ∧ (reg = 0x26 → t.sysReg 0x26 = some v) ∧
       (reg = 0x27 → ∃ x, t.sysReg 0x27 = some x ∧ bitsAt x 0 54 = bitsAt v 0 54 ∧ x.getLsbD 63 = v.getLsbD 63 ∧
         bitsAt x 54 9 = bitsAt c.trapRegs.clause 246 9) ∧
       (reg = 0x31 → bitsAt t.core.factor.fstat 0 5 = bitsAt v 0 5 ∧ bitsAt t.core.factor.fstat 16 16 = bitsAt v 16 16 ∧
         bitsAt t.core.factor.fstat 8 4 = (if 5 ≤ bitsAt v 8 4 then 0 else bitsAt v 8 4) ∧ bitsAt t.core.factor.fstat 5 3 = 0 ∧
         bitsAt t.core.factor.fstat 12 4 = 0 ∧ bitsAt t.core.factor.fstat 32 32 = 0) ∧
       (reg = 0x34 → t.core.factor.pivdst = BitVec.ofNat 64 (bitsAt v 0 10)) ∧
       (reg = 0x38 → t.core.sys.mprog = BitVec.ofNat 64 (bitsAt v 0 16)) ∧
       (reg = 0x41 → t.core.sys.savearea.getLsbD 0 = v.getLsbD 0 ∧ bitsAt t.core.sys.savearea 12 45 = bitsAt v 12 45) ∧
       (reg = 0x42 → t.core.sys.spbase.getLsbD 0 = v.getLsbD 0 ∧ bitsAt t.core.sys.spbase 23 34 = bitsAt v 23 34) ∧
       (reg = 0x43 → t.core.sys.landbase = BitVec.ofNat 64 (bitsAt v 4 19 * 16))) ∧
  (∀ (s : State) (a : OpCode) (reg : BitVec 14) (v : Word) (c : Core), s.core.readAll s.cur.val [a] = .ok [v] c →
     ((reg = 0x31 ∨ reg = 0x34) ∧ c.queues.cq ≠ [] ∨ reg = 0x10 ∧ v.getLsbD 0 ≠ c.chk ∧ c.queuesEmpty = false) →
     exec (.srw a reg) s = .next { s with held := true }) ∧
  (∀ (s : State) (a : OpCode) (reg : BitVec 14),
     (sysAccess reg.toNat = .ro ∨ sysAccess reg.toNat = .absent ∨ (sysAccess reg.toNat = .trapLevel ∧ s.core.tl = false)) →
     exec (.srw a reg) s = .next (s.illegal (.srw a reg)))

/-! ### The control group -/

/-- `nop` only moves the flow on; `done` lets nothing follow, discards a pending clause and waits for the drain; a `safept` at trap
level 1, or with a valid live map and nothing asked of the item, notes its map and moves on; `waitsc` waits until SCHED reaches its
target, and past it moves on (R110, R113, R115, R359). -/
def Obligations.ControlWords : Prop :=
  ∀ (s : State),
    (∃ t, exec .nop s = .next t ∧ t.core.pc = (s.core.level.finish s.core.pc s.core.level.ldepth).1 ∧ CoreKept s.core t.core ∧
      t.core.sregs = s.core.sregs ∧ t.core.bank = s.core.bank ∧ t.core.factor = s.core.factor ∧ t.core.seq.ready = s.now + 1 ∧
      OthersKept s t ∧ Outside s t) ∧
    (∃ t, exec .done s = .next t ∧ t.core.seq.mode = .draining ∧ t.core.clause.valid = false ∧ t.core.pc = s.core.pc ∧
      t.core.sregs = s.core.sregs ∧ t.core.bank = s.core.bank ∧ t.core.queues = s.core.queues ∧ OthersKept s t ∧ Outside s t) ∧
    (∀ n : BitVec 6, s.core.tl = true → ∃ t, exec (.safept n) s = .next t ∧ CoreKept s.core t.core ∧ t.core.sregs = s.core.sregs ∧
      t.core.pc = (s.core.level.finish s.core.pc s.core.level.ldepth).1 ∧ OthersKept s t ∧ Outside s t) ∧
    (∀ (n : BitVec 6) (img : ImageInfo), s.core.tl = false → s.core.image = some img → n.toNat < img.lmcount →
      liveMapOk s.core (s.core.arrays.livemaps.getD n.toNat 0) = true → s.core.irq = false → s.core.prq = false →
      ∃ t, exec (.safept n) s = .next t ∧ t.core.sys = { s.core.sys with livemap := n } ∧ t.core.sregs = s.core.sregs ∧
        t.core.bank = s.core.bank ∧ t.core.pc = (s.core.level.finish s.core.pc s.core.level.ldepth).1 ∧ OthersKept s t ∧ Outside s t) ∧
    (∀ (a : OpCode) (k : BitVec 14) (v : Word) (c : Core), s.core.readAll s.cur.val [a] = .ok [v] c →
      (v.toNat + k.toNat ≤ s.sched s.core → ∃ t, exec (.waitsc a k) s = .next t ∧ CoreKept c t.core ∧ t.core.sregs = c.sregs ∧
        t.core.pc = (c.level.finish c.pc c.level.ldepth).1 ∧ OthersKept s t ∧ Outside s t) ∧
      (s.sched s.core < v.toNat + k.toNat → ∃ t, exec (.waitsc a k) s = .next t ∧ t.core.pc = s.core.pc ∧ t.core.bank = s.core.bank ∧
        t.core.seq.ready = s.now + (v.toNat + k.toNat - s.sched s.core) ∧ OthersKept s t ∧ Outside s t))

/-- A `safept` inside an item that may be pre-empted takes the request, SCHED standing as it is (R67, R113), and with an interrupt asked for takes the PREEMPT trap with
TRAPINFO 1 (R358, R359). -/
def Obligations.SafeptTakesRequests : Prop :=
  ∀ (s : State) (n : BitVec 6) (img : ImageInfo), s.core.tl = false → s.core.image = some img → n.toNat < img.lmcount →
    liveMapOk s.core (s.core.arrays.livemaps.getD n.toNat 0) = true →
    (s.core.irq = false → s.core.prq = true → s.core.preemptible = true → s.core.phase = none →
      ∃ t, exec (.safept n) s = .next t ∧ t.core.seq.mode = .preempting n (s.sched s.core) ∧ t.core.sys.livemap = n ∧ t.core.pc = s.core.pc ∧
        t.core.sregs = s.core.sregs ∧ OthersKept s t ∧ Outside s t) ∧
    (s.core.irq = true → s.core.interruptible = true → img.handler = true → s.core.queuesEmpty = true → s.wire = false →
      ∃ t, exec (.safept n) s = .next t ∧ t.core.irq = false ∧ t.core.tl = true ∧ t.core.trapRegs.cause = 8 + 4 * 256 ∧
        t.core.trapRegs.info = 1 ∧ t.core.trapRegs.pc = BitVec.ofNat 64 (s.core.pc % 2 ^ 18 / 4 * 4) ∧ t.core.pc = img.trapvec)

/-! ### Traps -/

/-- What trap entry leaves (R351): cause, information, address, the pc of the word that trapped at the sequencer, of the first word not yet
routed where a queue raised it, or where the flow goes on behind a trap word (R111), and the clause are saved, an interrupt's request is cleared (R358), the handler runs at
trap level 1 from its vector with empty queues, an empty load-return queue and no tokens, and what the queues held is set aside. -/
structure TrapTaken (c c' : Core) (t : TrapReq) (trapvec : Nat) : Prop where
  cause : c'.trapRegs.cause = BitVec.ofNat 64 (t.cause + t.src * 256)
  info : c'.trapRegs.info = t.info
  pc : ∀ p, t.flow = none → t.pc = some p → c'.trapRegs.pc = BitVec.ofNat 64 (p % 2 ^ 18 / 4 * 4)
  routed : t.flow = none → t.pc = none → c'.trapRegs.pc = BitVec.ofNat 64 (c.pc % 2 ^ 18 / 4 * 4)
  va : c'.trapRegs.va = t.va.getD c.trapRegs.va
  flow : ∀ f, t.flow = some f → c'.trapRegs.pc = BitVec.ofNat 64 (f.1 % 2 ^ 18 / 4 * 4) ∧ c'.level0 = f.2
  clause : c'.trapRegs.clause = c.clause.saved ∧ c'.clause.valid = false
  level : c'.tl = true ∧ c'.pc = trapvec ∧ c'.level1 = SeqLevel.empty ∧ (t.flow = none → c'.level0 = c.level0)
  bank : c'.bank1.loads = [] ∧ c'.bank1.tok = Tokens.zero ∧ c'.bank1.resq = c.bank1.resq ∧ c'.bank0 = c.bank0
  queues : c'.queues.lq = [] ∧ c'.queues.cq = [] ∧ c'.queues.sq = [] ∧ c'.queues.unplaced = [] ∧
    c'.queues.parkL = c.queues.lq.map QEntry.afresh ∧ c'.queues.parkC = (c.queues.cq ++ c.queues.unplaced).map QEntry.afresh ∧
    c'.queues.parkS = c.queues.sq.map QEntry.afresh
  kept : c'.sregs = c.sregs ∧ c'.aregs = c.aregs ∧ c'.arrays = c.arrays ∧ c'.factor = c.factor ∧ c'.sys = c.sys ∧ c'.ports = c.ports ∧
    c'.bufs = c.bufs
  irq : c'.irq = if t.cause = 8 then false else c.irq

/-- A trap raised at trap level 0 of an item with a handler enters the handler once every queue is still, and the stall wire has dropped if it
stood when the trap was raised (R348); an atomic that is set aside holds for no turn in replay.
Without a handler, or at trap level 1, a trap ends the item with FAULT: a TERM event with the trap's cause, place and address and a
termination follow (R352), and TRAPCAUSE and its fellows stand as they were (log entry 39). -/
def Obligations.TrapEntryEffect : Prop :=
  (∀ (s : State) (t : TrapReq) (img : ImageInfo), s.core.image = some img → img.handler = true → s.core.tl = false →
     (TrapTaken s.core (s.takeTrap t).core t img.trapvec ∧ OthersKept s (s.takeTrap t) ∧ Outside s.letGo (s.takeTrap t)) ∧
     (s.core.seq.trap = some t → s.core.isEnding = false → (t.wired = false ∧ s.core.xlatPending = false ∨ s.wireHolds = false) →
       s.lqStill = true → s.cqStill = true → s.sqStill = true → exec .trapEntry s = .next (s.takeTrap t))) ∧
  (∀ (s : State) (t : TrapReq), (s.core.image = none ∨ (∃ img, s.core.image = some img ∧ img.handler = false) ∨ s.core.tl = true) →
     (∃ p ∈ (s.takeTrap t).agenda,
       p.instr = .termination s.cur 2 (if t.cause = 4 then 0 else 5) ∧ p.due = s.now ∧
         (s.takeTrap t).core.trapRegs = s.core.trapRegs ∧ (s.takeTrap t).core.sregs = s.core.sregs) ∧
     ∃ r ∈ (s.takeTrap t).mgmt.internalLog, bitsAt r 64 8 = s.cur.val ∧ bitsAt r 72 8 = 7 ∧
       bitsAt r 128 64 = (t.va.getD s.core.trapRegs.va).toNat ∧ bitsAt r 192 8 = t.cause % 256 ∧ bitsAt r 200 3 = t.src % 8 ∧
       bitsAt r 204 16 = t.resumeAt s.core / 4 % 2 ^ 16 ∧ bitsAt r 222 34 = t.info.toNat % 2 ^ 34)

/-- The trap words (R111): with still queues, no stall wire (R348) and a handler `trap` and `brk` enter it with cause SOFTWARE, their code as TRAPINFO,
bit 14 telling `brk` apart, and TRAPPC where the flow goes next.
An encoding outside the listing traps ILLEGAL with the word as TRAPINFO (R77, R347). -/
def Obligations.TrapWords : Prop :=
  (∀ (s : State) (code : BitVec 14) (img : ImageInfo), s.core.image = some img → img.handler = true → s.core.tl = false →
     s.core.queuesEmpty = true → s.wire = false →
     (∃ t, exec (.trap code) s = .next t ∧ t.core.trapRegs.cause = 7 ∧ t.core.trapRegs.info = code.zeroExtend 64 ∧ t.core.tl = true ∧
       t.core.trapRegs.pc = BitVec.ofNat 64 ((s.core.level.finish s.core.pc s.core.level.ldepth).1 % 2 ^ 18 / 4 * 4) ∧
       t.core.pc = img.trapvec ∧ t.core.sregs = s.core.sregs ∧ OthersKept s t ∧ Outside s.letGo t) ∧
     (∃ t, exec (.brk code) s = .next t ∧ t.core.trapRegs.cause = 7 ∧ t.core.trapRegs.info = BitVec.ofNat 64 (2 ^ 14 + code.toNat) ∧
       t.core.trapRegs.pc = BitVec.ofNat 64 ((s.core.level.finish s.core.pc s.core.level.ldepth).1 % 2 ^ 18 / 4 * 4) ∧
       t.core.tl = true ∧ t.core.pc = img.trapvec ∧ t.core.sregs = s.core.sregs ∧ OthersKept s t ∧ Outside s.letGo t)) ∧
  (∀ (s : State) (w : IWord) (img : ImageInfo), s.core.image = some img → img.handler = true → s.core.tl = false →
     s.core.queuesEmpty = true → s.wire = false →
     ∃ t, exec (.illegalWord w) s = .next t ∧ t.core.trapRegs.cause = 1 ∧ t.core.trapRegs.info = w.zeroExtend 64 ∧
       t.core.trapRegs.pc = BitVec.ofNat 64 (s.core.pc % 2 ^ 18 / 4 * 4) ∧ t.core.tl = true ∧ t.core.pc = img.trapvec ∧
       t.core.sregs = s.core.sregs ∧ OthersKept s t ∧ Outside s.letGo t)

/-- The return from a trap (R112, R353): the handler's queues being empty, the flow goes on at TRAPPC at trap level 0, the clause
and the entries that were set aside come back, those for which their queue has no room yet waiting in front of it, and the level-1
load-return queue is emptied. -/
def Obligations.ReturnFromTrap : Prop :=
  ∀ (s : State), s.core.tl = true → s.core.atLoopEnd = false → s.core.queuesEmpty = true →
    ∃ t, exec .eret s = .next t ∧ t.core.tl = false ∧ t.core.pc = bitsAt s.core.trapRegs.pc 2 16 * 4 ∧
      t.core.clause = Clause.restored s.core.trapRegs.clause ∧ t.core.bank1.loads = [] ∧ t.core.bank0 = s.core.bank0 ∧
      t.core.sregs = s.core.sregs ∧ t.core.aregs = s.core.aregs ∧ t.core.level0 = s.core.level0 ∧
      (s.core.queues.parkL.length ≤ 32 → t.core.queues.lq = s.core.queues.parkL) ∧
      (s.core.queues.parkS.length ≤ 32 → t.core.queues.sq = s.core.queues.parkS) ∧
      t.core.queues.cq = s.core.queues.parkC.take 64 ∧ t.core.queues.unplaced = s.core.queues.parkC.drop 64 ∧
      t.core.queues.parkL = [] ∧ t.core.queues.parkC = [] ∧ t.core.queues.parkS = [] ∧
      t.core.trapRegs = s.core.trapRegs ∧ OthersKept s t ∧ Outside s t

/-! ### Protected phases and injected errors -/

/-- `phb` opens a phase with its snapshot, `phc` begins its hold, and the commit lets the deferred slot actions take effect and closes
the phase (R374, R376). -/
def Obligations.ProtectedPhase : Prop :=
  ∀ (s : State),
    (s.core.phase = none → s.core.tl = false → s.core.queuesEmpty = true →
      ∃ t r, exec .phb s = .next t ∧ t.core.phase = some r ∧ r.restart = s.core.pc ∧ r.cancelled = false ∧ r.tok = s.core.bank0.tok ∧
        r.level = s.core.level0 ∧ r.clause = s.core.clause ∧ r.deferred = [] ∧ t.core.sregs = s.core.sregs ∧
        t.core.pc = (s.core.level.finish s.core.pc s.core.level.ldepth).1 ∧ OthersKept s t ∧ Outside s t) ∧
    (∀ r, s.core.phase = some r → s.core.tl = false → s.core.queuesEmpty = true →
      ∃ t, exec .phc s = .next t ∧ t.core.seq.mode = .phcHold r.lastDone ∧ t.core.pc = s.core.pc ∧ t.core.sregs = s.core.sregs ∧
        OthersKept s t ∧ Outside s t) ∧
    (∀ r n, s.core.phase = some r → r.cancelled = false → s.core.queuesEmpty = true → s.core.seq.mode = .phcHold n →
      (s.now < r.lastDone + 750 → exec .phaseCommit s = .next { s with held := true }) ∧
      (r.lastDone + 750 ≤ s.now → ∃ t, exec .phaseCommit s = .next t ∧ t.core.phase = none ∧ t.core.seq.mode = .run ∧
        t.core.bufs = (r.deferred.foldl Core.settleSlot s.core).bufs ∧ t.core.sregs = s.core.sregs ∧ OthersKept s t ∧ Outside s t)) ∧
    (s.core.phase = none → exec .phc s = .next (s.illegal .phc))

/-- `inj` under MODE.RAS plants an error in the scratchpad word or the VRF register its operand names and pushes 1; without MODE.RAS
it traps ILLEGAL (R116, R373). -/
def Obligations.Injection : Prop :=
  ∀ (s : State) (a : OpCode) (kind : BitVec 2) (v : Word) (c : Core), kind.toNat < 2 → s.core.readAll s.cur.val [a] = .ok [v] c →
    (∀ target, s.mgmt.rasMode.getLsbD s.cur.val = false → exec (.inj a kind target) s = .next (s.illegal (.inj a kind target))) ∧
    (s.mgmt.rasMode.getLsbD s.cur.val = true → v.toNat < 2 ^ 23 → s.mem.mark 3 s.cur.val (v.toNat / 8) = none →
      ∃ t k, exec (.inj a kind 3) s = .next t ∧ t.mem.mark 3 s.cur.val (v.toNat / 8) = some k ∧ k.double = (kind == 1) ∧
        k.injected = true ∧ t.core.bank.resq[(0 : Fin 16)] = 1 ∧ t.core.sregs = c.sregs ∧ t.mem.dram = s.mem.dram) ∧
    (s.mgmt.rasMode.getLsbD s.cur.val = true → v.toNat < 1024 → s.mem.mark 4 s.cur.val (v.toNat * 512) = none →
      ∃ t k, exec (.inj a kind 4) s = .next t ∧ t.mem.mark 4 s.cur.val (v.toNat * 512) = some k ∧ k.double = (kind == 1) ∧
        k.injected = true ∧ t.core.bank.resq[(0 : Fin 16)] = 1 ∧ t.core.sregs = c.sregs ∧ t.mem.dram = s.mem.dram)

end

namespace Sys2Proof.Machine

open Sys2Proof

/-! ### Words of the Access Sequencer: what the statements name -/

/-- The instruction `i` stands at the head of a side as entry `e`, has not begun, and everything it needs to begin is there: its
token, the stall wire down, room in the load-return queue and in the request table, its engine free, no phase that forbids it, and no error in
its entry (R69, R78, R79, R202, R367, R374). -/
structure CanStart (s : State) (lq delivers forbidden : Bool) (i : Instr) (e : QEntry) (rest : List QEntry) : Prop where
  unit : s.actor = if lq then .lq else .sq
  head : s.core.side lq = e :: rest
  instr : e.instr = i
  waiting : e.state = .waiting
  token : e.waits lq = true → s.core.hasToken lq = true
  wire : s.wireHolds = false
  table : s.core.tableRoom e (s.core.areg (storeBase i)) = true
  sound : s.core.damageIn partQueue e.order 1 = none
  room : delivers = true → s.core.bank.loads.length < 64
  free : (if lq then s.core.units.lqNext else s.core.units.sqNext) ≤ s.now
  phase : forbidden = true → s.core.phaseForbids = false

/-- The entry as it stands while its instruction runs: it keeps the value that its address register had at the start (R196), and the bindings
as they stood then (R209, R322 note 5). -/
def QEntry.running (e : QEntry) (s : State) : QEntry :=
  { e with state := .begun, base := s.core.areg (storeBase e.instr), ties := s.core.bindings }

/-- The state in which the instruction at the head of a side runs: it has taken its token and its engine's cycle. -/
def State.started (s : State) (lq : Bool) (e : QEntry) (rest : List QEntry) : State :=
  let c := if e.waits lq then s.core.takeToken lq else s.core
  let c := { c with units := if lq then { c.units with lqNext := s.now + 1 } else { c.units with sqNext := s.now + 1 } }
  s.withCore (c.setSide lq (e.running s :: rest))

/-- From the state `u` an instruction that delivers nothing has left its queue, or stands completed with a push that no counter has
room for; everything else is as in `u` (R78, R79). -/
structure Completed (u t : State) (lq : Bool) (e : QEntry) : Prop where
  left : (e.signals lq && !u.core.canPush lq) = false → t.core.side lq = (u.core.side lq).drop 1
  stands : (e.signals lq && !u.core.canPush lq) = true →
    ∃ base ties, t.core.side lq = { e with state := .pushing (!lq) lq, base := base, ties := ties } :: (u.core.side lq).drop 1
  other : t.core.side (!lq) = u.core.side (!lq)
  loads : t.core.bank.loads = u.core.bank.loads
  pushed : t.core.bank.tok.lqcq = u.core.bank.tok.lqcq + natOfBool (lq && e.signals lq && u.core.canPush lq) ∧
    t.core.bank.tok.sqcq = u.core.bank.tok.sqcq + natOfBool (!lq && e.signals lq && u.core.canPush lq)
  taken : t.core.bank.tok.cqlq = u.core.bank.tok.cqlq ∧ t.core.bank.tok.cqsq = u.core.bank.tok.cqsq
  cq : t.core.queues.cq = u.core.queues.cq
  seq : t.core.seq = u.core.seq
  clause : t.core.clause = u.core.clause
  mode : t.core.tl = u.core.tl ∧ t.core.chk = u.core.chk
  levels : t.core.level0 = u.core.level0 ∧ t.core.level1 = u.core.level1
  resq : t.core.bank.resq = u.core.bank.resq
  sregs : t.core.sregs = u.core.sregs
  aregs : t.core.aregs = u.core.aregs
  pc : t.core.pc = u.core.pc
  arrays : t.core.arrays = u.core.arrays
  sys : t.core.sys = u.core.sys
  factor : t.core.factor = u.core.factor
  trapRegs : t.core.trapRegs = u.core.trapRegs
  ports : t.core.ports = u.core.ports
  bufs : t.core.bufs = u.core.bufs
  bindings : t.core.bindings = u.core.bindings
  channels : t.core.channels = u.core.channels
  rows : t.core.rows = u.core.rows
  mem : t.mem = u.mem
  control : t.control = u.control
  directory : t.tags.tags = u.tags.tags ∧ t.tags.dir = u.tags.dir
  mgmt : t.mgmt = u.mgmt
  sites : t.sites = u.sites
  cores : ∀ j : Fin 96, j ≠ u.cur → t.cores[j] = u.cores[j]

/-- The same with a value delivered to the load-return queue (R201). -/
def Delivered (u t : State) (e : QEntry) (v : Word) : Prop :=
  ∃ w, Completed w t true e ∧ w = u.withCore (u.core.setBank { u.core.bank with loads := u.core.bank.loads ++ [v] })

/-- A byte of memory as a core's access finds it at the home slice. -/
def State.byteAt (s : State) (pa : Nat) : Byte := (lineBytes (s.mem.lineAt (pa / 64)) (pa % 64) 1).headD 0

/-- The line is in its home slice without an error, or the slice and the Cistern set have room for it and the Cistern's copy holds no error. -/
def State.lineFits (s : State) (key : Nat) : Prop :=
  ((s.mem.l2At key).isSome = true ∧ s.mem.mark 1 0 key = none) ∨
    ((s.mem.l2.filter fun l => sliceOfLine l.key == sliceOfLine key).length < 16 ∧ s.mem.mark 0 0 key = none ∧
      ((s.mem.cisternAt key).isSome = true ∨
        (s.mem.cistern.filter fun l => lineSite l.key == lineSite key && cisternSet l.key == cisternSet key).length <
          s.mem.ways (lineSite key) (cisternSet key)))

/-- Queue-class words: whether the LQ takes them, and the operand codes that are captured when they are routed (R74, R75). -/
def routedForm : Instr → Option (Bool × List OpCode)
  | .amov _ _ _ x | .aadd _ _ _ x => some (true, [x])
  | .aaddi .. | .aget .. => some (true, [])
  | .ldB _ _ _ x _ | .ldBu _ _ _ x _ | .ldH _ _ _ x _ | .ldHu _ _ _ x _ | .ldW _ _ _ x _ | .ldWu _ _ _ x _ | .ldD _ _ _ x _
  | .ldroW _ _ _ x _ | .ldroD _ _ _ x _ | .ldxW _ _ _ x _ | .ldxD _ _ _ x _ => some (true, [x])
  | .lv .. | .pset .. | .cbset .. | .tdef .. | .bind .. | .unbind .. | .fence .. | .roinv .. | .tbarr .. | .tbtest .. => some (true, [])
  | .mld _ _ _ _ x | .roinvRange _ _ _ x | .acq _ _ _ x _ | .clean _ _ _ x _ | .pf _ _ _ x _ => some (true, [x])
  | .tbinit _ _ _ x _ | .tbexp _ _ _ x _ | .tbarrexp _ _ _ x _ | .tbwait _ _ _ x _ => some (true, [x])
  | .amoAdd _ _ _ x _ _ _ _ _ | .amoAnd _ _ _ x _ _ _ _ _ | .amoOr _ _ _ x _ _ _ _ _ | .amoXor _ _ _ x _ _ _ _ _
  | .amoMin _ _ _ x _ _ _ _ _ | .amoMax _ _ _ x _ _ _ _ _ | .amoMinu _ _ _ x _ _ _ _ _ | .amoMaxu _ _ _ x _ _ _ _ _
  | .amoSwap _ _ _ x _ _ _ _ _ => some (true, [x])
  | .amoFadd _ _ _ x _ _ _ _ | .amoFmin _ _ _ x _ _ _ _ | .amoFmax _ _ _ x _ _ _ _ => some (true, [x])
  | .cas _ _ _ x y _ => some (true, [x, y])
  | .tagnew .. | .tagnewNb .. => some (true, [])
  | .tagret _ _ x _ | .ctxset _ _ x | .xtagset _ _ x => some (true, [x])
  | .stB _ _ _ x _ | .stH _ _ _ x _ | .stW _ _ _ x _ | .stD _ _ _ x _ | .relD _ _ _ x _ | .stxW _ _ _ x _ | .stxD _ _ _ x _ =>
    some (false, [x])
  | .sv .. | .rowcopy .. | .rowfill .. | .rowand .. | .rowor .. | .rowxor .. | .rownot .. | .rowmaj .. => some (false, [])
  | _ => none

/-- Loads (R205, R206, R266): base, displacement, bytes, whether the value is signed, and the kind of access. -/
def loadForm : Instr → Option (BitVec 4 × BitVec 8 × Nat × Bool × Kind)
  | .ldB _ _ a _ k => some (a, k, 1, true, .read)
  | .ldBu _ _ a _ k => some (a, k, 1, false, .read)
  | .ldH _ _ a _ k => some (a, k, 2, true, .read)
  | .ldHu _ _ a _ k => some (a, k, 2, false, .read)
  | .ldW _ _ a _ k => some (a, k, 4, true, .read)
  | .ldWu _ _ a _ k => some (a, k, 4, false, .read)
  | .ldD _ _ a _ k => some (a, k, 8, false, .read)
  | .ldroW _ _ a _ k => some (a, k, 4, true, .ro)
  | .ldroD _ _ a _ k => some (a, k, 8, false, .ro)
  | .ldxW _ _ a _ k => some (a, k, 4, true, .xread)
  | .ldxD _ _ a _ k => some (a, k, 8, false, .xread)
  | _ => none

/-- Stores (R208, R266): base, displacement, bytes and kind. -/
def storeForm : Instr → Option (BitVec 4 × BitVec 8 × Nat × Kind)
  | .stB _ _ a _ k => some (a, k, 1, .write)
  | .stH _ _ a _ k => some (a, k, 2, .write)
  | .stW _ _ a _ k => some (a, k, 4, .write)
  | .stD _ _ a _ k => some (a, k, 8, .write)
  | .stxW _ _ a _ k => some (a, k, 4, .xwrite)
  | .stxD _ _ a _ k => some (a, k, 8, .xwrite)
  | _ => none

/-- The effective address of a load: A[a] + operand + displacement × bytes. -/
def loadAddress (c : Core) (a : BitVec 4) (index : Word) (k : BitVec 8) (n : Nat) : Word :=
  c.areg a + index + k.signExtend 64 * BitVec.ofNat 64 n

/-- The tag an access is translated under (R199). -/
def tagOf (c : Core) (k : Kind) : Tag := if k = .xread ∨ k = .xwrite then c.sys.xtag else c.sys.ctx

/-- An aligned 8-byte load or store, `ldro` excepted, may reach an engine, and a plain one a register (R231, R274). -/
def reaches (n : Nat) (k : Kind) (ea : Word) : Bool := n == 8 && k != .ro && ea.toNat % 8 == 0

/-- The value of loaded bytes, extended to 64 bits. -/
def loadedValue (n : Nat) (signed : Bool) (bs : List Byte) : Word :=
  if signed then (BitVec.ofNat (8 * n) (leNat bs)).signExtend 64 else BitVec.ofNat 64 (leNat bs)

/-- No run is a register or an engine of the core. -/
def plainRuns (segs : List Seg) : Prop := ∀ g ∈ segs, (∀ o, g.target ≠ .reg o) ∧ ∀ o, g.target ≠ .local_ o

/-- Integer atomics (R225): the new value from the old one and the operand, both of `n` bytes. -/
def atomicForm : Instr → Option (BitVec 4 × Nat × BitVec 2 × Bool × Bool × Bool × (Nat → Nat → Nat))
  | .amoAdd _ _ a _ z sc q l o => let n := if z then 8 else 4; some (a, n, sc, q, l, o, fun x y => (x + y) % 2 ^ (8 * n))
  | .amoAnd _ _ a _ z sc q l o => some (a, if z then 8 else 4, sc, q, l, o, fun x y => x &&& y)
  | .amoOr _ _ a _ z sc q l o => some (a, if z then 8 else 4, sc, q, l, o, fun x y => x ||| y)
  | .amoXor _ _ a _ z sc q l o => some (a, if z then 8 else 4, sc, q, l, o, fun x y => x ^^^ y)
  | .amoMin _ _ a _ z sc q l o => let n := if z then 8 else 4
    some (a, n, sc, q, l, o, fun x y => if (BitVec.ofNat (8 * n) y).toInt < (BitVec.ofNat (8 * n) x).toInt then y else x)
  | .amoMax _ _ a _ z sc q l o => let n := if z then 8 else 4
    some (a, n, sc, q, l, o, fun x y => if (BitVec.ofNat (8 * n) x).toInt < (BitVec.ofNat (8 * n) y).toInt then y else x)
  | .amoMinu _ _ a _ z sc q l o => some (a, if z then 8 else 4, sc, q, l, o, fun x y => if y < x then y else x)
  | .amoMaxu _ _ a _ z sc q l o => some (a, if z then 8 else 4, sc, q, l, o, fun x y => if x < y then y else x)
  | .amoSwap _ _ a _ z sc q l o => some (a, if z then 8 else 4, sc, q, l, o, fun _ y => y)
  | .amoFadd _ _ a _ sc q l o => some (a, 4, sc, q, l, o, floatAmo (fun x y => x.add false y) 4)
  | .amoFmin _ _ a _ sc q l o => some (a, 4, sc, q, l, o, floatAmo Num.min 4)
  | .amoFmax _ _ a _ sc q l o => some (a, 4, sc, q, l, o, floatAmo Num.max 4)
  | _ => none

/-- Barrier words: base and displacement (R249). -/
def barrierForm : Instr → Option (BitVec 4 × BitVec 8)
  | .tbinit _ _ a _ k | .tbexp _ _ a _ k | .tbarrexp _ _ a _ k | .tbwait _ _ a _ k => some (a, k)
  | .tbarr _ _ a k | .tbtest _ _ a k => some (a, k)
  | _ => none

/-- The entry that repetition `k` of a `tx` places (R79, R85): it carries the record that the clause buffer, or the template, gave, the values
captured for the scalar broadcasts in the order A, B, C, the waits in the first and the signals in the last. -/
structure TxPlaced (s : State) (wp wn sp sn : Bool) (tmpl : BitVec 6) (rep1 : BitVec 8) (vs : List Word) (k : Nat) (op : WideOp)
    (e : QEntry) : Prop where
  instr : e.instr = wideInstr op
  record : op.record = s.core.clauseFor tmpl
  word : op.word = wordOf (.tx wp wn sp sn tmpl rep1) ∧ e.word = op.word
  waits : op.wp = (wp && k == 0) ∧ op.wn = (wn && k == 0)
  signals : op.sp = (sp && k == rep1.toNat) ∧ op.sn = (sn && k == rep1.toNat)
  first : op.capA = if descKind (Rec.desc op.record 1) = 2 then vs.getD 0 0 else 0
  second : op.capB = if descKind (Rec.desc op.record 2) = 2 then vs.getD (natOfBool (descKind (Rec.desc op.record 1) == 2)) 0 else 0
  third : op.capC = if descKind (Rec.desc op.record 3) = 2 then
    vs.getD (natOfBool (descKind (Rec.desc op.record 1) == 2) + natOfBool (descKind (Rec.desc op.record 2) == 2)) 0 else 0
  bases : e.spbase = s.core.sys.spbase ∧ e.landbase = s.core.sys.landbase
  state : e.state = .waiting ∧ e.caps = []

/-- Row words: function, base and displacement (R297). -/
def rowForm : Instr → Option (Nat × BitVec 4 × BitVec 8)
  | .rowcopy _ _ a k => some (0, a, k)
  | .rowfill _ _ a k => some (1, a, k)
  | .rowand _ _ a k => some (2, a, k)
  | .rowor _ _ a k => some (3, a, k)
  | .rowxor _ _ a k => some (4, a, k)
  | .rownot _ _ a k => some (5, a, k)
  | .rowmaj _ _ a k => some (6, a, k)
  | _ => none

end Sys2Proof.Machine

section

open Sys2Proof Sys2Proof.Machine

/-- A queue-class word is routed (R74, R78): with room in its queue and its operands readable it takes the last entry, with the
operands captured, and the sequencer flows on after one cycle; with a full queue it waits. -/
def Obligations.Routing : Prop :=
  ∀ (i : Instr) (lq : Bool) (codes : List OpCode) (s : State) (vs : List Word) (c : Core),
    routedForm i = some (lq, codes) → s.actor = .seq → i.wf = true → s.mgmt.stage = .stage2 →
    s.core.readAll s.cur.val codes = .ok vs c →
    ((s.core.side lq).length < 32 →
      ∃ t e, exec i s = .next t ∧ t.core.side lq = s.core.side lq ++ [e] ∧ t.core.side (!lq) = s.core.side (!lq) ∧ e.instr = i ∧
        e.caps = vs ∧ e.state = .waiting ∧ e.spbase = s.core.sys.spbase ∧ t.core.pc = (s.core.level.finish s.core.pc s.core.level.ldepth).1 ∧
        t.core.seq.ready = s.now + 1 ∧ t.core.sregs = s.core.sregs ∧ t.core.bank = c.bank ∧ OthersKept s t ∧ Outside s t) ∧
    (32 ≤ (s.core.side lq).length → exec i s = .next { s with held := true })

/-- `amov`, `aadd` and `aaddi` write their address register and nothing else, and `aget` delivers its own (R203).
Writing an address register is seen at that register alone. -/
def Obligations.AddressWords : Prop :=
  (∀ (wn sn : Bool) (a : BitVec 4) (x : OpCode) (k : BitVec 14) (s : State) (e : QEntry) (rest : List QEntry),
     (CanStart s true false false (.amov wn sn a x) e rest → ∃ t, exec (.amov wn sn a x) s = .next t ∧
       Completed ((s.started true e rest).withCore ((s.started true e rest).core.setAreg a (arg0 e.caps))) t true e) ∧
     (CanStart s true false false (.aadd wn sn a x) e rest → ∃ t, exec (.aadd wn sn a x) s = .next t ∧
       Completed ((s.started true e rest).withCore ((s.started true e rest).core.setAreg a (s.core.areg a + arg0 e.caps))) t true e) ∧
     (CanStart s true false false (.aaddi wn sn a k) e rest → ∃ t, exec (.aaddi wn sn a k) s = .next t ∧
       Completed ((s.started true e rest).withCore ((s.started true e rest).core.setAreg a (s.core.areg a + k.signExtend 64))) t true e) ∧
     (CanStart s true true false (.aget wn sn a) e rest → ∃ t, exec (.aget wn sn a) s = .next t ∧
       Delivered (s.started true e rest) t e (s.core.areg a))) ∧
  (∀ (c : Core) (a b : BitVec 4) (v : Word), (c.setAreg a v).areg b = (if b = a then v else c.areg b) ∧ (c.setAreg a v).sregs = c.sregs)

/-- A load whose runs translate and whose lines are at hand delivers the bytes read, extended as its form says (R205, R206,
R266). -/
def Obligations.LoadWords : Prop :=
  ∀ (i : Instr) (a : BitVec 4) (k : BitVec 8) (n : Nat) (signed : Bool) (kind : Kind) (s u' : State) (e : QEntry)
    (rest : List QEntry) (segs : List Seg) (bs : List Byte),
    loadForm i = some (a, k, n, signed, kind) → CanStart s true true false i e rest →
    (s.started true e rest).mapAccess (e.running s) (loadAddress s.core a (arg0 e.caps) k n) n (tagOf s.core kind) kind
      (reaches n kind (loadAddress s.core a (arg0 e.caps) k n)) = .ok segs →
    plainRuns segs → segs.all (((s.started true e rest).learn segs).ready (kind == .ro)) = true →
    ((s.started true e rest).learn segs).readSegs (kind == .ro) segs = .bytes bs u' → bs.length = n →
    ∃ t, exec i s = .next t ∧ Delivered u' t e (loadedValue n signed bs)

/-- The bytes a load reads: a run in the scratchpad gives its bytes, and has then seen the core's own stores there (R319); a run of a line in
the home slice, of which the core holds no sector and which holds no error, gives the bytes of memory; neither changes anything but the
core's own caches (R198, R205, R276). -/
def Obligations.LoadedBytes : Prop :=
  ∀ (s : State) (va : Word) (n : Nat) (owner : Tag) (leaf : Option XlatEntry),
    (∀ off, off + n ≤ 2 ^ 23 → (∀ k ∈ s.mem.marks, k.place ≠ 3) →
      s.readSeg false { va := va, len := n, target := .sp off, owner := owner, leaf := leaf } =
        .bytes (peekN (w := 8) s.core.arrays.sp off n) (s.sees (newest (s.core.ownStores (spPlace off) n) 0))) ∧
    (∀ pa l, 0 < n → pa % 64 + n ≤ 64 → s.mem.l2At (pa / 64) = some l → s.mem.mark 1 0 (pa / 64) = none →
      (∀ x ∈ s.core.caches.l1, x.key / 2 ≠ pa / 64) → s.core.caches.stores = [] →
      ∃ s', s.readSeg false { va := va, len := n, target := .line pa, owner := owner, leaf := leaf } =
          .bytes ((List.range n).map fun j => s.byteAt (pa + j)) s' ∧
        s'.core.sregs = s.core.sregs ∧ s'.core.aregs = s.core.aregs ∧ s'.core.bank = s.core.bank ∧ s'.core.arrays = s.core.arrays ∧
        s'.core.queues = s.core.queues ∧ (∀ q, s'.byteAt q = s.byteAt q))

/-- A store whose runs translate, at sites that serve, stores the low bytes of its operand there and completes; `rel.d` first has the writes
of the regions that are bound to its word as it starts performed at its scope, then its own eight bytes (R208, R209, R266, R316). Its address is that of its base
register as it stood when it started (R196). -/
def Obligations.StoreWords : Prop :=
  (∀ (i : Instr) (a : BitVec 4) (k : BitVec 8) (n : Nat) (kind : Kind) (s : State) (e : QEntry) (rest : List QEntry) (segs : List Seg),
    storeForm i = some (a, k, n, kind) → CanStart s false false true i e rest →
    (s.started false e rest).mapAccess (e.running s) (loadAddress s.core a 0 k n) n (tagOf s.core kind) kind
      (reaches n kind (loadAddress s.core a 0 k n)) = .ok segs →
    plainRuns segs → (s.started false e rest).sitesJoined segs = true →
    ∃ t, exec i s = .next t ∧ Completed (((s.started false e rest).learn segs).storeSegs segs (leBytes n (arg0 e.caps).toNat)) t false e) ∧
  (∀ (wp sp : Bool) (a : BitVec 4) (x : OpCode) (scope : BitVec 2) (s u : State) (e : QEntry) (rest : List QEntry) (segs : List Seg),
    CanStart s false false true (.relD wp sp a x scope) e rest → (s.core.areg a).toNat % 8 = 0 → s.core.damageIn partBinding 0 64 = none →
    (s.started false e rest).mapAccess (e.running s) (s.core.areg a) 8 s.core.sys.ctx .write false = .ok segs →
    (s.started false e rest).sitesJoined segs = true →
    u = (((s.started false e rest).learn segs).releaseAt s.core.bindings (s.core.areg a) scope).storeSegs segs (leBytes 8 (arg0 e.caps).toNat) →
    (scope = 0 → ∃ t, exec (.relD wp sp a x scope) s = .next t ∧ Completed u t false e) ∧
    (scope ≠ 0 → ∃ t w, exec (.relD wp sp a x scope) s = .next t ∧ Completed (if scope = 3 then w.writeBackAll else w) t false e ∧
      w = u.performStores u.cur fun p => p.store == u.core.queues.sqDone + 1))

/-- What a store changes (R208, R277, R309, R310): a run of memory is queued for its home slice, in pieces that lie within a granule, and until it arrives
there the core's own reads have it laid over the bytes of memory; the arrival changes those bytes, and no other byte of memory; a run of
the scratchpad changes its bytes at once, and no other byte of it or of memory. -/
def Obligations.StoredBytes : Prop :=
  (∀ (s : State) (va : Word) (bs : List Byte) (owner : Tag) (leaf : Option XlatEntry) (pa : Nat) (t : State),
     t = s.storeSeg { va := va, len := bs.length, target := .line pa, owner := owner, leaf := leaf } bs →
     t.mem = s.mem ∧ t.core.arrays = s.core.arrays ∧ t.core.caches.stores = s.core.caches.stores ++
       s.core.piecesOf { va := va, len := bs.length, target := .line pa, owner := owner, leaf := leaf } pa bs ∧
     ∀ (q : Nat) (x : Byte), t.core.merged q [x] = if pa ≤ q ∧ q < pa + bs.length then [bs.getD (q - pa) 0] else s.core.merged q [x]) ∧
  (∀ (c : Core) (seg : Seg) (pa : Nat) (bs : List Byte), ((c.piecesOf seg pa bs).flatMap (·.data)) = bs ∧
     ∀ p ∈ c.piecesOf seg pa bs, p.store = c.queues.sqDone + 1 ∧ p.home = false ∧ p.owner = seg.owner ∧ 0 < p.data.length ∧
       p.pa % 16 + p.data.length ≤ 16) ∧
  (∀ (s : State) (i : Fin 96) (w : StorePiece), 0 < w.data.length → w.pa % 64 + w.data.length ≤ 64 → s.lineFits (w.pa / 64) →
     (∀ q, (s.performPiece i w).byteAt q = if w.pa ≤ q ∧ q < w.pa + w.data.length then w.data.getD (q - w.pa) 0 else s.byteAt q) ∧
     (∀ j : Fin 96, ((s.performPiece i w).cores[j]).arrays = (s.cores[j]).arrays) ∧
     ∀ p ∈ ((s.performPiece i w).cores[i]).caches.stores, p.home = false → p ∈ (s.cores[i]).caches.stores ∧ p ≠ w) ∧
  (∀ (s : State) (va : Word) (bs : List Byte) (owner : Tag) (leaf : Option XlatEntry) (off : Nat), off + bs.length ≤ 2 ^ 23 →
     s.core.arrays.sp.wf = true → ∀ q,
       peek (w := 8) (s.storeSeg { va := va, len := bs.length, target := .sp off, owner := owner, leaf := leaf } bs).core.arrays.sp q =
         (if off ≤ q ∧ q < off + bs.length then bs.getD (q - off) 0 else peek (w := 8) s.core.arrays.sp q) ∧
       (s.storeSeg { va := va, len := bs.length, target := .sp off, owner := owner, leaf := leaf } bs).byteAt q = s.byteAt q)

/-- `lv` puts the bytes read into the registers of its block, `sv` writes the registers of its block to memory (R207, R210). -/
def Obligations.BlockMoves : Prop :=
  ∀ (tw ts : Bool) (row col : BitVec 5) (h1 w1 : BitVec 3) (a : BitVec 4) (s u' : State) (e : QEntry) (rest : List QEntry) (segs : List Seg),
    (∀ bs, CanStart s true false false (.lv tw ts row col h1 w1 a) e rest →
      ((s.started true e rest).core.setSide true []).conflict s.now [] (xferRegs row col h1 w1) = false →
      (s.started true e rest).mapAccess (e.running s) (s.core.areg a) (4096 * (xferRegs row col h1 w1).length) s.core.sys.ctx .read false = .ok segs →
      segs.all (((s.started true e rest).learn segs).ready false) = true → ((s.started true e rest).learn segs).readSegs false segs = .bytes bs u' →
      ∃ t, exec (.lv tw ts row col h1 w1 a) s = .next t ∧ Completed (u'.writeBlock (xferRegs row col h1 w1) bs) t true e) ∧
    (∀ bs u, CanStart s false false true (.sv tw ts row col h1 w1 a) e rest →
      ((s.started false e rest).core.setSide false []).conflict s.now (xferRegs row col h1 w1) [] = false →
      (s.started false e rest).inspectReads (xferRegs row col h1 w1) [] = (u, none) → u.viewBlock (xferRegs row col h1 w1) = (bs, u') →
      u'.mapAccess (e.running s) (s.core.areg a) bs.length u.core.sys.ctx .write false = .ok segs → u'.sitesJoined segs = true →
      ∃ t, exec (.sv tw ts row col h1 w1 a) s = .next t ∧ Completed ((u'.learn segs).storeSegs segs bs) t false e)

/-- `mld` feeds one row per step: row r is read at A[a] + r × stride, MPROG counts the rows, the last row completes the word and sets
MPROG to 0 (R165); the feed has room for the row beside what is still to be removed from it (R167), and the request table for its blocks
(R202). -/
def Obligations.MatrixLoads : Prop :=
  ∀ (wn sn : Bool) (feed : BitVec 2) (a : BitVec 4) (x : OpCode) (s u' : State) (e : QEntry) (rest : List QEntry) (segs : List Seg) (bs : List Byte),
    CanStart s true false false (.mld wn sn feed a x) e rest →
    bitsAt (arg0 e.caps) 48 16 ≠ 0 → bitsAt (arg0 e.caps) 48 16 % 64 = 0 → bitsAt (arg0 e.caps) 48 16 ≤ 4096 →
    bitsAt s.core.sys.mprog 0 16 < bitsAt (arg0 e.caps) 32 16 → s.core.feedHeld feed s.now + bitsAt (arg0 e.caps) 48 16 ≤ 65536 →
    (s.started true e rest).core.entriesHeld ≤ 8192 →
    (s.started true e rest).mapAccess (e.running s)
      (s.core.areg a + BitVec.ofNat 64 (bitsAt s.core.sys.mprog 0 16) * (BitVec.truncate 32 (arg0 e.caps)).signExtend 64)
      (bitsAt (arg0 e.caps) 48 16) s.core.sys.ctx .read false = .ok segs →
    segs.all (((s.started true e rest).learn segs).ready false) = true → ((s.started true e rest).learn segs).readSegs false segs = .bytes bs u' →
    ∃ t, exec (.mld wn sn feed a x) s = .next t ∧ t.core.feed feed = u'.core.feed feed ++ bs ∧ t.core.sregs = u'.core.sregs ∧ t.mem = u'.mem ∧
      (bitsAt s.core.sys.mprog 0 16 + 1 < bitsAt (arg0 e.caps) 32 16 →
        t.core.sys.mprog = BitVec.ofNat 64 (bitsAt s.core.sys.mprog 0 16 + 1) ∧ t.core.side true = u'.core.side true) ∧
      (bitsAt s.core.sys.mprog 0 16 + 1 = bitsAt (arg0 e.caps) 32 16 → t.core.sys.mprog = 0)

/-- The configuration group (R138, R141, R214 to R217): a word whose descriptor can be read and is well formed puts it in place. -/
def Obligations.ConfigurationWords : Prop :=
  ∀ (wn sn : Bool) (a : BitVec 4) (k : BitVec 8) (s u' : State) (e : QEntry) (rest : List QEntry) (segs : List Seg) (bs : List Byte),
    (∀ port : BitVec 3, CanStart s true false false (.pset wn sn a port k) e rest → (loadAddress s.core a 0 k 64).toNat % 64 = 0 →
      (s.started true e rest).mapAccess (e.running s) (loadAddress s.core a 0 k 64) 64 s.core.sys.ctx .read false = .ok segs →
      segs.all (((s.started true e rest).learn segs).ready false) = true → ((s.started true e rest).learn segs).readSegs false segs = .bytes bs u' →
      PortDesc.wf (BitVec.ofNat 512 (leNat bs)) = true →
      ∃ t, exec (.pset wn sn a port k) s = .next t ∧ t.core.port port.toNat = { set := true, desc := BitVec.ofNat 512 (leNat bs), index := 0, slot := none } ∧
        t.core.sregs = u'.core.sregs ∧ t.mem = u'.mem) ∧
    (∀ buf : BitVec 4, CanStart s true false true (.cbset wn sn a buf k) e rest → (loadAddress s.core a 0 k 16).toNat % 16 = 0 →
      (s.started true e rest).mapAccess (e.running s) (loadAddress s.core a 0 k 16) 16 s.core.sys.ctx .read false = .ok segs →
      segs.all (((s.started true e rest).learn segs).ready false) = true → ((s.started true e rest).learn segs).readSegs false segs = .bytes bs u' →
      bufDescOk (BitVec.ofNat 128 (leNat bs)) = true →
      ∃ t, exec (.cbset wn sn a buf k) s = .next t ∧ (t.core.buf buf.toNat).desc = BitVec.ofNat 128 (leNat bs) ∧ (t.core.buf buf.toNat).filled = 0 ∧
        (t.core.buf buf.toNat).free = bitsAt (BitVec.ofNat 128 (leNat bs)) 64 32 ∧ (t.core.buf buf.toNat).set = true ∧ t.core.ports = u'.core.ports ∧
        t.core.sregs = u'.core.sregs ∧ t.mem = u'.mem) ∧
    (∀ (tmpl : BitVec 6) (count : BitVec 8) (img : ImageInfo), CanStart s true false false (.tdef wn sn tmpl count) e rest →
      s.core.image = some img → tmpl.toNat + count.toNat ≤ img.tmcount →
      (s.started true e rest).mapAccess { e.running s with spbase := 0 } (s.core.handle + BitVec.ofNat 64 (img.tmoff + 32 * tmpl.toNat)) (32 * count.toNat) 0
        .read false = .ok segs →
      segs.all (((s.started true e rest).learn segs).ready false) = true → ((s.started true e rest).learn segs).readSegs false segs = .bytes bs u' →
      ∃ t, exec (.tdef wn sn tmpl count) s = .next t ∧ Completed (u'.withCore (u'.core.loadTemplates tmpl.toNat (chunks 32 64 bs))) t true e) ∧
    (∀ entry : BitVec 6, CanStart s true false false (.bind wn sn a entry k) e rest → (loadAddress s.core a 0 k 32).toNat % 32 = 0 →
      (s.started true e rest).mapAccess (e.running s) (loadAddress s.core a 0 k 32) 32 s.core.sys.ctx .read false = .ok segs →
      segs.all (((s.started true e rest).learn segs).ready false) = true → ((s.started true e rest).learn segs).readSegs false segs = .bytes bs u' →
      bindingOk (BitVec.ofNat 256 (leNat bs)) = true →
      ∃ t, exec (.bind wn sn a entry k) s = .next t ∧ t.core.bindings = assign u'.core.bindings entry.toNat (BitVec.ofNat 256 (leNat bs)) ∧
        t.core.sregs = u'.core.sregs ∧ t.mem = u'.mem) ∧
    (∀ entry : BitVec 6, CanStart s true false false (.unbind wn sn entry) e rest →
      ∃ t, exec (.unbind wn sn entry) s = .next t ∧ t.core.bindings = unassign s.core.bindings entry.toNat ∧ t.core.sregs = s.core.sregs ∧ t.mem = s.mem)

/-- The synchronisation group (R219 to R223): `fence`, `roinv`, `acq`, `clean` and `pf` complete with their effects. Behind a `fence` at a
scope above CORE every completed store of the core has been performed in its home slice (R309). `roinv` has the core's own stores that are
ordered before it performed there, so that a read-only load behind it finds them (R325). That `pf` drops every prefetch, which R223 allows,
is the model's choice (log entry 25), and that an acquire of a bound word drops every L1 and RO line log entry 24. -/
def Obligations.SynchronisationWords : Prop :=
  ∀ (wn sn : Bool) (a : BitVec 4) (x : OpCode) (scope : BitVec 2) (s : State) (e : QEntry) (rest : List QEntry),
    (∀ inv, CanStart s true false false (.fence wn sn inv scope) e rest → ∃ t w, exec (.fence wn sn inv scope) s = .next t ∧ Completed w t true e ∧
      w = (let r := if scope = 0 then s.started true e rest else (s.started true e rest).performAll s.cur
           let r := if scope = 3 then r.writeBackAll else r
           if inv then r.withCore { r.core with caches := { r.core.caches with l1 := [] } } else r) ∧
      (inv = true → t.core.caches.l1 = []) ∧ (scope = 0 → t.mem = s.mem) ∧
      (scope ≠ 0 → ∀ p ∈ t.core.caches.stores, p.home = true)) ∧
    (CanStart s true false false (.roinv wn sn) e rest → ∃ t, exec (.roinv wn sn) s = .next t ∧
      Completed ((s.started true e rest).invalidateRo fun _ => true) t true e ∧ t.core.caches.ro = [] ∧ t.core.sregs = s.core.sregs ∧
      (s.core.caches.stores = [] → t.core.caches.l1 = s.core.caches.l1 ∧ t.mem = s.mem)) ∧
    (CanStart s true false false (.roinvRange wn sn a x) e rest → ∃ t r, exec (.roinvRange wn sn a x) s = .next t ∧
      r = (s.started true e rest).probeRuns (e.running s) (s.core.areg a) (arg0 e.caps).toNat ∧
      Completed (r.1.invalidateRo (lineIn r.2)) t true e ∧ ∀ l ∈ t.core.caches.ro, lineIn r.2 l.key = false) ∧
    (∀ (g : Seg) (gs : List Seg) (bs : List Byte) (u' : State), CanStart s true true false (.acq wn sn a x scope) e rest →
      (s.core.areg a + arg0 e.caps).toNat % 8 = 0 → s.core.damageIn partBinding 0 64 = none →
      (s.started true e rest).mapAccess (e.running s) (s.core.areg a + arg0 e.caps) 8 s.core.sys.ctx .read false = .ok (g :: gs) →
      (s.started true e rest).sitesJoined [g] = true → (s.started true e rest).atHome (scope == 3) g = true →
      (((s.started true e rest).learn [g]).orderRun g).readPoint (scope == 3) g = .bytes bs u' →
      ∃ t w, exec (.acq wn sn a x scope) s = .next t ∧ Delivered w t e (BitVec.ofNat 64 (leNat bs)) ∧
        w = (u'.freshRun g bs).acquireAt (s.core.areg a + arg0 e.caps)) ∧
    (CanStart s true false false (.clean wn sn a x scope) e rest → (arg0 e.caps).toNat ≤ 2 ^ 32 →
      ∃ t w, exec (.clean wn sn a x scope) s = .next t ∧ Completed w t true e ∧
        w = (let r := (s.started true e rest).probeRuns (e.running s) (s.core.areg a) (arg0 e.caps).toNat
             if scope = 3 then (r.1.cleanDevice r.2).cleanSystem r.2 else r.1.cleanDevice r.2)) ∧
    (∀ target : BitVec 2, CanStart s true false false (.pf wn sn a x target) e rest →
      ∃ t, exec (.pf wn sn a x target) s = .next t ∧ Completed (s.started true e rest) t true e)

/-- Atomics (R225 to R229): the old value is delivered, and the new value of the form stands where the atomic is performed; `cas` writes
only where the old value is the expected one. A release has the writes of its bound regions performed before the value is read
(R228, R316); that an acquire of a bound word drops every L1 and RO line is log entry 24. In replay an ordered
atomic waits for its turn (R388); outside it, it has its turn at once.
A misaligned atomic, acquire or release traps ALIGN with code 1 and the address, precisely in its queue: nothing is accessed
(R225, R229, R347). -/
def Obligations.AtomicWords : Prop :=
  ((∀ (i : Instr) (a : BitVec 4) (n : Nat) (scope : BitVec 2) (acq rel ord : Bool) (f : Nat → Nat → Nat) (s b u' : State) (e : QEntry)
     (rest : List QEntry) (g : Seg) (gs : List Seg) (bs : List Byte),
     atomicForm i = some (a, n, scope, acq, rel, ord, f) → CanStart s true true true i e rest → (s.core.areg a).toNat % n = 0 →
     b = (if rel then (s.started true e rest).releaseAt s.core.bindings (s.core.areg a) scope else s.started true e rest) →
     b.mapAccess (e.running s) (s.core.areg a) n s.core.sys.ctx .atomic false = .ok (g :: gs) →
     b.sitesJoined [g] = true → b.atHome (scope == 3) g = true →
     ((b.learn [g]).orderRun g).readPoint (scope == 3) g = .bytes bs u' →
     (∀ v, u'.atomicTurn g ord = some v →
       ∃ t w, exec i s = .next t ∧ Delivered w t e (BitVec.ofNat 64 (leNat bs)) ∧
         w = (let r := ((v.forgetRun g).putAtomic g scope (leBytes n (f (leNat bs) ((arg0 e.caps).toNat % 2 ^ (8 * n))))).atomicLogged g ord
              if acq then r.acquireAt (s.core.areg a) else r)) ∧
     (u'.atomicTurn g ord = none → exec i s = .next (u'.holdChoice (.atomic u'.cur))) ∧
     ((ord = false ∨ u'.core.itemFlag Item.log = false ∨ u'.core.itemFlag Item.replay = false) → u'.atomicTurn g ord = some u')) ∧
   (∀ (wn sn : Bool) (a : BitVec 4) (x y : OpCode) (size : Bool) (s b u' : State) (e : QEntry) (rest : List QEntry) (g : Seg) (gs : List Seg)
     (bs : List Byte),
     CanStart s true true true (.cas wn sn a x y size) e rest → (s.core.areg a).toNat % (if size then 8 else 4) = 0 →
     b = (s.started true e rest).releaseAt s.core.bindings (s.core.areg a) 2 →
     b.mapAccess (e.running s) (s.core.areg a) (if size then 8 else 4) s.core.sys.ctx .atomic false = .ok (g :: gs) →
     b.sitesJoined [g] = true → b.atHome false g = true → ((b.learn [g]).orderRun g).readPoint false g = .bytes bs u' →
     ∃ t w, exec (.cas wn sn a x y size) s = .next t ∧ Delivered w t e (BitVec.ofNat 64 (leNat bs)) ∧
       w = (let n := if size then 8 else 4
            let r := u'.forgetRun g
            let r := if leNat bs = (arg0 e.caps).toNat % 2 ^ (8 * n)
              then r.putAtomic g 2 (leBytes n ((arg1 e.caps).toNat % 2 ^ (8 * n))) else r
            (r.atomicLogged g false).acquireAt (s.core.areg a)))) ∧
  (∀ (s : State) (e : QEntry) (rest : List QEntry) (a : BitVec 4),
     (∀ i n scope acq rel ord f, atomicForm i = some (a, n, scope, acq, rel, ord, f) → CanStart s true true true i e rest →
       (s.core.areg a).toNat % n ≠ 0 → s.core.phase = none → s.core.seq.trap = none → ∃ t, exec i s = .next t ∧ t.mem = s.mem ∧
         t.core.bank.loads = s.core.bank.loads ∧ ∃ r, t.core.seq.trap = some r ∧ r.cause = 5 ∧ r.info = 1 ∧ r.va = some (s.core.areg a) ∧ r.src = 1) ∧
     (∀ wn sn x y size, CanStart s true true true (.cas wn sn a x y size) e rest → (s.core.areg a).toNat % (if size then 8 else 4) ≠ 0 →
       s.core.phase = none → s.core.seq.trap = none → ∃ t, exec (.cas wn sn a x y size) s = .next t ∧ t.mem = s.mem ∧
         t.core.bank.loads = s.core.bank.loads ∧ ∃ r, t.core.seq.trap = some r ∧ r.cause = 5 ∧ r.info = 1 ∧ r.va = some (s.core.areg a) ∧ r.src = 1) ∧
     (∀ wn sn x scope, CanStart s true true false (.acq wn sn a x scope) e rest → (s.core.areg a + arg0 e.caps).toNat % 8 ≠ 0 →
       s.core.phase = none → s.core.seq.trap = none → ∃ t, exec (.acq wn sn a x scope) s = .next t ∧ t.mem = s.mem ∧
         t.core.bank.loads = s.core.bank.loads ∧ ∃ r, t.core.seq.trap = some r ∧ r.cause = 5 ∧ r.info = 1 ∧
           r.va = some (s.core.areg a + arg0 e.caps) ∧ r.src = 1) ∧
     (∀ wp sp x scope, CanStart s false false true (.relD wp sp a x scope) e rest → (s.core.areg a).toNat % 8 ≠ 0 → s.core.phase = none →
       s.core.seq.trap = none → ∃ t, exec (.relD wp sp a x scope) s = .next t ∧ t.mem = s.mem ∧
         ∃ r, t.core.seq.trap = some r ∧ r.cause = 5 ∧ r.info = 1 ∧ r.va = some (s.core.areg a) ∧ r.src = 3))

/-- The barrier words (R249), on an aligned barrier in the scratchpad that holds no error: the new barrier is written, the old phase or
the flags delivered; `tbwait` waits while the barrier is still in the phase its operand names. -/
def Obligations.BarrierWords : Prop :=
  ∀ (wn sn : Bool) (a : BitVec 4) (x : OpCode) (k : BitVec 8) (s : State) (e : QEntry) (rest : List QEntry) (off : Nat),
    off = (loadAddress s.core a 0 k 16).toNat → off < 2 ^ 23 → off % 16 = 0 → (∀ m ∈ s.mem.marks, m.place ≠ 3) →
    (CanStart s true false true (.tbinit wn sn a x k) e rest → arg0 e.caps ≠ 0 → (arg0 e.caps).toNat < 65536 →
      ∃ t, exec (.tbinit wn sn a x k) s = .next t ∧
        Completed ((s.started true e rest).spPut off (vecBytes (Barrier.fresh (arg0 e.caps).toNat))) t true e) ∧
    (CanStart s true true true (.tbarr wn sn a k) e rest → ∃ t, exec (.tbarr wn sn a k) s = .next t ∧
      Delivered ((s.started true e rest).spPut off (vecBytes (Barrier.settle (Barrier.arrive (s.core.barrier off))))) t e
        (BitVec.ofNat 64 (Barrier.ph (s.core.barrier off)))) ∧
    (CanStart s true false true (.tbexp wn sn a x k) e rest → (arg0 e.caps).toNat < 2 ^ 32 → ∃ t, exec (.tbexp wn sn a x k) s = .next t ∧
      Completed ((s.started true e rest).spPut off (vecBytes (Barrier.settle (Barrier.expect (s.core.barrier off) (arg0 e.caps).toNat)))) t true e) ∧
    (CanStart s true true true (.tbarrexp wn sn a x k) e rest → (arg0 e.caps).toNat < 2 ^ 32 → ∃ t, exec (.tbarrexp wn sn a x k) s = .next t ∧
      Delivered ((s.started true e rest).spPut off
        (vecBytes (Barrier.settle (Barrier.arrive (Barrier.expect (s.core.barrier off) (arg0 e.caps).toNat))))) t e
        (BitVec.ofNat 64 (Barrier.ph (s.core.barrier off)))) ∧
    (CanStart s true true false (.tbwait wn sn a x k) e rest → Barrier.ph (s.core.barrier off) ≠ (arg0 e.caps).toNat % 16 →
      ∃ t, exec (.tbwait wn sn a x k) s = .next t ∧ Delivered (s.started true e rest) t e (BitVec.ofNat 64 (Barrier.lastFlags (s.core.barrier off)))) ∧
    (CanStart s true true false (.tbwait wn sn a x k) e rest → Barrier.ph (s.core.barrier off) = (arg0 e.caps).toNat % 16 →
      exec (.tbwait wn sn a x k) s = .next (s.started true e rest)) ∧
    (CanStart s true true false (.tbtest wn sn a k) e rest → ∃ t v, exec (.tbtest wn sn a k) s = .next t ∧ Delivered (s.started true e rest) t e v ∧
      bitsAt v 0 4 = Barrier.ph (s.core.barrier off) ∧ bitsAt v 10 16 = Barrier.arr (s.core.barrier off) ∧
      bitsAt v 26 32 = Barrier.pending (s.core.barrier off))

/-- The phase rule of a transaction barrier (R247): with no arrival and no byte outstanding the phase moves on, the arrivals are
reloaded, and the flags of the phase become those of the last one; otherwise nothing changes. -/
def Obligations.BarrierPhaseRule : Prop :=
  ∀ (b : Barrier),
    ((Barrier.arr b = 0 ∧ Barrier.pending b = 0) →
      Barrier.ph b.settle = (Barrier.ph b + 1) % 16 ∧ Barrier.arr b.settle = Barrier.reload b ∧ Barrier.reload b.settle = Barrier.reload b ∧
        Barrier.pending b.settle = 0 ∧ Barrier.lastFlags b.settle = Barrier.flags b ∧ Barrier.flags b.settle = 0) ∧
    (¬ (Barrier.arr b = 0 ∧ Barrier.pending b = 0) → b.settle = b) ∧
    (∀ n, n ≤ Barrier.pending b → Barrier.credit b n = Barrier.settle (putBits b 36 32 (Barrier.pending b - n))) ∧
    (0 < Barrier.arr b → Barrier.arr (Barrier.arrive b) = Barrier.arr b - 1 ∧ Barrier.pending (Barrier.arrive b) = Barrier.pending b ∧
      Barrier.ph (Barrier.arrive b) = Barrier.ph b)

/-- The tag group (R260, R263 to R265): `tagnew` and `tagnew.nb` ask the allocator, which answers as the cycle ends, and deliver what it has
granted: two that reach it on one cycle are taken in ascending source number, whichever came first and whether they wait or not; `tagret` begins
a retirement, and with WAIT completes when it has ended; of a tag that is not LIVE it has no effect; `ctxset` and `xtagset` switch to a live tag
once the SQ is empty. -/
def Obligations.TagWords : Prop :=
  (∀ (wn sn : Bool) (x : OpCode) (s : State) (e : QEntry) (rest : List QEntry),
    (∀ g, CanStart s true true true (.tagnew wn sn) e rest → s.tags.granted.find? (·.1 == s.cur.val) = some g →
      ∃ t w, exec (.tagnew wn sn) s = .next t ∧ Delivered w t e (g.2.zeroExtend 64) ∧
        w = (s.started true e rest).setTags { s.tags with granted := s.tags.granted.filter (·.1 != s.cur.val) }) ∧
    (∀ g, CanStart s true true true (.tagnewNb wn sn) e rest → s.tags.granted.find? (·.1 == s.cur.val) = some g →
      ∃ t w, exec (.tagnewNb wn sn) s = .next t ∧ Delivered w t e (g.2.zeroExtend 64) ∧
        w = (s.started true e rest).setTags { s.tags with granted := s.tags.granted.filter (·.1 != s.cur.val) }) ∧
    (∀ nb : Bool, CanStart s true true true (if nb then .tagnewNb wn sn else .tagnew wn sn) e rest →
      s.tags.granted.find? (·.1 == s.cur.val) = none → s.tags.asks s.cur.val = false →
      exec (if nb then .tagnewNb wn sn else .tagnew wn sn) s = .next ((s.started true e rest).askTag s.cur.val (!nb))) ∧
    (CanStart s true false true (.tagret wn sn x false) e rest → e.caps.length = 1 → arg0 e.caps ≠ 0 → (arg0 e.caps).toNat < 65536 →
      s.tags.isLive (arg0 e.caps).toNat = true →
      ∃ t, exec (.tagret wn sn x false) s = .next t ∧ Completed ((s.started true e rest).beginRetire (arg0 e.caps).toNat) t true e) ∧
    (∀ wait, CanStart s true false true (.tagret wn sn x wait) e rest → e.caps.length = 1 → arg0 e.caps ≠ 0 → (arg0 e.caps).toNat < 65536 →
      s.tags.isLive (arg0 e.caps).toNat = false →
      ∃ t, exec (.tagret wn sn x wait) s = .next t ∧ Completed (s.started true e rest) t true e) ∧
    (CanStart s true false true (.tagret wn sn x true) e rest → e.caps.length = 1 → arg0 e.caps ≠ 0 → (arg0 e.caps).toNat < 65536 →
      s.tags.isLive (arg0 e.caps).toNat = true →
      ∃ u t, u = (s.started true e rest).beginRetire (arg0 e.caps).toNat ∧ exec (.tagret wn sn x true) s = .next t ∧
        t = u.withCore (u.core.setSide true ({ e.running s with caps := [arg0 e.caps, 1] } :: rest))) ∧
    (∀ v : Word, s.actor = .lq → s.core.side true = e :: rest → e.state = .begun → e.caps = [v, 1] → v ≠ 0 → v.toNat < 65536 →
      s.core.phaseForbids = false →
      ((∀ k ∈ s.tags.tags, k.1 = v.toNat → k.2 ≠ .retiring) → ∃ t, exec (.tagret wn sn x true) s = .next t ∧ Completed s t true e) ∧
      ((v.toNat, TagState.retiring) ∈ s.tags.tags → exec (.tagret wn sn x true) s = .next { s with held := true })) ∧
    (CanStart s true false true (.ctxset wn sn x) e rest → (arg0 e.caps).toNat < 65536 → s.core.queues.sq = [] →
      s.tags.isLive (arg0 e.caps).toNat = true →
      ∃ t, exec (.ctxset wn sn x) s = .next t ∧ t.core.sys = { s.core.sys with ctx := BitVec.truncate 16 (arg0 e.caps) } ∧
        t.core.sregs = s.core.sregs ∧ t.mem = s.mem) ∧
    (CanStart s true false true (.xtagset wn sn x) e rest → (arg0 e.caps).toNat < 65536 → s.core.queues.sq = [] →
      s.tags.isLive (arg0 e.caps).toNat = true →
      ∃ t, exec (.xtagset wn sn x) s = .next t ∧ t.core.sys = { s.core.sys with xtag := BitVec.truncate 16 (arg0 e.caps) } ∧
        t.core.sregs = s.core.sregs ∧ t.mem = s.mem)) ∧
  (∀ (s : State) (k : Nat), k < 96 →
    (s.tags.arrived = [{ source := k, waits := false }] → s.tags.waiters ≠ [] →
      (s.settleAsks).tags.granted = s.tags.granted ++ [(k, 0)] ∧ (s.settleAsks).tags.tags = s.tags.tags) ∧
    (∀ waits n, s.tags.arrived = [{ source := k, waits := waits }] → s.tags.waiters = [] → lowestFree 1 s.tags.tags = n → n ≤ 65535 →
      (s.settleAsks).tags.granted = s.tags.granted ++ [(k, BitVec.ofNat 16 n)] ∧ (s.settleAsks).tags.tags = assign s.tags.tags n .live ∧
        (s.settleAsks).tags.waiters = [] ∧ (s.settleAsks).tags.arrived = []) ∧
    (s.tags.arrived = [{ source := k, waits := true }] → s.tags.waiters = [] → 65535 < lowestFree 1 s.tags.tags →
      (s.settleAsks).tags.waiters = [.core k] ∧ (s.settleAsks).tags.granted = s.tags.granted) ∧
    (∀ j wj wk n m, j < k → s.tags.waiters = [] → lowestFree 1 s.tags.tags = n → lowestFree 1 (assign s.tags.tags n .live) = m →
      (s.tags.arrived = [{ source := j, waits := wj }, { source := k, waits := wk }] ∨
        s.tags.arrived = [{ source := k, waits := wk }, { source := j, waits := wj }]) →
      (n ≤ 65535 → m ≤ 65535 → (s.settleAsks).tags.granted = s.tags.granted ++ [(j, BitVec.ofNat 16 n), (k, BitVec.ofNat 16 m)]) ∧
      (n ≤ 65535 → 65535 < m → wk = true → (s.settleAsks).tags.granted = s.tags.granted ++ [(j, BitVec.ofNat 16 n)] ∧
        (s.settleAsks).tags.waiters = [.core k]) ∧
      (n ≤ 65535 → 65535 < m → wk = false → (s.settleAsks).tags.granted = s.tags.granted ++ [(j, BitVec.ofNat 16 n), (k, 0)]) ∧
      (65535 < n → wj = true → wk = false → (s.settleAsks).tags.granted = s.tags.granted ++ [(k, 0)] ∧
        (s.settleAsks).tags.waiters = [.core j])))

/-- A word of the row group with an aligned, well-formed descriptor pushes its command, with the tag in force, into the row queue, and with
the push the core's completed stores are performed at DEVICE scope (R296 to R299). -/
def Obligations.RowWords : Prop :=
  ∀ (i : Instr) (fn : Nat) (a : BitVec 4) (k : BitVec 8) (s : State) (e : QEntry) (rest : List QEntry) (d : RowDesc),
    rowForm i = some (fn, a, k) → CanStart s false false true i e rest → e.caps = [] →
    (loadAddress s.core a 0 k 64).toNat < 2 ^ 23 → (loadAddress s.core a 0 k 64).toNat % 64 = 0 → (∀ m ∈ s.mem.marks, m.place ≠ 3) →
    d = BitVec.ofNat 512 (leNat (s.core.spBytes (loadAddress s.core a 0 k 64).toNat 64)) → RowDesc.wf d fn = true → RowDesc.len d ≠ 0 →
    RowDesc.len d % 1024 = 0 → (∀ v ∈ RowDesc.operands d fn, v.toNat % 1024 = 0) → s.core.rows.length < 4 →
    ∃ t r c, exec i s = .next t ∧ Completed (((s.started false e rest).withCore c).performAll s.cur) t false e ∧
      c = { (s.started false e rest).core with rows := s.core.rows ++ [r] } ∧ t.core.rows = s.core.rows ++ [r] ∧ r.fn = fn ∧ r.desc = d ∧
      r.tag = s.core.sys.ctx ∧ r.begun = false ∧ r.status = 0 ∧ t.core.sregs = s.core.sregs ∧ t.core.arrays = s.core.arrays ∧
      (s.core.caches.stores = [] → t.mem = s.mem)

/-- `patch` writes one field of a loaded template's record in the clause buffer and makes it valid; `tx` captures its operands, empties the clause
buffer and places the first of its repetitions behind what the CQ holds, the others waiting to be placed, a cycle each: every one carries the
record and the captured operands, the first the waits and the last the signals (R79, R85, R86, R94). With no room in the CQ it waits. -/
def Obligations.ClauseWords : Prop :=
  ∀ (s : State) (tmpl : BitVec 6),
    s.core.tdefPending tmpl = false → s.core.arrays.tvalid.getLsbD tmpl.toNat = true → s.core.clauseError tmpl = none →
    (∀ (field : BitVec 4) (value : BitVec 16), value.toNat < 2 ^ patchWidth (s.core.clauseFor tmpl) field.toNat →
      ∃ t, exec (.patch tmpl field value) s = .next t ∧
        t.core.clause = { buf := patchRecord (s.core.clauseFor tmpl) field.toNat value.toNat, valid := true, tmpl := tmpl } ∧
        t.core.sregs = s.core.sregs ∧ t.core.bank = s.core.bank ∧ t.core.queues = s.core.queues ∧
        t.core.pc = (s.core.level.finish s.core.pc s.core.level.ldepth).1 ∧ OthersKept s t ∧ Outside s t) ∧
    (∀ (wp wn sp sn : Bool) (rep1 : BitVec 8) (vs : List Word) (c : Core), Rec.ok (s.core.clauseFor tmpl) = true →
      s.core.readAll s.cur.val (Rec.scalarCodes (s.core.clauseFor tmpl)) = .ok vs c → s.core.cqHeld < 64 →
      ∃ (t : State) (es : List QEntry), exec (.tx wp wn sp sn tmpl rep1) s = .next t ∧ t.core.clause.valid = false ∧
        t.core.queues.cq = s.core.queues.cq ++ es.take 1 ∧ t.core.queues.unplaced = es.drop 1 ∧ es.length = rep1.toNat + 1 ∧
        (∀ k, k ≤ rep1.toNat → ∃ op e, es[k]? = some e ∧ TxPlaced s wp wn sp sn tmpl rep1 vs k op e) ∧
        t.core.sregs = c.sregs ∧ t.core.bank = c.bank ∧ t.core.seq.ready = s.now + 1 ∧
        t.core.pc = (c.level.finish c.pc c.level.ldepth).1 ∧ OthersKept s t ∧ Outside s t) ∧
    (∀ (wp wn sp sn : Bool) (rep1 : BitVec 8), 64 ≤ s.core.cqHeld → exec (.tx wp wn sp sn tmpl rep1) s = .next { s with held := true }) ∧
    (∀ (c : Core) (now : Nat) (e : QEntry) (es : List QEntry), c.queues.unplaced = e :: es →
      (c.placeNext now).queues.cq = c.queues.cq ++ [e] ∧ (c.placeNext now).queues.unplaced = es ∧ (c.placeNext now).seq.ready = now + 1)

end
namespace Sys2Proof.Machine

open Sys2Proof

/-! ### Wide operations: what the statements name -/

/-- Wide operations with their opcodes (R84). -/
def wideForm : Instr → Option (WideOp × Nat)
  | .vadd op => some (op, 0x00)
  | .vsub op => some (op, 0x01)
  | .vmul op => some (op, 0x02)
  | .vfma op => some (op, 0x03)
  | .vfms op => some (op, 0x04)
  | .vmin op => some (op, 0x05)
  | .vmax op => some (op, 0x06)
  | .vabs op => some (op, 0x07)
  | .vneg op => some (op, 0x08)
  | .vrcp op => some (op, 0x09)
  | .vrsqrt op => some (op, 0x0A)
  | .vsqrt op => some (op, 0x0B)
  | .vexp2 op => some (op, 0x0C)
  | .vlog2 op => some (op, 0x0D)
  | .vtanh op => some (op, 0x0E)
  | .vscale op => some (op, 0x0F)
  | .viadd op => some (op, 0x20)
  | .visub op => some (op, 0x21)
  | .vimul op => some (op, 0x22)
  | .vand op => some (op, 0x23)
  | .vor op => some (op, 0x24)
  | .vxor op => some (op, 0x25)
  | .vnot op => some (op, 0x26)
  | .vshl op => some (op, 0x27)
  | .vshr op => some (op, 0x28)
  | .vsar op => some (op, 0x29)
  | .vimin op => some (op, 0x2A)
  | .vimax op => some (op, 0x2B)
  | .viminu op => some (op, 0x2C)
  | .vimaxu op => some (op, 0x2D)
  | .vcmp op => some (op, 0x2E)
  | .vsel op => some (op, 0x2F)
  | .vrsum op => some (op, 0x40)
  | .vrmax op => some (op, 0x41)
  | .vrmin op => some (op, 0x42)
  | .vcsum op => some (op, 0x43)
  | .vmov op => some (op, 0x44)
  | .vbcast op => some (op, 0x45)
  | .vext op => some (op, 0x46)
  | .vins op => some (op, 0x47)
  | .viota op => some (op, 0x48)
  | .vperm op => some (op, 0x49)
  | .vcompact op => some (op, 0x4A)
  | .vtrans op => some (op, 0x4B)
  | .vcvt op => some (op, 0x4C)
  | .vq4 op => some (op, 0x4D)
  | .vdq4 op => some (op, 0x4E)
  | .mzero op => some (op, 0x60)
  | .mload op => some (op, 0x61)
  | .mma op => some (op, 0x62)
  | .mdrain op => some (op, 0x63)
  | .mchol op => some (op, 0x64)
  | .mlu op => some (op, 0x65)
  | .mqr op => some (op, 0x66)
  | .mtrs op => some (op, 0x67)
  | .mshift op => some (op, 0x68)
  | .mpiv op => some (op, 0x69)
  | _ => none

/-- The operation at the head of the CQ meets all that its unit asks of it (R79, R91, R145, R146, R168, R169, R178, R193), and what it
reads holds no error. -/
structure CanIssue (s : State) (op : WideOp) (e : QEntry) (rest : List QEntry) : Prop where
  head : s.core.queues.cq = e :: rest
  state : e.state = .waiting ∨ e.state = .begun ∨ e.state = .again
  tokens : e.state = .waiting → s.core.cqTokens op = true
  wire : s.wireHolds = false
  next : s.core.units.cqNext ≤ s.now
  unit : s.core.unitFree op.record s.now = true
  ports : ∀ p ∈ Rec.portsOf op.record, s.core.portOk op.record p = true
  feed : Rec.feedOk op.record = true
  latency : s.minLatency op.record ≤ Rec.lat op.record
  inputs : s.core.inputsReady (s.core.popSources op.record) = true
  feeds : s.core.feedsReady op.record = true
  output : descKind (Rec.desc op.record 0) = 1 →
    s.core.outputReady (descPort (Rec.desc op.record 0)) (s.core.pushCount op.record (s.core.columnsAsked op.record)) = true
  hazard : s.core.conflict s.now (s.core.readsOf op.record) (s.core.writesOf op.record) = false
  zero : s.core.zeroStop op.record = none
  clean : s.mem.marks = [] ∧ s.core.damage = []

/-- An operation that completes alone: its window is the only one, no other access has touched what it reads or writes, and it does not
break down. -/
structure Alone (c : Core) (serial : Nat) (w : Window) : Prop where
  only : c.queues.windows = [w]
  serial : w.serial = serial
  overSrc : w.overSrc = []
  overDst : w.overDst = []
  fixed : w.fixed = []
  whole : ∀ f, w.factor = some f → f.breaks = false

/-- The operand of a place as the window holds it. -/
def Window.source (w : Window) (i : Nat) (data : List (List Byte × List Byte)) : Src := srcOperand w.op i data

/-- Everything of a core that the completion of a wide operation leaves to others. -/
structure WideKept (c c' : Core) : Prop where
  sregs : c'.sregs = c.sregs
  aregs : c'.aregs = c.aregs
  sp : c'.arrays.sp = c.arrays.sp
  feeds : c'.arrays.feedA = c.arrays.feedA ∧ c'.arrays.feedB = c.arrays.feedB
  imem : c'.arrays.imem = c.arrays.imem
  pc : c'.pc = c.pc
  sys : c'.sys = c.sys
  trapRegs : c'.trapRegs = c.trapRegs
  bindings : c'.bindings = c.bindings
  loads : c'.bank.loads = c.bank.loads
  lq : c'.queues.lq = c.queues.lq
  sq : c'.queues.sq = c.queues.sq
  tl : c'.tl = c.tl
  chk : c'.chk = c.chk

/-- An exact value as a rational number; none for a NaN and the infinities. -/
def Num.toRat : Num → Option Rat
  | .nan => none
  | .inf _ => none
  | .fin s m e => some ((if s then -1 else 1) * (m : Rat) * (if 0 ≤ e then ((2 ^ e.toNat : Nat) : Rat) else 1 / ((2 ^ (-e).toNat : Nat) : Rat)))

/-! ### What lanes hold (R121, R129, R149 to R160) -/

/-- A power of two. -/
def pow2 (k : Int) : Rat := if 0 ≤ k then ((2 ^ k.toNat : Nat) : Rat) else 1 / ((2 ^ (-k).toNat : Nat) : Rat)

/-- The value of a lane of an integer format (R121). -/
def laneInt (f : IFmt) (x : Nat) : Int := if f.signed ∧ 2 ^ (f.width - 1) ≤ x then (x : Int) - 2 ^ f.width else x

/-- The integer formats by code (R117, R121). -/
def intFormats : List (Nat × IFmt) := [(6, ⟨32, true⟩), (7, ⟨16, true⟩), (8, ⟨8, true⟩), (9, ⟨8, false⟩), (10, ⟨32, false⟩)]

/-- The floating-point formats by code, with the bits that SR takes (R117, R127). -/
def floatFormats : List (Nat × FFmt × Nat) := [(0, fp32, 16), (1, bf16, 16), (2, fp16, 16), (3, e4m3, 8), (4, e5m2, 8)]

/-- A balanced binary tree over positions `m` to `m + 2^k − 1` (R130, R153). -/
def treeAt (node : Machine.Num → Machine.Num → Machine.Num) (leaf : Nat → Machine.Num) : Nat → Nat → Machine.Num
  | 0, m => leaf m
  | k + 1, m => node (treeAt node leaf k m) (treeAt node leaf k (m + 2 ^ k))

/-- Sums, differences and products of an integer format: kept modulo 2^width, or clamped to its range (R129, R152). -/
def IntegerArithmetic : Prop :=
  ∀ (r : Rec) (f : IFmt) (x y z : Nat) (v : Int), (Rec.fmtD r, f) ∈ intFormats → Rec.fmtA r = Rec.fmtD r → Rec.fmtB r = Rec.fmtD r →
    x < 2 ^ f.width → y < 2 ^ f.width →
    ((Rec.wop r = 0x20 ∧ v = laneInt f x + laneInt f y) ∨ (Rec.wop r = 0x21 ∧ v = laneInt f x - laneInt f y) ∨
      (Rec.wop r = 0x22 ∧ v = laneInt f x * laneInt f y)) →
    intLane r x y z < 2 ^ f.width ∧ (Rec.sat r = false → ((intLane r x y z : Nat) : Int) % 2 ^ f.width = v % 2 ^ f.width) ∧
      (Rec.sat r = true → laneInt f (intLane r x y z) = max f.lo (min f.hi v))

/-- Floating-point lanes compare numerically; a NaN makes every predicate false but `ne` (R152). -/
def FloatCompare : Prop :=
  ∀ (r : Rec) (f : FFmt) (n x y z : Nat), (Rec.fmtA r, f, n) ∈ floatFormats → Rec.fmtB r = Rec.fmtA r → Rec.wop r = 0x2E →
    ((f.decode x = .nan ∨ f.decode y = .nan) → intLane r x y z = if Rec.ops r = 1 then 2 ^ fmtWidth (Rec.fmtD r) - 1 else 0) ∧
    (∀ p q, (f.decode x).toRat = some p → (f.decode y).toRat = some q →
      (Rec.ops r = 0 → intLane r x y z = if p = q then 2 ^ fmtWidth (Rec.fmtD r) - 1 else 0) ∧
      (Rec.ops r = 1 → intLane r x y z = if p = q then 0 else 2 ^ fmtWidth (Rec.fmtD r) - 1) ∧
      (Rec.ops r = 2 → intLane r x y z = if p < q then 2 ^ fmtWidth (Rec.fmtD r) - 1 else 0) ∧
      (Rec.ops r = 3 → intLane r x y z = if p ≤ q then 2 ^ fmtWidth (Rec.fmtD r) - 1 else 0) ∧
      (Rec.ops r = 4 → intLane r x y z = if q < p then 2 ^ fmtWidth (Rec.fmtD r) - 1 else 0) ∧
      (Rec.ops r = 5 → intLane r x y z = if q ≤ p then 2 ^ fmtWidth (Rec.fmtD r) - 1 else 0))

/-- A lane of block 0x00: one rounding of the exact result, canonical NaNs, and the special results of R150 (R149). -/
def FloatLanes : Prop :=
  ∀ (r : Rec) (a b c : Machine.Num),
    (∀ x y z, a.toRat = some x → b.toRat = some y → c.toRat = some z → Rec.wop r < 0x09 ∨ Rec.wop r = 0x0F →
      ∃ v q, v.toRat = some q ∧ fpLane r a b c = (floatOf (Rec.fmtD r)).put (Rec.rnd r) 0 16 (Rec.sat r) v ∧
        (Rec.wop r = 0x00 → q = x + y) ∧ (Rec.wop r = 0x01 → q = x - y) ∧ (Rec.wop r = 0x02 → q = x * y) ∧
        (Rec.wop r = 0x03 → q = x * y + z) ∧ (Rec.wop r = 0x04 → q = z - x * y) ∧ (Rec.wop r = 0x05 → q = if x ≤ y then x else y) ∧
        (Rec.wop r = 0x06 → q = if x ≤ y then y else x) ∧ (Rec.wop r = 0x07 → q = if x < 0 then -x else x) ∧ (Rec.wop r = 0x08 → q = -x) ∧
        (Rec.wop r = 0x0F → q = x * pow2 (max (-2048) (min 2048 (if 0 ≤ y then y.floor else y.ceil))))) ∧
    (a = .nan → Rec.wop r < 0x10 → Rec.wop r ≠ 0x05 → Rec.wop r ≠ 0x06 → fpLane r a b c = (floatOf (Rec.fmtD r)).nanBits) ∧
    (b = .nan → Rec.wop r < 0x05 ∨ Rec.wop r = 0x0F → fpLane r a b c = (floatOf (Rec.fmtD r)).nanBits) ∧
    (c = .nan → Rec.wop r = 0x03 ∨ Rec.wop r = 0x04 → fpLane r a b c = (floatOf (Rec.fmtD r)).nanBits) ∧
    (a = .nan → Rec.wop r = 0x05 ∨ Rec.wop r = 0x06 → fpLane r a b c = (floatOf (Rec.fmtD r)).put (Rec.rnd r) 0 16 (Rec.sat r) b) ∧
    (∀ (s : Bool) (e : Int) (p : Machine.Num), (Rec.wop r, a, p) ∈
        [(0x09, .fin s 0 e, .inf s), (0x09, .inf s, .fin s 0 0), (0x0A, .fin s 0 e, .inf s), (0x0A, .inf false, .fin false 0 0),
         (0x0A, .inf true, .nan), (0x0B, .fin s 0 e, .fin s 0 e), (0x0B, .inf false, .inf false), (0x0B, .inf true, .nan),
         (0x0C, .inf true, .fin false 0 0), (0x0C, .inf false, .inf false), (0x0C, .fin s 0 e, .fin false 1 0), (0x0D, .fin s 0 e, .inf true),
         (0x0D, .fin false 1 0, .fin false 0 0), (0x0D, .inf false, .inf false), (0x0D, .inf true, .nan), (0x0E, .fin s 0 e, .fin s 0 e),
         (0x0E, .inf s, .fin s 1 0)] →
      fpLane r a b c = (floatOf (Rec.fmtD r)).put (Rec.rnd r) 0 16 (Rec.sat r) p) ∧
    (∀ x, a.toRat = some x → x < 0 → Rec.wop r = 0x0A ∨ Rec.wop r = 0x0B ∨ Rec.wop r = 0x0D →
      fpLane r a b c = (floatOf (Rec.fmtD r)).nanBits)

/-- Reductions and running sums of one register (R153, R154). -/
def ReductionLanes : Prop :=
  ∀ (r : Rec) (ls : List Nat) (f : FFmt) (a d : IFmt), f = floatOf (Rec.fmtD r) → a = intOf (Rec.fmtA r) → d = intOf (Rec.fmtD r) →
    (∀ n, ls.length = 2 ^ n → fmtFloat (Rec.fmtA r) = true →
      (Rec.wop r = 0x40 → reduceLanes r ls = f.put (Rec.rnd r) 0 16 (Rec.sat r)
        (treeAt (fun x y => f.decode (f.put (Rec.rnd r) 0 16 (Rec.sat r) (x.add (Rec.rnd r == 3) y))) (fun k => laneNum (Rec.fmtA r) (ls.getD k 0)) n 0)) ∧
      (Rec.wop r = 0x41 → reduceLanes r ls = f.put (Rec.rnd r) 0 16 (Rec.sat r) (treeAt Num.max (fun k => laneNum (Rec.fmtA r) (ls.getD k 0)) n 0)) ∧
      (Rec.wop r = 0x42 → reduceLanes r ls = f.put (Rec.rnd r) 0 16 (Rec.sat r) (treeAt Num.min (fun k => laneNum (Rec.fmtA r) (ls.getD k 0)) n 0))) ∧
    (fmtFloat (Rec.fmtA r) = false → ls ≠ [] →
      (Rec.wop r = 0x40 → reduceLanes r ls = d.put (Rec.sat r) (ls.map a.decode).sum) ∧
      (Rec.wop r = 0x41 → ∃ m ∈ ls.map a.decode, (∀ x ∈ ls.map a.decode, x ≤ m) ∧ reduceLanes r ls = d.put true m) ∧
      (Rec.wop r = 0x42 → ∃ m ∈ ls.map a.decode, (∀ x ∈ ls.map a.decode, m ≤ x) ∧ reduceLanes r ls = d.put true m)) ∧
    (runLanes r ls).length = ls.length ∧
    (∀ i, i < ls.length →
      (fmtFloat (Rec.fmtA r) = true → (runLanes r ls).getD i 0 = f.put (Rec.rnd r) 0 16 (Rec.sat r) (if i = 0 then laneNum (Rec.fmtA r) (ls.getD 0 0)
        else (f.decode ((runLanes r ls).getD (i - 1) 0)).add (Rec.rnd r == 3) (laneNum (Rec.fmtA r) (ls.getD i 0)))) ∧
      (fmtFloat (Rec.fmtA r) = false → (runLanes r ls).getD i 0 = d.put (Rec.sat r) ((ls.take (i + 1)).map a.decode).sum))

/-- Which lanes each register of D takes, lane by lane (R134, R149, R152 to R157). -/
def RegisterLanes : Prop :=
  ∀ (r : Rec) (a b c : Src) (old : List (List Byte)) (k l w : Nat), k < Rec.regs r → l = fmtLanes (Rec.fmtD r) → w = fmtWidth (Rec.fmtD r) →
    fmtWidth (Rec.fmtA r) = w → (a.lanes w k).length = l → (b.lanes w k).length = l → (c.lanes w k).length = l →
    (Rec.wop r < 0x10 → (vecResult r a b c old).getD k [] = ofLanes w ((List.range l).map fun i =>
      fpLane r (laneNum (Rec.fmtA r) ((a.lanes w k).getD i 0)) (laneNum (Rec.fmtB r) ((b.lanes w k).getD i 0)) (laneNum (Rec.fmtD r) ((c.lanes w k).getD i 0)))) ∧
    (0x20 ≤ Rec.wop r → Rec.wop r < 0x30 → (vecResult r a b c old).getD k [] = ofLanes w ((List.range l).map fun i =>
      intLane r ((a.lanes w k).getD i 0) ((b.lanes w k).getD i 0) ((c.lanes w k).getD i 0))) ∧
    (Rec.wop r = 0x43 → (vecResult r a b c old).getD k [] = ofLanes w (runLanes r (a.lanes w k))) ∧
    (Rec.wop r = 0x44 → Rec.fmtD r ≠ 5 → (vecResult r a b c old).getD k [] = a.bytes w k) ∧
    (Rec.wop r = 0x45 → (vecResult r a b c old).getD k [] = ofLanes w (List.replicate l ((a.lanes w k).getD (Rec.ops r) 0))) ∧
    (Rec.wop r = 0x46 → Rec.ops r < l → (vecResult r a b c old).getD k [] = ofLanes w ((List.range l).map fun i =>
      if i + Rec.ops r < l then (a.lanes w k).getD (i + Rec.ops r) 0 else (b.lanes w k).getD (i + Rec.ops r - l) 0)) ∧
    (Rec.wop r = 0x47 → fmtWidth (Rec.fmtB r) = w → (vecResult r a b c old).getD k [] = ofLanes w ((List.range l).map fun i =>
      if i = Rec.ops r then (b.lanes w k).getD 0 0 else (a.lanes w k).getD i 0)) ∧
    (Rec.wop r = 0x49 → Rec.fmtA r = Rec.fmtD r → (vecResult r a b c old).getD k [] = ofLanes w ((List.range l).map fun i =>
      (a.lanes w k).getD ((b.lanes w k).getD i 0 % l) 0))

/-- The operations whose results are counted across a block, `vcompact` and `vtrans`; `viota`; and the reductions and conversions register
by register (R153, R155 to R160). -/
def BlockLanes : Prop :=
  ∀ (r : Rec) (a b c : Src) (old : List (List Byte)),
    (Rec.wop r = 0x4A → (∀ k, (a.lanes (fmtWidth (Rec.fmtD r)) k).length = fmtLanes (Rec.fmtD r)) →
      (∀ k, (b.lanes (fmtWidth (Rec.fmtD r)) k).length = fmtLanes (Rec.fmtD r)) →
      ∃ kept, kept = ((List.range (Rec.regs r)).flatMap fun k => (List.range (fmtLanes (Rec.fmtD r))).filterMap fun i =>
          if (b.lanes (fmtWidth (Rec.fmtD r)) k).getD i 0 = 0 then none else some ((a.lanes (fmtWidth (Rec.fmtD r)) k).getD i 0)) ∧
        compactCount r a b = kept.length ∧
        (vecResult r a b c old).flatten = ofLanes (fmtWidth (Rec.fmtD r))
          (kept ++ List.replicate (Rec.regs r * fmtLanes (Rec.fmtD r) - kept.length) 0)) ∧
    (Rec.wop r = 0x4B → (∀ k, (a.lanes 32 k).length = 1024) →
      (vecResult r a b c old).flatten = ofLanes 32 ((List.range 16384).map fun i =>
        (a.lanes 32 ((i % 128 * 128 + i / 128) / 1024)).getD ((i % 128 * 128 + i / 128) % 1024) 0)) ∧
    (∀ k, k < Rec.regs r →
      (Rec.wop r = 0x48 → (vecResult r a b c old).getD k [] = ofLanes (fmtWidth (Rec.fmtD r)) ((List.range (fmtLanes (Rec.fmtD r))).map fun i =>
        (intOf (Rec.fmtD r)).put (Rec.sat r) ((BitVec.ofNat 32 (Rec.ops r)).toInt + (k * fmtLanes (Rec.fmtD r) + i : Nat)))) ∧
      (Rec.wop r = 0x40 ∨ Rec.wop r = 0x41 ∨ Rec.wop r = 0x42 → fmtWidth (Rec.fmtD r) ≤ 32 → (vecResult r a b c old).getD k [] =
        leBytes (fmtWidth (Rec.fmtD r) / 8) (reduceLanes r (a.lanes (fmtWidth (Rec.fmtA r)) k)) ++ zeroBytes (4096 - fmtWidth (Rec.fmtD r) / 8)) ∧
      (Rec.wop r = 0x4C → (vecResult r a b c old).getD k [] = ofLanes (fmtWidth (Rec.fmtD r)) (convReg r (a.lanes (fmtWidth (Rec.fmtA r)) k)
        (c.lanes (fmtWidth (Rec.fmtA r)) k) (lanesOf (fmtWidth (Rec.fmtD r)) (old.getD k zeroReg)))) ∧
      (Rec.wop r = 0x4D → (vecResult r a b c old).getD k [] =
        q4Reg r (a.lanes (fmtWidth (Rec.fmtA r)) k) (c.lanes (fmtWidth (Rec.fmtA r)) k) (old.getD k zeroReg)) ∧
      (Rec.wop r = 0x4E → (vecResult r a b c old).getD k [] = ofLanes (fmtWidth (Rec.fmtD r)) (dq4Reg r (a.q4Bytes k))))

/-- The lanes of one register of a conversion, and the value each takes (R127, R129, R158). -/
def ConversionLanes : Prop :=
  ∀ (r : Rec),
    (∀ (a c old : List Nat) (la ld p : Nat), la = fmtLanes (Rec.fmtA r) → ld = fmtLanes (Rec.fmtD r) → p = Rec.op r 0 2 → a.length = la → c.length = la →
      old.length = ld →
      (la ≤ ld → p * la + la ≤ ld → (convReg r a c old).length = ld ∧
        ∀ j, j < ld → (convReg r a c old).getD j 0 = if p * la ≤ j ∧ j < p * la + la
          then convLane r (a.getD (j - p * la) 0) (c.getD (j - p * la) 0) else old.getD j 0) ∧
      (ld < la → p * ld + ld ≤ la → (convReg r a c old).length = ld ∧
        ∀ j, j < ld → (convReg r a c old).getD j 0 = convLane r (a.getD (p * ld + j) 0) (c.getD (p * ld + j) 0))) ∧
    (∀ (f : FFmt) (n x u : Nat), (Rec.fmtD r, f, n) ∈ floatFormats →
      convLane r x u = f.put (Rec.rnd r) (u % 2 ^ n) n (Rec.sat r) (laneNum (Rec.fmtA r) x)) ∧
    (∀ (f : IFmt) (x u : Nat), (Rec.fmtD r, f) ∈ intFormats →
      (laneNum (Rec.fmtA r) x = .nan → convLane r x u = 0) ∧
      (∀ s, laneNum (Rec.fmtA r) x = .inf s → laneInt f (convLane r x u) = if s then f.lo else f.hi) ∧
      (∀ v, roundInt (Rec.rnd r) (u % 256) 8 (laneNum (Rec.fmtA r) x) = some v → laneInt f (convLane r x u) = max f.lo (min f.hi v)))

/-- The largest code magnitude of a Q4 type (R159). -/
def q4Largest (type : Nat) : Rat := if type = 0 then 7 else if type = 1 then 6 else if type = 2 then 8 else 12

/-- Code number `n` of the bytes of a Q4 register (R124). -/
def q4Nibble (bs : List Byte) (n : Nat) : Nat := ((bs.getD (n / 2) 0).toNat / 16 ^ (n % 2)) % 16

/-- Q4 blocks made and read (R122, R124, R125, R159, R160). -/
def Q4Lanes : Prop :=
  ∀ (r : Rec),
    (∀ (as us : List Nat) (type : Nat), type = Rec.op r 0 2 → as.length = us.length →
      ((∃ x ∈ as, laneNum (Rec.fmtA r) x = .nan) → q4Block r as us = (type * 64 + 63, as.map fun _ => 0)) ∧
      ((∀ x ∈ as, laneNum (Rec.fmtA r) x ≠ .nan) → ∃ (e : Nat) (mx : Rat), e ≤ 62 ∧ (q4Block r as us).1 = type * 64 + e ∧
        (∀ x ∈ as, ∀ p, (laneNum (Rec.fmtA r) x).toRat = some p → p ≤ mx ∧ -p ≤ mx) ∧
        (mx = 0 ∨ ∃ x ∈ as, ∃ p, (laneNum (Rec.fmtA r) x).toRat = some p ∧ (p = mx ∨ -p = mx)) ∧
        (e < 62 → mx ≤ q4Largest type * pow2 ((e : Int) - 31)) ∧
        (∀ e' < e, q4Largest type * pow2 ((e' : Int) - 31) < mx) ∧
        (q4Block r as us).2 = List.zipWith (fun x u => q4Code type e (Rec.rnd r) (u % 256) x) (as.map (laneNum (Rec.fmtA r))) us)) ∧
    (∀ (type e rc u c : Nat) (s : Bool), type < 4 → e ≤ 62 → c < 16 →
      (q4Value (type * 64 + e) (q4Code type e rc u (q4Value (type * 64 + e) c))).toRat = (q4Value (type * 64 + e) c).toRat ∧
      (q4Value (type * 64 + e) (q4Code type e rc u (.inf s))).toRat =
        some ((if s then (if type = 0 then -8 else -q4Largest type) else q4Largest type) * pow2 ((e : Int) - 31))) ∧
    (∀ (a c : List Nat) (old : List Byte) (nb first : Nat), a.length = 32 * nb → c.length = 32 * nb → old.length = 4096 →
      first = Rec.op r 2 2 * nb → first + nb ≤ 128 →
      (q4Reg r a c old).length = 4096 ∧
      (∀ j, j < 32 * nb → q4Nibble (q4Reg r a c old) (32 * first + j) =
        ((q4Block r ((a.drop (j / 32 * 32)).take 32) ((c.drop (j / 32 * 32)).take 32)).2.getD (j % 32) 0) % 16) ∧
      (∀ g, g < nb → (q4Reg r a c old).getD (2048 + first + g) 0 =
        BitVec.ofNat 8 (q4Block r ((a.drop (g * 32)).take 32) ((c.drop (g * 32)).take 32)).1) ∧
      (∀ n, n < 4096 → (n < 2048 → n / 16 < first ∨ first + nb ≤ n / 16) → (2048 ≤ n → n < 2048 + first ∨ 2048 + first + nb ≤ n) → n < 2176 →
        (q4Reg r a c old).getD n 0 = old.getD n 0) ∧
      (∀ n, 2176 ≤ n → n < 4096 → (q4Reg r a c old).getD n 0 = 0)) ∧
    (∀ (a : List Byte) (l p : Nat), a.length = 4096 → Rec.fmtD r < 3 → l = fmtLanes (Rec.fmtD r) → p = Rec.op r 0 2 → p * l + l ≤ 4096 →
      (dq4Reg r a).length = l ∧ ∀ i, i < l → (dq4Reg r a).getD i 0 = (floatOf (Rec.fmtD r)).put (Rec.rnd r) 0 16 (Rec.sat r)
        (q4Value (a.getD (2048 + (p * l + i) / 32) 0).toNat (q4Nibble a (p * l + i))))

/-! ### What the array and the factor instructions compute (R130, R131, R175, R182, R189 to R194) -/

/-- A node of the group sum: the exact sum, rounded to odd in XF40 (R130). -/
def oddNode (x y : Machine.Num) : Machine.Num := toXf40 (x.add false y)

/-- The order of sums: a cell takes its groups in order, each a tree of exact products (R130, R131, R163, R173). -/
def OrderOfSums : Prop :=
  (cellDepth 5 = 16 ∧ cellDepth 3 = 8 ∧ cellDepth 4 = 8 ∧ cellDepth 1 = 4 ∧ cellDepth 2 = 4 ∧ cellDepth 0 = 1) ∧
  ∀ (k : Nat) (tb : Bool) (as bs : List (List Machine.Num)) (cells : List (BitVec 40)) (i j : Nat), as.length = bs.length → i < 128 → j < 128 →
    cells.length = 16384 →
    (mmaCells (2 ^ k) tb as bs cells).getD (128 * i + j) 0 = (as.zip bs).foldl (fun acc g =>
      cellOf ((cellNum acc).add false (treeAt oddNode (fun m => (g.1.getD (i * 2 ^ k + m) (.fin false 0 0)).mul
        (g.2.getD (if tb then j * 2 ^ k + m else 128 * m + j) (.fin false 0 0))) k 0))) (cells.getD (128 * i + j) 0)

/-- The leading tile read from a bank and put back (R175). -/
def LeadingTiles : Prop :=
  ∀ (n : Nat) (b : Sparse 40) (t : Tile), n ≤ 128 → Sparse.wf b = true → t.n = n → t.cells.size = n * n →
    (∀ i j, i < n → j < n → (tileOf n b).get i j = cellFp32 (peek b (128 * i + j))) ∧ (tileOf n b).n = n ∧ (tileOf n b).cells.size = n * n ∧
    (∀ i j, i < 128 → j < 128 → peek (tileInto t b) (128 * i + j) =
      if i < n ∧ j < n then cellOfFp32 (t.get i j) else peek b (128 * i + j))

/-- A column step of `mchol` (R189). -/
def CholeskySteps : Prop :=
  ∀ (t u : Tile) (j d : Nat) (l : Nat → Nat), t.cells.size = t.n * t.n → j < t.n → u = t.stepChol j → d = (opSqrt (t.get j j)).1 →
    l = (fun i => (opDiv (t.get i j) d).1) →
    u.n = t.n ∧ u.cells.size = t.n * t.n ∧ ∀ i k, i < t.n → k < t.n →
      u.get i k = if k = j then (if i < j then 0 else if i = j then d else l i)
        else if j < k ∧ k ≤ i then (opUpdate (t.get i k) (l i) (l k)).1 else t.get i k

/-- A column step of `mlu` (R190): the pivot is the lowest row of greatest magnitude, and rows are exchanged whole. -/
def LuSteps : Prop :=
  ∀ (t : Tile) (j : Nat), t.cells.size = t.n * t.n → j < t.n →
    (t.zeroColumn j = true → t.stepLu j = (t, j, true)) ∧
    (t.zeroColumn j = false → ∃ p v, t.stepLu j = (v, p, false) ∧ j ≤ p ∧ p < t.n ∧ v.n = t.n ∧
      (∀ i, j ≤ i → i < t.n → t.get i j % 2 ^ 31 ≤ t.get p j % 2 ^ 31) ∧ (∀ i, j ≤ i → i < p → t.get i j % 2 ^ 31 < t.get p j % 2 ^ 31) ∧
      ∀ (u : Nat → Nat → Nat), (∀ i k, u i k = t.get (if i = j then p else if i = p then j else i) k) → ∀ i k, i < t.n → k < t.n →
        v.get i k = if i ≤ j ∨ k < j then u i k else if k = j then (opDiv (u i j) (u j j)).1
          else (opUpdate (u i k) (opDiv (u i j) (u j j)).1 (u j k)).1) ∧
    (t.zeroColumn j = true ↔ ∀ i, j ≤ i → i < t.n → t.get i j % 2 ^ 31 = 0)

/-- A rotation of `mqr`, and a column step as the rotations of its rows from the bottom up (R191). -/
def QrSteps : Prop :=
  (∀ (t u : Tile) (j i a b r c s : Nat), t.cells.size = t.n * t.n → j < i → i < t.n → a = t.get (i - 1) j → b = t.get i j →
    r = (opLength a b).1 → c = (opDiv a r).1 → s = (opDiv b r).1 →
    (b % 2 ^ 31 = 0 → t.rotate j i = (t, 0x3F800000, 0)) ∧
    (b % 2 ^ 31 ≠ 0 → u = (t.rotate j i).1 → (t.rotate j i).2 = (c, s) ∧ u.n = t.n ∧ ∀ m k, m < t.n → k < t.n →
      u.get m k = if k = j ∧ m = i - 1 then r else if k = j ∧ m = i then 0
        else if j < k ∧ m = i - 1 then (opRotate c (t.get (i - 1) k) s (t.get i k)).1
        else if j < k ∧ m = i then (opRotate c (t.get i k) (flipSign s) (t.get (i - 1) k)).1 else t.get m k)) ∧
  (∀ (t : Tile) (j mx : Nat) (v : Nat → Tile), v 0 = t → (∀ q, v (q + 1) = ((v q).rotate j (t.n - 1 - q)).1) →
    (t.stepQr j mx).1 = v (t.n - 1 - j) ∧
      (t.stepQr j mx).2.1 = (List.range (t.n - 1 - j)).map fun q => (((v q).rotate j (t.n - 1 - q)).2.1, ((v q).rotate j (t.n - 1 - q)).2.2))

/-- An issue runs its columns one by one from the one it begins with: a check of R185 ends it, and else its step follows (R182, R186, R189
to R191). -/
def ColumnRuns : Prop :=
  (∀ (op : Nat) (nz : Bool) (k : Nat) (f : FactorRun),
    (∀ b, f.tile.breaks op nz f.col = some b → FactorRun.columns op nz (k + 1) f = { f with broke := some b }) ∧
    (f.tile.breaks op nz f.col = none → ∃ g, FactorRun.columns op nz (k + 1) f = FactorRun.columns op nz k g ∧ g.col = f.col + 1 ∧
      g.done = f.done + 1 ∧ g.broke = f.broke ∧ g.m0 = f.m0 ∧ f.mmax ≤ g.mmax ∧ g.grow = (growth g.mmax f.m0).1 ∧
      (op = 1 → g.tile.cells = (f.tile.stepChol f.col).cells ∧ g.pivots = f.pivots ∧ g.records = f.records) ∧
      (op = 2 → g.tile.cells = (f.tile.stepLu f.col).1.cells ∧ g.pivots = f.pivots ++ [(f.col, (f.tile.stepLu f.col).2.1)] ∧
        g.skipped = f.skipped + natOfBool (f.tile.stepLu f.col).2.2) ∧
      (op = 3 → g.tile.cells = (f.tile.stepQr f.col f.mmax).1.cells ∧ g.records = f.records ++ [qrRecord (f.tile.stepQr f.col f.mmax).2.1]))) ∧
  (∀ (c : Core) (r : Rec),
    (c.goesOn r = false → Rec.begins r = false → c.columnRun r = none) ∧
    (∀ j0, j0 = (if c.goesOn r then c.factor.col else 0) → (c.goesOn r = true ∨ Rec.begins r = true) →
      ∃ f, c.columnRun r = some (FactorRun.columns (Rec.colOp r) (Rec.op r 1 1 == 1) (min (j0 + Rec.cols r) (Rec.order r) - j0) f) ∧
        f.tile = c.leading r ∧ f.col = j0 ∧ f.pivots = [] ∧ f.records = [] ∧ f.broke = none ∧ f.done = 0 ∧
        (c.goesOn r = false → f.m0 = (c.leading r).maxFrom (Rec.colOp r == 1) 0 ∧ f.mmax = f.m0)))

/-- A triangular solve takes its components in order, each less the known ones in the order they were found; `mshift` adds to the
diagonal (R192, R194). -/
def SolvesAndShifts : Prop :=
  (∀ (t : Tile) (upper trans unit : Bool) (b x : List Nat), b.length = 128 → t.n ≤ 128 → x = (solveVec t upper trans unit b).1 →
    x.length = 128 ∧ (∀ i, t.n ≤ i → x.getD i 0 = b.getD i 0) ∧
    ∀ i v, i < t.n →
      v = ((if upper = trans then List.range i else (List.range (t.n - 1 - i)).map fun k => t.n - 1 - k).foldl
        (fun v k => (opUpdate v (if trans then t.get k i else t.get i k) (x.getD k 0)).1) (b.getD i 0)) →
      x.getD i 0 = if unit then v else (opDiv v (t.get i i)).1) ∧
  (∀ (t : Tile) (sigma s0 i k : Nat), t.cells.size = t.n * t.n → i < t.n → k < t.n →
    (t.shift sigma s0).get i k = if i = k ∧ s0 ≤ i then (opAdd (t.get i i) sigma).1 else t.get i k)

end Sys2Proof.Machine

section
open Sys2Proof Sys2Proof.Machine

/-- A wide operation that its unit accepts opens a window in which it has read its sources, leaves the CQ, and completes at a cycle that
is fixed then; every register of the sequencer, the VRF, the scratchpad, the banks and memory stand (R89, R143 to R145, R168). -/
def Obligations.WideAcceptance : Prop :=
  ∀ (i : Instr) (op : WideOp) (code : Nat) (s : State) (e : QEntry) (rest : List QEntry),
    wideForm i = some (op, code) → Rec.wop op.record = code → CanIssue s op e rest →
    ∃ t w, exec i s = .next t ∧ t.core.queues.cq = rest ∧ t.core.queues.windows = s.core.queues.windows ++ [w] ∧
      w.op = op ∧ w.issue = s.now ∧ w.bound = s.now + Rec.lat op.record ∧ w.serial = s.core.units.serial ∧
      w.overSrc = [] ∧ w.overDst = [] ∧ w.fixed = [] ∧ w.closed = false ∧
      w.dst = s.core.writesOf op.record ∧ w.src = s.core.readsOf op.record ∧
      (descKind (Rec.desc op.record 1) = 0 → (code = 0x62 → Rec.feedA op.record = false) → code ≠ 0x63 →
        w.dataA = (Rec.block op.record 1).map fun n => (s.core.vreg n, [])) ∧
      (code = 0x63 → descKind (Rec.desc op.record 0) = 1 → w.dataA = [(s.core.drainOut op.record, [])]) ∧
      (Rec.isColumns op.record = false → w.due = s.now + s.minLatency op.record) ∧
      t.agenda = agendaAdd s.agenda ⟨w.due, s.focus, .wideOpCompletion s.cur w.serial⟩ ∧
      t.core.arrays.vrf = s.core.arrays.vrf ∧ t.core.arrays.sp = s.core.arrays.sp ∧ t.core.arrays.acc0 = s.core.arrays.acc0 ∧
      t.core.arrays.acc1 = s.core.arrays.acc1 ∧ t.core.sregs = s.core.sregs ∧ t.core.bank.resq = s.core.bank.resq ∧
      t.core.pc = s.core.pc ∧ t.core.queues.lq = s.core.queues.lq ∧ t.core.queues.sq = s.core.queues.sq ∧
      (e.state = .waiting → op.wp = true → t.core.bank.tok.lqcq = s.core.bank.tok.lqcq - 1) ∧
      (e.state = .waiting → op.wn = true → t.core.bank.tok.sqcq = s.core.bank.tok.sqcq - 1) ∧
      t.mem = s.mem ∧ OthersKept s t

/-- A vector operation with a VRF destination writes there, at its completion, what R149 to R160 compute from the data it read at its
issue; every other register stands, and `vcompact` pushes its survivor count. -/
def Obligations.VectorResults : Prop :=
  ∀ (s : State) (core : Fin 96) (serial : Nat) (w : Window) (out : List (List Byte)),
    Alone s.cores[core] serial w → (Rec.wop w.op.record < 0x60 ∨ Rec.wop w.op.record = 0x69) → descKind (Rec.desc w.op.record 0) = 0 →
    Rec.blockOk w.op.record 0 = true → CoreArrays.wf s.cores[core].arrays = true →
    out = (if Rec.wop w.op.record = 0x69 then s.cores[core].vectorOut w
      else vecResult w.op.record (w.source 1 w.dataA) (w.source 2 w.dataB) (w.source 3 w.dataC)
        ((Rec.block w.op.record 0).map s.cores[core].vreg)) →
    (∀ x ∈ out, x.length = 4096) → s.mem.marks = [] →
    ∃ t, exec (.wideOpCompletion core serial) s = .next t ∧
      (∀ k, k < (Rec.block w.op.record 0).length → k < out.length →
        t.cores[core].vreg ((Rec.block w.op.record 0).getD k 0) = out.getD k []) ∧
      (∀ n, n ∉ Rec.block w.op.record 0 → t.cores[core].vreg n = s.cores[core].vreg n) ∧
      t.cores[core].queues.windows = [] ∧
      (Rec.wop w.op.record ≠ 0x4A → t.cores[core].bank.resq = s.cores[core].bank.resq) ∧
      (Rec.wop w.op.record = 0x4A → t.cores[core].bank.resq = pushQueue s.cores[core].bank.resq
        (BitVec.ofNat 64 (compactCount w.op.record (w.source 1 w.dataA) (w.source 2 w.dataB)))) ∧
      t.cores[core].arrays.acc0 = s.cores[core].arrays.acc0 ∧ t.cores[core].arrays.acc1 = s.cores[core].arrays.acc1 ∧
      WideKept s.cores[core] t.cores[core] ∧ t.mem = s.mem ∧ t.focus = s.focus ∧
      ∀ j : Fin 96, j ≠ core → t.cores[j] = s.cores[j]

/-- The array's operations on banks, at their completion: `mzero` clears a bank, `mload` loads a tile, `mma` adds its groups in order,
`mdrain` writes a rounded tile to its registers, its pushes to a port having gone row by row before, and clears the bank where its record says
so (R170 to R174). -/
def Obligations.ArrayResults : Prop :=
  ∀ (s : State) (core : Fin 96) (serial : Nat) (w : Window), Alone s.cores[core] serial w → s.mem.marks = [] →
    (Rec.wop w.op.record = 0x60 → ∃ t, exec (.wideOpCompletion core serial) s = .next t ∧
      (∀ k, peek (t.cores[core].bankCellsOf (Rec.bank w.op.record)) k = 0) ∧
      t.cores[core].bankCellsOf (1 - Rec.bank w.op.record) = s.cores[core].bankCellsOf (1 - Rec.bank w.op.record) ∧
      t.cores[core].arrays.vrf = s.cores[core].arrays.vrf ∧ WideKept s.cores[core] t.cores[core] ∧ t.mem = s.mem) ∧
    (Rec.wop w.op.record = 0x61 → (loadCells (Rec.fmtA w.op.record) (w.dataA.flatMap (·.1))).length = 16384 →
      ∃ t, exec (.wideOpCompletion core serial) s = .next t ∧
      bankCells (t.cores[core].bankCellsOf (Rec.bank w.op.record)) = loadCells (Rec.fmtA w.op.record) (w.dataA.flatMap (·.1)) ∧
      t.cores[core].bankCellsOf (1 - Rec.bank w.op.record) = s.cores[core].bankCellsOf (1 - Rec.bank w.op.record) ∧
      t.cores[core].arrays.vrf = s.cores[core].arrays.vrf ∧ WideKept s.cores[core] t.cores[core] ∧ t.mem = s.mem) ∧
    (Rec.wop w.op.record = 0x62 → ∃ t, exec (.wideOpCompletion core serial) s = .next t ∧
      bankCells (t.cores[core].bankCellsOf (Rec.bank w.op.record)) = mmaCells (cellDepth (Rec.fmtA w.op.record)) (Rec.tb w.op.record)
        (feedVectors (Rec.fmtA w.op.record) w.dataA) (feedVectors (Rec.fmtB w.op.record) w.dataB)
        (bankCells (s.cores[core].bankCellsOf (Rec.bank w.op.record))) ∧
      t.cores[core].bankCellsOf (1 - Rec.bank w.op.record) = s.cores[core].bankCellsOf (1 - Rec.bank w.op.record) ∧
      t.cores[core].arrays.vrf = s.cores[core].arrays.vrf ∧ WideKept s.cores[core] t.cores[core] ∧ t.mem = s.mem) ∧
    (Rec.wop w.op.record = 0x63 → descKind (Rec.desc w.op.record 0) = 0 → Rec.blockOk w.op.record 0 = true →
      CoreArrays.wf s.cores[core].arrays = true → (s.cores[core].drainOut w.op.record).length = 4096 * Rec.regs w.op.record →
      ∃ t, exec (.wideOpCompletion core serial) s = .next t ∧
      ((Rec.block w.op.record 0).flatMap t.cores[core].vreg) = drainBytes (Rec.fmtD w.op.record) (Rec.sat w.op.record)
        (bankCells (s.cores[core].bankCellsOf (Rec.bank w.op.record))) ∧
      (∀ n, n ∉ Rec.block w.op.record 0 → t.cores[core].vreg n = s.cores[core].vreg n) ∧
      t.cores[core].bankCellsOf (Rec.bank w.op.record) =
        (if Rec.op w.op.record 1 1 = 1 then [] else s.cores[core].bankCellsOf (Rec.bank w.op.record)) ∧
      t.cores[core].bankCellsOf (1 - Rec.bank w.op.record) = s.cores[core].bankCellsOf (1 - Rec.bank w.op.record) ∧
      WideKept s.cores[core] t.cores[core] ∧ t.mem = s.mem) ∧
    (Rec.wop w.op.record = 0x63 → descKind (Rec.desc w.op.record 0) = 1 → ∃ t, exec (.wideOpCompletion core serial) s = .next t ∧
      t.cores[core].bankCellsOf (Rec.bank w.op.record) =
        (if Rec.op w.op.record 1 1 = 1 then [] else s.cores[core].bankCellsOf (Rec.bank w.op.record)) ∧
      t.cores[core].bankCellsOf (1 - Rec.bank w.op.record) = s.cores[core].bankCellsOf (1 - Rec.bank w.op.record) ∧
      t.cores[core].arrays.vrf = s.cores[core].arrays.vrf ∧ WideKept s.cores[core] t.cores[core] ∧ t.mem = s.mem)

/-- A factor issue without a breakdown, `mshift` and `mtrs` at their completion: the leading tile, FCOL, GROW and MMAX after its columns,
the pivots of an `mlu`, the shifted diagonal, and the solutions pushed to the port of an `mtrs` (R182, R186, R189, R192, R194). What a column
step, a solve and a shift compute, ExactArithmetic states. -/
def Obligations.FactorResults : Prop :=
  ∀ (s : State) (core : Fin 96) (serial : Nat) (w : Window) (f : FactorRun), Alone s.cores[core] serial w → s.mem.marks = [] →
    (Rec.isColumns w.op.record = true → s.cores[core].columnRun w.op.record = some f → f.broke = none →
      ∃ t, exec (.wideOpCompletion core serial) s = .next t ∧
      t.cores[core].bankCellsOf (Rec.bank w.op.record) = tileInto f.tile (s.cores[core].bankCellsOf (Rec.bank w.op.record)) ∧
      t.cores[core].bankCellsOf (1 - Rec.bank w.op.record) = s.cores[core].bankCellsOf (1 - Rec.bank w.op.record) ∧
      t.cores[core].factor.fcol = fcolWord (decide (f.col ≠ Rec.order w.op.record)) (Rec.colOp w.op.record) false (Rec.bank w.op.record) f.col ∧
      t.cores[core].factor.mmax = BitVec.ofNat 64 f.mmax ∧ t.cores[core].factor.grow = growWord f.m0 f.grow ∧
      t.cores[core].factor.pivdst = s.cores[core].factor.pivdst ∧ t.cores[core].factor.bkval = s.cores[core].factor.bkval ∧
      (Rec.wop w.op.record ≠ 0x65 → t.cores[core].arrays.vrf = s.cores[core].arrays.vrf) ∧
      (∀ n, Rec.wop w.op.record = 0x65 → w.dst = [n] → (s.cores[core].pivotOut w).length = 4096 →
        t.cores[core].vreg n = s.cores[core].pivotOut w) ∧
      (w.push = none → WideKept s.cores[core] t.cores[core]) ∧ t.cores[core].sregs = s.cores[core].sregs ∧
      t.cores[core].bank.resq = s.cores[core].bank.resq ∧ t.mem = s.mem) ∧
    (∀ sigma s0 v, Rec.wop w.op.record = 0x68 → w.source 1 w.dataA = .lane sigma →
      s0 = (if Rec.op w.op.record 1 1 = 1 then s.cores[core].factor.col else Rec.op w.op.record 16 7) →
      v = ((s.cores[core].leading w.op.record).shift (sigma % 2 ^ 32) s0) →
      ∃ t, exec (.wideOpCompletion core serial) s = .next t ∧
      t.cores[core].factor.fcol = s.cores[core].factor.fcol ∧ t.cores[core].factor.bkval = s.cores[core].factor.bkval ∧
      t.cores[core].bankCellsOf (1 - Rec.bank w.op.record) = s.cores[core].bankCellsOf (1 - Rec.bank w.op.record) ∧
      (Rec.order w.op.record ≤ s0 →
        t.cores[core].bankCellsOf (Rec.bank w.op.record) = s.cores[core].bankCellsOf (Rec.bank w.op.record) ∧
          t.cores[core].factor = s.cores[core].factor) ∧
      (s0 < Rec.order w.op.record →
        t.cores[core].bankCellsOf (Rec.bank w.op.record) = tileInto v (s.cores[core].bankCellsOf (Rec.bank w.op.record)) ∧
        (s.cores[core].factor.act = false ∨ s.cores[core].factor.bank ≠ Rec.bank w.op.record →
          t.cores[core].factor = { s.cores[core].factor with fstat := s.cores[core].factor.fstat ||| BitVec.ofNat 64 v.flags.bits }) ∧
        (s.cores[core].factor.act = true → s.cores[core].factor.bank = Rec.bank w.op.record → ∃ m g : Nat,
          t.cores[core].factor.mmax = BitVec.ofNat 64 m ∧ s.cores[core].factor.mmax.toNat ≤ m ∧
          (∀ i, s0 ≤ i → i < Rec.order w.op.record → (fp32.decode (v.get i i % 2 ^ 31)).isNaN = false → v.get i i % 2 ^ 31 ≤ m) ∧
          g = bitsAt s.cores[core].factor.grow 32 32 ∧ t.cores[core].factor.grow = growWord g (growth m g).1 ∧
          t.cores[core].factor.fstat = s.cores[core].factor.fstat ||| BitVec.ofNat 64 v.flags.bits ||| BitVec.ofNat 64 (growth m g).2.bits)) ∧
      t.cores[core].arrays.vrf = s.cores[core].arrays.vrf ∧ WideKept s.cores[core] t.cores[core] ∧ t.mem = s.mem) ∧
    (∀ p x, Rec.wop w.op.record = 0x67 → w.push = some p →
      x = (w.dataA.map fun d => solveVec (s.cores[core].leading w.op.record) (Rec.op w.op.record 1 1 == 1) (Rec.op w.op.record 2 1 == 1)
        (Rec.op w.op.record 3 1 == 1) (lanesOf 32 d.1)) →
      ∃ t, exec (.wideOpCompletion core serial) s = .next t ∧
      t.cores[core].arrays.sp = ((s.onCore core fun u => u.pushAll p.desc p.index p.bases (x.flatMap fun y => y.1.flatMap (leBytes 4)) []).cores[core]).arrays.sp ∧
      t.cores[core].factor = { s.cores[core].factor with
        fstat := s.cores[core].factor.fstat ||| BitVec.ofNat 64 (x.foldl (fun f y => f.or y.2) FpFlags.none).bits } ∧
      (∀ b, t.cores[core].bankCellsOf b = s.cores[core].bankCellsOf b) ∧ t.cores[core].arrays.vrf = s.cores[core].arrays.vrf ∧
      t.cores[core].sregs = s.cores[core].sregs ∧ t.cores[core].bank.resq = s.cores[core].bank.resq ∧ t.mem = s.mem ∧
      t.cores[core].queues.windows = [])

/-- The values of vector lanes: integer arithmetic of every format with and without SAT, the 32-bit integer lanes as two's complement
operations, floating-point comparisons, block 0x00 with its special results, reductions and running sums, movement and permutation, and
conversions (R121, R129, R149, R150, R152 to R160). That a `vrcp`, a root or a transcendental result rounds the exact value is left to the
model's definitions; their special results are stated. -/
def Obligations.LaneValues : Prop :=
  IntegerArithmetic ∧ FloatCompare ∧ FloatLanes ∧ ReductionLanes ∧ RegisterLanes ∧ BlockLanes ∧ ConversionLanes ∧ Q4Lanes ∧
  ∀ (r : Rec) (x y z : BitVec 32), Rec.fmtD r = 6 → Rec.fmtA r = 6 → Rec.fmtB r = 6 → Rec.sat r = false →
    (Rec.wop r = 0x20 → intLane r x.toNat y.toNat z.toNat = (x + y).toNat) ∧
    (Rec.wop r = 0x21 → intLane r x.toNat y.toNat z.toNat = (x - y).toNat) ∧
    (Rec.wop r = 0x22 → intLane r x.toNat y.toNat z.toNat = (x * y).toNat) ∧
    (Rec.wop r = 0x23 → intLane r x.toNat y.toNat z.toNat = (x &&& y).toNat) ∧
    (Rec.wop r = 0x24 → intLane r x.toNat y.toNat z.toNat = (x ||| y).toNat) ∧
    (Rec.wop r = 0x25 → intLane r x.toNat y.toNat z.toNat = (x ^^^ y).toNat) ∧
    (Rec.wop r = 0x26 → intLane r x.toNat y.toNat z.toNat = (~~~x).toNat) ∧
    (Rec.wop r = 0x27 → intLane r x.toNat y.toNat z.toNat = (x <<< (y.toNat % 32)).toNat) ∧
    (Rec.wop r = 0x28 → intLane r x.toNat y.toNat z.toNat = (x >>> (y.toNat % 32)).toNat) ∧
    (Rec.wop r = 0x29 → intLane r x.toNat y.toNat z.toNat = (x.sshiftRight (y.toNat % 32)).toNat) ∧
    (Rec.wop r = 0x2A → intLane r x.toNat y.toNat z.toNat = (if y.slt x then y else x).toNat) ∧
    (Rec.wop r = 0x2B → intLane r x.toNat y.toNat z.toNat = (if x.slt y then y else x).toNat) ∧
    (Rec.wop r = 0x2C → intLane r x.toNat y.toNat z.toNat = (if y < x then y else x).toNat) ∧
    (Rec.wop r = 0x2D → intLane r x.toNat y.toNat z.toNat = (if x < y then y else x).toNat) ∧
    (Rec.wop r = 0x2E → Rec.ops r = 2 → intLane r x.toNat y.toNat z.toNat = if x.slt y then 0xFFFFFFFF else 0) ∧
    (Rec.wop r = 0x2F → intLane r x.toNat y.toNat z.toNat = (if z = 0 then y else x).toNat)

/-- The floating-point formats compute exactly and round once: sums and products are exact, and a value of a format that is rounded to
that format, under any code, is itself (R117, R118, R126, R131). The array adds the products of a group in a fixed tree and its groups in
order (R130, R131), and the factor instructions compute their columns, solves and shifts value by value as their rules write them (R175,
R186, R189 to R192, R194). -/
def Obligations.ExactArithmetic : Prop :=
  (∀ (rdn : Bool) (x y : Machine.Num) (a b : Rat), x.toRat = some a → y.toRat = some b → (x.add rdn y).toRat = some (a + b)) ∧
  (∀ (x y : Machine.Num) (a b : Rat), x.toRat = some a → y.toRat = some b → (x.mul y).toRat = some (a * b)) ∧
  (∀ (f : FFmt) (rc u n x : Nat) (sat : Bool), f ∈ [fp32, bf16, fp16, e4m3, e5m2, xf40] → x < 2 ^ f.width →
    (f.decode x).toRat.isSome = true → f.put rc u n sat (f.decode x) = x) ∧
  OrderOfSums ∧ LeadingTiles ∧ CholeskySteps ∧ LuSteps ∧ QrSteps ∧ ColumnRuns ∧ SolvesAndShifts

end
namespace Sys2Proof.Machine

open Sys2Proof

/-! ### Commands of the Sluice: what the statements name -/

/-- The number the next command takes is new, and no other active command waits for one to complete. -/
structure CommandAlone (s : State) : Prop where
  fresh : ∀ a ∈ s.control.commands, a.id ≠ s.control.nextCmd
  quiet : ∀ a ∈ s.control.commands, a.wait ≠ .qevent ∧ ∀ ids, a.wait ≠ .fence ids

/-- From the state `s` the command `c` of queue `i` has started and completed: the queue has counted it, its interrupt is raised where
it asks for one, and no other command or queue is touched (R43 to R45). -/
structure Finished (s t : State) (i : Fin 16) (c : Command) : Prop where
  commands : t.control.commands = s.control.commands
  next : t.control.nextCmd = s.control.nextCmd + 1
  qdone : (t.control.queues[i]).qdone = (s.control.queues[i]).qdone + 1
  head : (s.control.queues[i]).fired = [] → (s.control.queues[i]).head ≠ (s.control.queues[i]).tail →
    (t.control.queues[i]).head = (s.control.queues[i]).head + 1
  others : ∀ j : Fin 16, j ≠ i → t.control.queues[j] = s.control.queues[j]
  interrupt : t.mgmt.interrupts = s.mgmt.interrupts ++ if cmdIntr c then [i.val] else []
  weir : cmdWord c = 0 → t.control.weir = s.control.weir ∧ t.control.firings = s.control.firings
  job : t.control.job = s.control.job
  colls : t.fabric.colls = s.fabric.colls

/-- The state in which a command has begun, with the way it waits. -/
def State.begun (s : State) (i : Fin 16) (c : Command) (w : CmdWait) : State := (s.beginCommand i c w true).2

/-- The completion word of a command that completes as it begins can be written: no page in flight and no site holds it (R290, R397). -/
def State.wordGoes (s : State) (i : Fin 16) (c : Command) (w : CmdWait) : Bool :=
  ((s.begun i c w).writeBackAll.writeCompletion ((s.begun i c w).queueRoot i.val) c 1 0).2

/-- From the state `s` the command `c` of queue `i` has started and waits; of memory only the slot it stood in has been read (R280). -/
structure Waits (s t : State) (i : Fin 16) (c : Command) (w : CmdWait) : Prop where
  active : ∃ a, t.control.commands = s.control.commands ++ [a] ∧ a.id = s.control.nextCmd ∧ a.queue = i.val ∧ a.cmd = c ∧ a.wait = w
  next : t.control.nextCmd = s.control.nextCmd + 1
  qdone : (t.control.queues[i]).qdone = (s.control.queues[i]).qdone
  starting : (t.control.queues[i]).starting = some s.control.nextCmd
  mem : t.mem = (s.readSlot s.control.queues[i]).mem
  interrupt : t.mgmt.interrupts = s.mgmt.interrupts

end Sys2Proof.Machine

section
open Sys2Proof Sys2Proof.Machine

/-- The completion of a command (R44): it leaves the active commands, QDONE of its queue rises by one, its interrupt is raised, and
its completion word is written in the queue's address space, after everything has been written back. While the word's page is in flight or
its site has not joined the command stays active and nothing of this happens (R290, R397). -/
def Obligations.CommandCompletion : Prop :=
  (∀ (s : State) (a : ActiveCmd) (st d : Nat), (s.writeBackAll.writeCompletion (s.queueRoot a.queue) a.cmd st d).2 = true →
    (s.completeOne a st d).control.commands = s.control.commands.filter (·.id != a.id) ∧
    ((s.completeOne a st d).control.queues[queueOf a.queue]).qdone = (s.control.queues[queueOf a.queue]).qdone + 1 ∧
    (∀ j : Fin 16, j ≠ queueOf a.queue → (s.completeOne a st d).control.queues[j] = s.control.queues[j]) ∧
    (s.completeOne a st d).mgmt.interrupts = s.mgmt.interrupts ++ (if cmdIntr a.cmd then [a.queue] else []) ∧
    (cmdWord a.cmd = 0 → (s.completeOne a st d).mem = s.writeBackAll.mem)) ∧
  (∀ (s : State) (a : ActiveCmd) (st d : Nat), (s.writeBackAll.writeCompletion (s.queueRoot a.queue) a.cmd st d).2 = false →
    (s.completeOne a st d).control.queues = s.control.queues ∧ (s.completeOne a st d).mgmt.interrupts = s.mgmt.interrupts ∧
    (s.completeOne a st d).control.commands.map (·.id) = s.control.commands.map (·.id)) ∧
  (∀ (s u : State) (root : Nat) (c : Command) (st d pa : Nat), cmdWord c ≠ 0 → (cmdWord c).toNat % 8 = 0 →
    s.sluiceXlat root (cmdWord c) .write = (u, .pa pa) →
    (u.siteHolds pa = true → s.writeCompletion root c st d = (u, false)) ∧
    (u.siteHolds pa = false → (u.mem.region pa).cached = true →
      s.writeCompletion root c st d = (u.agentStore pa (leBytes 8 (st + d * 2 ^ 8 + cmdTag c * 2 ^ 32)), true))) ∧
  (∀ (s u : State) (root : Nat) (c : Command) (st d : Nat), cmdWord c ≠ 0 → (cmdWord c).toNat % 8 = 0 →
    (s.sluiceXlat root (cmdWord c) .write = (u, .wait) → s.writeCompletion root c st d = (u, false)) ∧
    (s.sluiceXlat root (cmdWord c) .write = (u, .fail) → s.writeCompletion root c st d = (u.report 108 0x0B 0 0 0, true))) ∧
  (∀ (ends : List (Nat × Byte × Byte)), (∀ e ∈ ends, e.2.1.toNat = 1) → endStatus ends = (1, 0))

/-- Commands other than LAUNCH and COLL (R42, R43): a well-formed one starts, and completes at once or waits as its kind says.
A malformed command starts and completes with FAULT, detail 2, whatever its kind (R41). Beside the rules these rest on choices of the model: a
SIGNAL stores as an agent does, whatever its scope (log entry 26), and a ring slot is counted in QHEAD and read as its command starts (log
entry 46). -/
def Obligations.SluiceCommands : Prop :=
  (∀ (i : Fin 16) (c : Command) (s : State), CommandAlone s → cmdOk c = true →
     (s.completing? i c = none → s.wordGoes i c .items = true → ∃ t, exec (.marker i c) s = .next t ∧ Finished s t i c) ∧
     (s.completing? i c = none → s.wordGoes i c .items = false → ∃ t, exec (.marker i c) s = .next t ∧
       (∃ a ∈ t.control.commands, a.id = s.control.nextCmd ∧ a.cmd = c ∧ a.queue = i.val ∧ a.wait = .completing 1 0) ∧
       (t.control.queues[i]).qdone = (s.control.queues[i]).qdone ∧ t.mgmt.interrupts = s.mgmt.interrupts) ∧
     ((∀ a ∈ s.control.commands, c.getLsbD (128 + a.queue) = false) → s.wordGoes i c (.fence []) = true →
       ∃ t, exec (.phasefence i c) s = .next t ∧ Finished s t i c) ∧
     ((∃ a ∈ s.control.commands, c.getLsbD (128 + a.queue) = true) → ∃ t ids, exec (.phasefence i c) s = .next t ∧
       Waits s t i c (.fence ids) ∧ ids = (s.control.commands.filter fun a => c.getLsbD (128 + a.queue)).map (·.id)) ∧
     (((s.queue (bitsAt c 140 4)).qdone.ult (cmdValue c)) = false → s.wordGoes i c .qevent = true →
       ∃ t, exec (.waitQevent i c) s = .next t ∧ Finished s t i c) ∧
     (((s.queue (bitsAt c 140 4)).qdone.ult (cmdValue c)) = true → ∃ t, exec (.waitQevent i c) s = .next t ∧ Waits s t i c .qevent) ∧
     ((cmdValue c).toNat ≤ s.clock.gts → s.wordGoes i c .gts = true → ∃ t, exec (.waitGts i c) s = .next t ∧ Finished s t i c) ∧
     (s.clock.gts < (cmdValue c).toNat → ∃ t, exec (.waitGts i c) s = .next t ∧ Waits s t i c .gts ∧
       ∃ p ∈ t.agenda, p.instr = .waitGtsComplete ∧ p.focus = queueFocus i ∧
         p.due = s.now + s.cyclesFor ((cmdValue c).toNat - s.clock.gts)) ∧
     (∀ (u w : State) (pa : Nat) (v : Word), (s.begun i c .word).sluiceXlat ((s.begun i c .word).queueRoot i.val) (cmdTarget c) .read = (u, .pa pa) →
       u.wordAllowed pa = true → u.readWord pa = (w, .value v) →
       exec (.waitWord i c) s = .next (if weirHolds (cmdCmp c) v (cmdValue c) (cmdMask c) then w.finishCommand s.control.nextCmd 1 0
         else w.postFor (queueFocus i) (w.now + w.clock.hertz / 1000000) .waitWordRead)) ∧
     (∀ (u x : State) (pa : Nat), s.waiting i .access = none →
       (s.begun i c .access).sluiceXlat (s.queueRoot i.val) (cmdTarget c) .write = (u, .pa pa) →
       u.siteHolds pa = false → (u.mem.region pa).cached = true → x = (if bitsAt c 136 2 = 3 then u.writeBackAll else u) →
       exec (.signalStore i c) s = .next ((x.agentStore pa (leBytes 8 (cmdValue c).toNat)).finishCommand s.control.nextCmd 1 0) ∧
       ∀ (w : State) (bs : List Byte), x.agentRun pa 8 = (w, .bytes bs) →
         exec (.signalAdd i c) s =
           .next ((w.agentStore pa (leBytes 8 (BitVec.ofNat 64 (leNat bs) + cmdValue c).toNat)).finishCommand s.control.nextCmd 1 0)) ∧
     (∀ a, s.waiting s.focus.queue .gts = some a → (cmdValue a.cmd).toNat ≤ s.clock.gts →
       exec .waitGtsComplete s = .next (s.finishCommand a.id 1 0)) ∧
     (∀ a (u w : State) (pa : Nat) (v : Word), s.waiting s.focus.queue .word = some a →
       s.sluiceXlat (s.queueRoot s.focus.queue.val) (cmdTarget a.cmd) .read = (u, .pa pa) → u.wordAllowed pa = true →
       u.readWord pa = (w, .value v) → weirHolds (cmdCmp a.cmd) v (cmdValue a.cmd) (cmdMask a.cmd) = true →
       exec .waitWordRead s = .next (w.finishCommand a.id 1 0))) ∧
  (∀ (i : Fin 16) (c : Command) (s : State), cmdOk c = false → s.completing? i c = none →
     ∀ x ∈ [Instr.launch i c, .coll i c, .waitGts i c, .waitWord i c, .waitQevent i c, .signalStore i c, .signalAdd i c, .phasefence i c,
       .arm i c, .disarm i c, .marker i c],
       exec x s = .next ((s.begun i c .items).finishCommand s.control.nextCmd 2 2))

/-- The Weir (R43, R47 to R50): DISARM frees its entry, ARM sets it and fires it where the condition already holds; a write that satisfies the
compare of an entry fires it, unless it holds a pending firing. A firing that has happened stands beside what its entry becomes, and a one-shot
entry that fires is free. The firings of one cycle reach the FIFOs of their queues on the next, in ascending entry number: each goes behind the
tail of the moment, or its entry holds it, or one it holds already, while the FIFO holds 16 (log entry 26: the tail is that of the entry into
the FIFO). -/
def Obligations.WeirCommands : Prop :=
  (∀ (i : Fin 16) (c : Command) (s : State), CommandAlone s → cmdOk c = true →
    (∃ t, exec (.disarm i c) s = .next t ∧ (∀ e ∈ t.control.weir, e.index ≠ bitsAt c 128 6) ∧
      (∀ f ∈ s.control.firings, f ∈ t.control.firings) ∧
      (cmdWord c = 0 → (∀ e ∈ s.control.weir, e.index ≠ bitsAt c 128 6 → e ∈ t.control.weir) ∧ t.control.firings = s.control.firings) ∧
      ((s.dropEntry (bitsAt c 128 6)).wordGoes i c .items = true →
        t.control.commands = s.control.commands ∧ (t.control.queues[i]).qdone = (s.control.queues[i]).qdone + 1)) ∧
    (∀ (u v w : State) (wa : Nat) (bs : List Byte) (x : Word) (e : WeirEntry) (f : Firing), s.waiting i .access = none → cmdWord c = 0 →
      (s.begun i c .access).sluiceXlat ((s.begun i c .access).queueRoot i.val) (cmdTarget c) .read = (u, .pa wa) → u.mem.region wa = .dram →
      u.sluiceRead (u.queueRoot i.val) (cmdBound c) 3 64 = (v, .bytes bs) → v.readWord wa = (w, .value x) →
      e = { index := bitsAt c 128 6, rearm := c.getLsbD 134, cmp := cmdCmp c, tq := bitsAt c 144 4, value := cmdValue c, mask := cmdMask c,
            addr := wa, bound := BitVec.ofNat 512 (leNat bs), serial := w.control.weirCount } →
      f = { id := w.control.weirCount + 1, entry := e.index, serial := e.serial, tq := e.tq, bound := e.bound, stage := .raised } →
      ∃ t, exec (.arm i c) s = .next t ∧
        (weirHolds e.cmp x e.value e.mask = false ∨ e.rearm = true → e ∈ t.control.weir) ∧
        (weirHolds e.cmp x e.value e.mask = false → t.control.firings = w.control.firings) ∧
        (weirHolds e.cmp x e.value e.mask = true → t.control.firings = w.control.firings ++ [f] ∧
          (e.rearm = false → ∀ k ∈ t.control.weir, k.index ≠ e.index) ∧
          ∃ p ∈ t.agenda, p.instr = .weirFire ∧ p.focus.entry.val = e.index))) ∧
  (∀ (s : State) (e : WeirEntry) (pa n : Nat), s.control.weir = [e] →
    (pa < e.addr + 8 ∧ e.addr < pa + n → (∀ f ∈ s.control.firings, f.serial = e.serial → f.stage ≠ .pending) →
      weirHolds e.cmp (BitVec.ofNat 64 (s.mem.number e.addr 8)) e.value e.mask = true →
      (s.weirSees pa n).control.firings = s.control.firings ++
        [{ id := s.control.weirCount, entry := e.index, serial := e.serial, tq := e.tq, bound := e.bound, stage := .raised }] ∧
      (s.weirSees pa n).control.weir = if e.rearm then [e] else []) ∧
    (¬ (pa < e.addr + 8 ∧ e.addr < pa + n) ∨ (∃ f ∈ s.control.firings, f.serial = e.serial ∧ f.stage = .pending) ∨
      weirHolds e.cmp (BitVec.ofNat 64 (s.mem.number e.addr 8)) e.value e.mask = false → s.weirSees pa n = s)) ∧
  (∀ (s : State),
    (∀ f, s.control.firings.find? (fun f => f.entry == s.focus.entry.val && f.stage == .raised) = some f → ∃ t, exec .weirFire s = .next t ∧
      t.control.firings = (s.control.firings.map fun x => if x.id = f.id then { x with stage := .flying (s.now + 1) } else x) ∧
      t.control.queues = s.control.queues ∧ t.control.weir = s.control.weir ∧ t.mem = s.mem ∧
      ∃ p ∈ t.agenda, p.instr = .pendingFiring ∧ p.focus = s.focus ∧ p.due = s.now + 1) ∧
    (s.control.firings.find? (fun f => f.entry == s.focus.entry.val && f.stage == .raised) = none → exec .weirFire s = .next s)) ∧
  (∀ (s : State), (s.lowerFires = false → exec .pendingFiring s = .next (s.firingsHere.foldl State.tryFiring s)) ∧
    (s.lowerFires = true → exec .pendingFiring s = .next { s with held := true })) ∧
  (∀ (s : State) (f : Firing),
    ((s.queue f.tq).fired.length < 16 → s.order.weir = false →
      ((s.tryFiring f).queue f.tq).fired = (s.queue f.tq).fired ++ [(f.bound, (s.queue f.tq).tail)] ∧
      (s.tryFiring f).control.firings = s.control.firings.filter (·.id != f.id) ∧ (s.tryFiring f).control.weir = s.control.weir ∧
      (s.tryFiring f).mem = s.mem) ∧
    (16 ≤ (s.queue f.tq).fired.length → (s.tryFiring f).control.queues = s.control.queues ∧ (s.tryFiring f).control.weir = s.control.weir ∧
      ((∃ x ∈ s.control.firings, x.serial = f.serial ∧ x.stage = .pending ∧ x.id ≠ f.id) →
        (s.tryFiring f).control.firings = s.control.firings.filter (·.id != f.id)) ∧
      ((∀ x ∈ s.control.firings, x.serial = f.serial → x.stage = .pending → x.id = f.id) →
        (s.tryFiring f).control.firings = s.control.firings.map fun x => if x.id = f.id then { x with stage := .pending } else x)))

/-- Queue registers (R14, R38, R39, R46): a doorbell that advances the tail by no more than the ring holds, counted from QHEAD and from the
previous tail, moves it, and any other stops the queue with code 1; a served queue whose LOGSIZE is out of range is stopped with code 3; clearing an error, and priority aging after each whole 2 ms at
the head. -/
def Obligations.QueueRegisters : Prop :=
  ∀ (s : State) (i : Fin 16) (tail : BitVec 32) (q : SluiceQueue), s.control.queues[i] = q →
    (q.sized = true → (tail - q.head).toNat ≤ 2 ^ q.logSize → (tail - q.tail).toNat ≤ 2 ^ q.logSize →
      ∃ t, exec (.doorbell i tail) s = .next t ∧ (t.control.queues[i]).tail = tail ∧ (t.control.queues[i]).head = q.head ∧
        (t.control.queues[i]).qdone = q.qdone ∧ ∀ j : Fin 16, j ≠ i → t.control.queues[j] = s.control.queues[j]) ∧
    (q.sized = true → (2 ^ q.logSize < (tail - q.head).toNat ∨ 2 ^ q.logSize < (tail - q.tail).toNat) → ∃ t, exec (.doorbell i tail) s = .next t ∧ (t.control.queues[i]).tail = q.tail ∧
      (t.control.queues[i]).error = true ∧ (t.control.queues[i]).errcode = 1) ∧
    (q.sized = false → ∃ t, exec (.doorbell i tail) s = .next t ∧ (t.control.queues[i]).tail = q.tail ∧
      (q.enabled = true → q.error = false → (t.control.queues[i]).error = true ∧ (t.control.queues[i]).errcode = 3)) ∧
    (s.focus.queue = i → (q.enabled = false ∨ (q.sized = true ∧ s.ringBad q = false)) →
      exec .errorClear s = .next (s.setQueue i { q with error := false, errcode := 0 })) ∧
    (s.focus.queue = i → (q.aged + 1) * 2000000 ≤ q.headSince →
      exec .priorityAging s = .next (s.setQueue i { q with aged := q.aged + 1 }))

/-- LAUNCH and COLL (R43, R55, R60, R336): a record that passes its checks is taken by the walker or the sequencer; an empty one completes
at once, and a malformed one with FAULT. That memory after the start is memory after the ring slot has been read is the model's reading of
when the slot is read (log entry 46). -/
def Obligations.LaunchAndColl : Prop :=
  (∀ (i : Fin 16) (c : Command) (s u : State) (bs : List Byte) (r : LoopNest), cmdOk c = true → s.control.job = none →
    s.sluiceRead (s.queueRoot i.val) (cmdAddr c) 3 128 = (u, .bytes bs) → r = BitVec.ofNat 1024 (leNat bs) →
    (LoopNest.wf r = true → LoopNest.items r ≠ 0 → (u.mgmt.stage = .stage2 ∨ LoopNest.tagMode r ≠ 3) → u.setsOpen (cmdTset c) r = true →
      u.gangFits (cmdTset c) r = true → ∃ t j, exec (.launch i c) s = .next t ∧ t.control.job = some j ∧ j.record = r ∧ j.next = 0 ∧
        j.total = LoopNest.items r ∧ j.command = u.control.nextCmd ∧ j.queue = i.val ∧ j.tset = cmdTset c ∧ j.dev = cmdDev c ∧
        j.root = u.queueRoot i.val ∧ (∃ a ∈ t.control.commands, a.id = j.command ∧ a.cmd = c ∧ a.left = 0 ∧ a.started = false) ∧
        j.replay = (LoopNest.log r && u.order.replay) ∧ t.mem = (u.readSlot u.control.queues[i]).mem ∧ t.cores = u.cores) ∧
    (LoopNest.wf r = true → LoopNest.items r = 0 →
      exec (.launch i c) s = .next ((u.begun i c .items).finishCommand u.control.nextCmd 1 0)) ∧
    (LoopNest.wf r = false → exec (.launch i c) s = .next ((u.begun i c .items).finishCommand u.control.nextCmd 2 2))) ∧
  (∀ (i : Fin 16) (c : Command) (s u v w : State) (hb mb sb : List Byte) (h : CollHeader), cmdOk c = true → s.fabric.colls.length < 8 →
    s.mgmt.stage = .stage2 →
    s.collRead (collSource (8 + i.val)) (s.queueRoot i.val) 0 [(cmdAddr c, 128)] = .bytes hb u → h = BitVec.ofNat 1024 (leNat hb) →
    collHeaderOk h = true →
    u.collRead (collSource (8 + i.val)) (u.queueRoot i.val) 0 [(CollHeader.memtab h, 2 * CollHeader.nmem h)] = .bytes mb v →
    v.collRead (collSource (8 + i.val)) (v.queueRoot i.val) 0 [(cmdAddr c + 128, 128 * CollHeader.nsteps h)] = .bytes sb w →
    collStepsOk h (stepBlocks sb) = true → collMembersOk h w.devId (halfWords mb) = true → w.tags.isLive (CollHeader.tag h).toNat = true →
    exec (.coll i c) s = .next (w.startColl i c h (stepBlocks sb) (halfWords mb)) ∧
      ∀ m, halfWords mb = [m] → CollHeader.rank h = 0 → CollHeader.sig h = collSignature h (stepBlocks sb) [m] →
        (∀ k ∈ w.fabric.colls, k.command ≠ w.control.nextCmd) →
        ∃ t k, exec (.coll i c) s = .next t ∧ k ∈ t.fabric.colls ∧ k.command = w.control.nextCmd ∧ k.record = h ∧ k.steps = stepBlocks sb ∧
          k.members = [m] ∧ k.bad = false ∧ k.step = 0 ∧ k.next = 0 ∧
          (∃ p ∈ t.agenda, p.instr = .transfer ∧ p.focus.coll = CollHeader.collId h ∧ p.due = w.now) ∧
          t.mem = (w.readSlot w.control.queues[i]).mem ∧ t.cores = w.cores)

end
namespace Sys2Proof.Machine

open Sys2Proof

/-! ### Items: what the statements name -/

/-- The linear item number of item `e` of a job in enumeration order, and the die it asks for. -/
def WalkerJob.lin (j : WalkerJob) (e : Nat) : Nat :=
  LoopNest.linear j.record (e / max 1 (LoopNest.perPhase j.record)) (e % max 1 (LoopNest.perPhase j.record))
def WalkerJob.die (j : WalkerJob) (e : Nat) : Option Nat :=
  LoopNest.dieFor j.record (e / max 1 (LoopNest.perPhase j.record)) (e % max 1 (LoopNest.perPhase j.record))

/-- A core as an item enters it (R54): nothing of the item before is left but what the loader keeps on purpose. -/
structure Entered (c : Core) (it : Item) (img : ImageInfo) : Prop where
  status : c.status = .loaded
  pc : c.pc = img.entry
  counts : ∀ k : Fin 6, c.sregs[16 + k.val] = (it.cnt.getD k.val 0).zeroExtend 64
  indices : ∀ k : Fin 6, c.sregs[24 + k.val] = (it.idx.getD k.val 0).zeroExtend 64
  low : ∀ k : Fin 16, c.sregs[k.val] = 0
  data : c.aregs[14] = it.image + BitVec.ofNat 64 img.rodoff
  args : c.aregs[15] = it.args
  areg : ∀ k : Fin 14, c.aregs[k.val] = 0
  tag : c.sys.ctx = it.tag
  xtag : c.sys.xtag = 0
  level : c.tl = false ∧ c.chk = false
  loops : c.level0.ldepth = 0 ∧ c.level0.rs = []
  tokens : c.bank0.tok.lqcq = 0 ∧ c.bank0.tok.cqlq = 0 ∧ c.bank0.tok.cqsq = 0 ∧ c.bank0.tok.sqcq = 0
  queues : c.queues.lq = [] ∧ c.queues.cq = [] ∧ c.queues.sq = [] ∧ c.queues.windows = []
  loads : c.bank0.loads = []
  feeds : c.arrays.feedA = [] ∧ c.arrays.feedB = []
  templates : c.arrays.tvalid = 0
  clause : c.clause.valid = false
  ports : ∀ k : Fin 8, (c.ports[k.val]).set = false
  bindings : c.bindings = []
  factor : c.factor = FactorRegs.zero
  trapRegs : c.trapRegs = TrapRegs.zero

end Sys2Proof.Machine

section
open Sys2Proof Sys2Proof.Machine

/-- Dispatch (R55, R57, R59, R60, R62, R64): the next item goes to the core that the choice of R59 gives, the pointer moves behind it, and
the walker goes on; a pre-empted item goes ahead; a gang is placed whole; a phase opens when the one before has ended. -/
def Obligations.ItemDispatch : Prop :=
  ∀ (s : State),
    (∀ (j : WalkerJob) (u v : State) (tag : Tag) (c : Nat), s.control.requeued = [] → s.control.job = some j →
      LoopNest.gang j.record = false → j.phaseHeld = false → s.itemTag j (j.lin j.next) 0 = (u, .tag tag) →
      u.chooseCore j.tset j.dev (j.die j.next) [] = some c → u.reportHeld j (j.lin j.next) = false → u.reportTag j (j.lin j.next) tag = (v, true) → v.control.job = some j →
      j.next + 1 < j.total →
      ∃ t it j', exec .itemPlacement s = .next t ∧ (t.cores[coreOf c]).status = .loading ∧ (t.cores[coreOf c]).item = some it ∧
        it.lin = j.lin j.next ∧ it.tag = tag ∧ it.image = LoopNest.image j.record ∧ it.args = LoopNest.args j.record ∧
        it.command = some j.command ∧ it.root = j.root ∧ (t.cores[coreOf c]).mailbox = mailboxOf it ∧
        t.control.pointer = (c + 1) % 96 ∧ t.control.job = some j' ∧ j'.next = j.next + 1 ∧ j'.live = j.live + 1 ∧
        (∀ k : Fin 96, k ≠ coreOf c → t.cores[k] = v.cores[k]) ∧ t.mem = v.mem) ∧
    (∀ (it : Item) (rest : List Item) (a : ActiveCmd) (c : Nat), s.held = false → s.control.requeued = it :: rest → it ∉ rest →
      s.control.commands.find? (fun a => some a.id == it.command) = some a → s.tags.killed.contains it.tag.toNat = false →
      s.chooseCore (cmdTset a.cmd) (cmdDev a.cmd) it.die [] = some c →
      ∃ t, exec .itemPlacement s = .next t ∧ (t.cores[coreOf c]).status = .loading ∧
        (t.cores[coreOf c]).item = some { it with pressed := false } ∧ t.control.requeued = rest ∧ t.control.job = s.control.job) ∧
    (∀ (j : WalkerJob) (u : State) (tags : List (Nat × TagChoice)) (places : List (Nat × Tag × Nat)), s.control.job = some j →
      LoopNest.gang j.record = true → j.phaseHeld = false → s.gangTags j (LoopNest.perPhase j.record) 0 = (u, some tags) →
      (∀ e ∈ tags, ∀ st, e.2 ≠ .stops st) → u.gangCores j (gangRuns tags) [] = some places →
      (∀ p ∈ places, u.reportHeld j (LoopNest.linear j.record (p.1 / LoopNest.perPhase j.record) (p.1 % LoopNest.perPhase j.record)) = false) →
      exec .gangPlacement s = .next (((u.skipGang j tags).placeGang j places).passGang (LoopNest.perPhase j.record))) ∧
    (∀ (j : WalkerJob) (places : List (Nat × Tag × Nat)), LoopNest.tagMode j.record ≠ 3 → ∀ p ∈ places,
      ((s.placeGang j places).cores[coreOf p.2.2]).status = .loading ∧ ((s.placeGang j places).cores[coreOf p.2.2]).item.isSome = true) ∧
    (∀ (j : WalkerJob), s.control.job = some j → j.phaseHeld = true → j.live = 0 →
      exec .nextPhaseDispatch s = .next (s.setControl { s.control with job := some { j with phase := j.phase + 1 } }))

/-- Entry of an item (R51 to R54, R66): the loader reads header, code, copy templates and live maps and sets the core's state; a GO hands
over what the mailbox describes; a loaded core begins to fetch with its sync group. -/
def Obligations.ItemEntry : Prop :=
  (∀ (s : State) (it : Item) (hb cb ct lm : List Byte) (h : ImageHeader) (u v w x : State), s.core.status = .loading →
    s.core.item = some it → it.image.toNat % 64 = 0 →
    s.loaderBytes s.cur it.root it.image 64 .read = .bytes hb u → h = BitVec.ofNat 512 (leNat hb) → ImageHeader.wf h = true →
    (it.flag 5 = true ∨ (u.cores[s.cur]).resident ≠ some (it.image, it.root)) →
    u.loaderBytes s.cur it.root (it.image + BitVec.ofNat 64 (ImageHeader.codeOff h)) (ImageHeader.codeSize h) .code = .bytes cb v →
    v.loaderBytes s.cur it.root (it.image + BitVec.ofNat 64 (ImageHeader.ctOff h)) (64 * ImageHeader.ctCount h) .read = .bytes ct w →
    w.loaderBytes s.cur it.root (it.image + BitVec.ofNat 64 (ImageHeader.lmOff h)) (64 * ImageHeader.lmCount h) .read = .bytes lm x →
    exec .itemLoad s = .next (x.enterItem s.cur it (ImageHeader.info h) (pokeN (v.cores[s.cur]).arrays.imem 0 (codeWords cb)) (liveMaps lm) ct)) ∧
  (∀ (s : State) (it : Item) (hb ct lm : List Byte) (h : ImageHeader) (u w x : State), s.core.status = .loading →
    s.core.item = some it → it.image.toNat % 64 = 0 →
    s.loaderBytes s.cur it.root it.image 64 .read = .bytes hb u → h = BitVec.ofNat 512 (leNat hb) → ImageHeader.wf h = true →
    it.flag 5 = false → (u.cores[s.cur]).resident = some (it.image, it.root) →
    u.loaderBytes s.cur it.root (it.image + BitVec.ofNat 64 (ImageHeader.ctOff h)) (64 * ImageHeader.ctCount h) .read = .bytes ct w →
    w.loaderBytes s.cur it.root (it.image + BitVec.ofNat 64 (ImageHeader.lmOff h)) (64 * ImageHeader.lmCount h) .read = .bytes lm x →
    exec .itemLoad s = .next (x.enterItem s.cur it (ImageHeader.info h) (u.cores[s.cur]).arrays.imem (liveMaps lm) ct)) ∧
  (∀ (s : State) (i : Fin 96) (it : Item) (img : ImageInfo) (imem : Sparse 32) (maps : List (BitVec 512)) (ct : List Byte),
    Entered ((s.enterItem i it img imem maps ct).cores[i]) it img ∧
      ((s.enterItem i it img imem maps ct).cores[i]).arrays.imem = imem ∧
      ((s.cores[i]).keepsArrays it = true → ((s.enterItem i it img imem maps ct).cores[i]).arrays.vrf = (s.cores[i]).arrays.vrf) ∧
      ((s.cores[i]).keepsArrays it = false → ((s.enterItem i it img imem maps ct).cores[i]).arrays.vrf = []) ∧
      ∀ j : Fin 96, j ≠ i → (s.enterItem i it img imem maps ct).cores[j] = s.cores[j]) ∧
  (∀ (s : State), s.core.item = none →
    ((bitsAt s.core.mailbox 512 16 = 0 ∨ s.tags.isLive (bitsAt s.core.mailbox 512 16) = true) →
      ∃ t it, exec .go s = .next t ∧ t.core.status = .loading ∧ t.core.item = some it ∧
        it.image = BitVec.ofNat 64 (bitsAt s.core.mailbox 0 64) ∧ it.args = BitVec.ofNat 64 (bitsAt s.core.mailbox 64 64) ∧
        it.tag = BitVec.ofNat 16 (bitsAt s.core.mailbox 512 16) ∧ it.command = none ∧ t.mem = s.mem ∧
        ∀ j : Fin 96, j ≠ s.cur → t.cores[j] = s.cores[j]) ∧
    (bitsAt s.core.mailbox 512 16 ≠ 0 → s.tags.isLive (bitsAt s.core.mailbox 512 16) = false →
      ∃ t, exec .go s = .next t ∧ t.core.item = none ∧ t.core.status = .ended ∧ t.core.lstat = 2)) ∧
  (∀ (s : State), s.core.status = .loaded → s.groupLoading = false → (s.core.item.bind (·.resume)) = none →
    ∃ t, exec .syncGroupStart s = .next t ∧ t.core.status = .running ∧ t.core.seq.mode = .run ∧ t.core.seq.start = s.now ∧
      t.core.seq.ready = s.now ∧ t.core.pc = s.core.pc ∧
      (∀ j : Fin 96, s.core.fellow s.cores[j] = true → (s.cores[j]).status = .loaded →
        (t.cores[j]).status = .running ∧ (t.cores[j]).seq.start = s.now) ∧
      (∀ j : Fin 96, j ≠ s.cur → s.core.fellow s.cores[j] = false → t.cores[j] = s.cores[j]) ∧ t.mem = s.mem)

/-- The end of an item (R44, R51, R52, R110, R381): a drained item commits with OK, or with FAULT from a handler entered by an XLATE; a
termination cuts short what runs, a copy at the end of the sectors it has begun to write, and once that is over the item ends with its status.
Only a direct launch leaves its core ENDED. -/
def Obligations.ItemEnd : Prop :=
  ∀ (s : State),
    (∀ (it : Item), s.core.status = .running → s.core.seq.mode = .draining → s.core.drained = true → s.core.item = some it →
      ∃ t, exec .itemRetire s = .next t ∧ (t.cores[s.cur]).item = none ∧
        (t.cores[s.cur]).status = (if it.command.isSome then .idle else .ended) ∧
        (t.cores[s.cur]).lstat = (if s.core.tl && bitsAt s.core.trapRegs.cause 0 8 == 4 then 2 else 1) ∧
        (t.cores[s.cur]).sregs = s.core.sregs ∧ (t.cores[s.cur]).arrays = s.core.arrays ∧
        (∀ j : Fin 96, j ≠ s.cur → (t.cores[j]).item = (s.cores[j]).item)) ∧
    (∀ (core : Fin 96) (status detail : Byte), (s.cores[core]).item.isSome = true → (s.cores[core]).status = .running →
      (∀ st d, (s.cores[core]).seq.mode ≠ .ending st d) →
      ∃ t, exec (.termination core status detail) s = .next t ∧ (t.cores[core]).seq.mode = .ending status detail ∧
        (t.cores[core]).queues.cq = [] ∧ (t.cores[core]).queues.unplaced = [] ∧ (t.cores[core]).channels = [] ∧ (t.cores[core]).bank0.loads = [] ∧
        (t.cores[core]).phase = none ∧ (t.cores[core]).clause.valid = false ∧ (t.cores[core]).sregs = (s.cores[core]).sregs ∧
        t.mem = (((s.cores[core]).channels.filterMap (·.2.run)).foldl (fun s r => s.finishSectors core r) s).mem ∧
        ((∀ x ∈ (s.cores[core]).channels, ∀ r, x.2.run = some r → ∀ b ∈ r.pend, b.begun = false) →
          (t.cores[core]).arrays = (s.cores[core]).arrays ∧ t.mem = s.mem ∧ ∀ j : Fin 96, j ≠ core → t.cores[j] = s.cores[j])) ∧
    (∀ (i : Fin 96) (r : CopyRun) (b : SectorBuf), r.pend = [b] → b.begun = true → s.finishSectors i r =
      (s.writeHalf i (r.template.getLsbD 61) b 0).writeHalf i (r.template.getLsbD 61) b 1) ∧
    (∀ (core : Fin 96) (status detail st d : Byte) (it : Item), (s.cores[core]).item = some it → (s.cores[core]).status = .running →
      (s.cores[core]).seq.mode = .ending st d → (s.onUnit core .seq).allOver = true →
      ∃ t, exec (.termination core status detail) s = .next t ∧ (t.cores[core]).item = none ∧
        (t.cores[core]).status = (if it.command.isSome then .idle else .ended) ∧ (t.cores[core]).lstat = BitVec.ofNat 8 st.toNat) ∧
    (∀ (core : Fin 96) (status detail : Byte) (it : Item), (s.cores[core]).item = some it → (s.cores[core]).status = .loading →
      ∃ t, exec (.termination core status detail) s = .next t ∧ (t.cores[core]).item = none ∧
        (t.cores[core]).status = (if it.command.isSome then .idle else .ended) ∧ (t.cores[core]).lstat = status)

/-- Requests from outside and pre-emption (R79, R358, R362 to R364): the request bits take the value written, a pending push goes when its
counter has room, a drained item is saved, with SCHED as its safe point found it, and requeued, and goes on from its save area, and a missed timeout ends it where its queue allows. Of operations
that wait in the CQ each pushes as soon as its own counter has room. That a resumption reads as the loader does is the model's choice (log
entry 10), and that the save area is mapped whatever SPBASE says its reading (log entry 9). -/
def Obligations.Preemption : Prop :=
  ∀ (s : State),
    (∀ (core : Fin 96) (value : Bool), ∃ t, exec (.interruptRequest core value) s = .next t ∧ (t.cores[core]).irq = value ∧
      (∀ j : Fin 96, j ≠ core → t.cores[j] = s.cores[j]) ∧ t.mem = s.mem ∧ t.agenda = s.agenda) ∧
    (∀ (core : Fin 96), ∃ t, exec (.preemptionRequest core true) s = .next t ∧ (t.cores[core]).prq = true ∧
      ((s.cores[core]).prq = false → (t.cores[core]).prqSince = s.clock.gts ∧
        ∃ p ∈ t.agenda, p.instr = .preemptionTimeout ∧ p.focus.core = core)) ∧
    (∀ (core : Fin 96), (s.cores[core]).preempting = false → ∃ t, exec (.preemptionRequest core false) s = .next t ∧
      (t.cores[core]).prq = false ∧ ∀ j : Fin 96, j ≠ core → t.cores[j] = s.cores[j]) ∧
    (∀ (lq : Bool) (e : QEntry) (rest : List QEntry) (p n : Bool), s.actor = (if lq then .lq else .sq) → s.core.side lq = e :: rest →
      e.state = .pushing p n → s.core.canPush lq = true → ∃ t, exec .tokenPush s = .next t ∧ t.core.side lq = rest ∧
        (if lq then t.core.bank.tok.lqcq = s.core.bank.tok.lqcq + 1 else t.core.bank.tok.sqcq = s.core.bank.tok.sqcq + 1) ∧
        t.core.sregs = s.core.sregs ∧ t.mem = s.mem) ∧
    (∀ (e : QEntry) (p n : Bool), s.actor = .cq → s.core.queues.cq = [e] → e.state = .pushing p n → p || n = true →
      (p = true → s.core.bank.tok.cqlq < 15) → (n = true → s.core.bank.tok.cqsq < 15) → ∃ t, exec .tokenPush s = .next t ∧
        t.core.queues.cq = [] ∧ t.core.bank.tok.cqlq = s.core.bank.tok.cqlq + natOfBool p ∧
        t.core.bank.tok.cqsq = s.core.bank.tok.cqsq + natOfBool n ∧ t.core.sregs = s.core.sregs ∧ t.mem = s.mem) ∧
    (∀ (e e' : QEntry), s.actor = .cq → s.core.queues.cq = [e, e'] → e.state = .pushing true false → e'.state = .pushing false true →
      15 ≤ s.core.bank.tok.cqlq → s.core.bank.tok.cqsq < 15 → ∃ t, exec .tokenPush s = .next t ∧ t.core.queues.cq = [e] ∧
        t.core.bank.tok.cqlq = s.core.bank.tok.cqlq ∧ t.core.bank.tok.cqsq = s.core.bank.tok.cqsq + 1) ∧
    (∀ (n : BitVec 6) (sched : Nat) (it : Item) (runs : List (List Seg × List Byte)), s.core.seq.mode = .preempting n sched → s.core.drained = true →
      s.mem.marks = [] → s.core.damage = [] → s.core.item = some it →
      s.mapSaves (saBase s.core.sys.savearea)
        (s.core.saveRuns (s.core.arrays.livemaps.getD n.toNat 0) n.toNat (s.core.pc + 4) sched) = .ok runs →
      (∀ r ∈ runs, s.sitesJoined r.1 = true) →
      ∃ t, exec .preemption s = .next t ∧ (t.cores[s.cur]).item = none ∧ (t.cores[s.cur]).status = .idle ∧ (t.cores[s.cur]).prq = false ∧
        t.control.requeued = s.control.requeued ++ [{ it with resume := some s.core.sys.savearea, pressed := false }]) ∧
    (∀ (it : Item) (save : Word) (bs : List Byte) (u : State), s.core.status = .loaded → s.core.item = some it → it.resume = some save →
      s.loaderBytes s.cur it.root (saBase save + 0) 0x360 .read = .bytes bs u →
      exec .resumption s = .next (u.readSpans s.cur it.root (saBase save) (fun v y =>
        v.resume s.cur it save y (u.core.arrays.livemaps.getD (imageBits (pokeN [] 0 bs) 0 16 6) 0))
        ((LiveMap.spans (u.core.arrays.livemaps.getD (imageBits (pokeN [] 0 bs) 0 16 6) 0)).drop 1) (pokeN [] 0 bs))) ∧
    (∀ (it : Item) (save : Word) (x : Sparse 8) (m : LiveMap) (bs : List Byte) (u : State),
      (s.withCore (s.core.restored x m save)).loaderBytes s.cur it.root (saBase save + 0x2000#64) ((s.core.restored x m save).bodyLength m) .read
        = .bytes bs u → ∃ c, (s.resume s.cur it save x m).core = c ∧ c.status = .running ∧ c.seq.mode = .run) ∧
    (s.core.prq = true → s.core.preempting = false → s.core.prqSince + s.core.ptoNs ≤ s.clock.gts → s.mayTimeout s.core = true →
      exec .preemptionTimeout s = .next (s.post (.termination s.cur 0x05 0))) ∧
    ((s.core.prq = false ∨ s.core.preempting = true) → exec .preemptionTimeout s = .next s)

end
namespace Sys2Proof.Machine

open Sys2Proof

/-! ### Faults, tags, engines and sites: what the statements name -/

/-- The event that a focus names stands in the agenda for a cycle. -/
def State.planned (s : State) (i : Instr) (f : Focus) (t : Nat) : Prop := ⟨t, f, i⟩ ∈ s.agenda

/-- The Sluice's queues, its commands and the walker's job are as they were; a store may still make a Weir entry fire. -/
structure SluiceKept (s t : State) : Prop where
  queues : t.control.queues = s.control.queues
  commands : t.control.commands = s.control.commands
  job : t.control.job = s.control.job
  requeued : t.control.requeued = s.control.requeued

/-- The state in which an element has been read and its translations are settled. -/
def State.elementRead (s : State) (i : Fin 96) (k : Nat) : State := s.settleOwed (engineSource i.val k) .seq

/-- An operand list of a row and what is counted: the source rows as the row engine reads them give `rows`. -/
def RowCmd.value (r : RowCmd) (rows : List (List Byte)) : List Byte :=
  rowResult r.fn (RowDesc.psel r.desc) (RowDesc.pattern r.desc) rows

/-- What the store of a site holds once a page has been compressed into it (R289, R290): its image where one that is no larger than
61,440 bytes has found room, else what it held. -/
def State.storeAfter (s : State) (i : Fin 8) (pte page : Nat) : List StoredImage :=
  let r := s.pageBytes page
  let size := (Config.compressedImage r.1).length
  let units := bitsAt (r.2.tiers[i]).cscnt 0 32 * 16
  let h := r.2.pickBelow units
  match if 61440 < size then none else (h.2.tiers[i]).roomFrom h.2.tags.retiredPages size units units h.1 with
  | some place => { place := place, pte := pte, page := r.1 } :: (s.tiers[i]).images
  | none => (s.tiers[i]).images

/-- The element that a copy leaves in its channel's FIFO, if any (R241). -/
def CopyRun.elements (r : CopyRun) (w : Word) : List DoneElem :=
  let status := if r.failed = 0 then 1 else r.failed
  if owesElement w status then [{ word := doneWord w r.clip status, lines := r.lines }] else []

end Sys2Proof.Machine

section
open Sys2Proof Sys2Proof.Machine

/-- The service of faults (R256, R285, R286, R354 to R356): A and D are set in the entry, a walk fills the TLB, a tag's page is taken from
its site's pool and enters the directory, or is owed to an access that finds it there, a compressed page is expanded out of the site's store
that the model names for its entry (log entry 21), and a page request goes to the host and is answered. -/
def Obligations.FaultService : Prop :=
  ∀ (s : State),
    (∀ (pte : Nat) (u : State) (p : Word), s.tableRead pte = (u, some p) → u.pteAt pte = p → pteV p = true → pteL p = true → pte % 8 = 0 →
      (∃ t, exec (.accessedFault pte) s = .next t ∧ t.pteAt pte = p ||| 0x20 ∧ SluiceKept s t ∧ t.tags = s.tags ∧
        ∀ i : Fin 96, ∀ f ∈ (t.cores[i]).faults, f.event ≠ .accessedFault pte) ∧
      (∃ t, exec (.dirtyFault pte) s = .next t ∧ t.pteAt pte = p ||| 0x60 ∧ SluiceKept s t ∧ t.tags = s.tags ∧
        ∀ i : Fin 96, ∀ f ∈ (t.cores[i]).faults, f.event ≠ .dirtyFault pte)) ∧
    (∀ (req : FaultReq) (e : XlatEntry) (i : Fin 96), requesterCore req.source = some i →
      (s.serveWalk (some (dieOf i.val)) req.root req.va).2 = .leaf e →
      ∃ t, exec (.walkMiss req) s = .next t ∧ e ∈ (t.cores[i]).caches.tlb ∧ (dieOf i.val, e) ∈ t.mem.walkCache ∧ t.tags = s.tags ∧
        SluiceKept s t ∧ ∀ j : Fin 96, ∀ f ∈ (t.cores[j]).faults, f.event ≠ .walkMiss req) ∧
    (∀ (req : FaultReq) (pte f : Nat) (u : State) (p : Word), s.tableRead pte = (u, some p) → pteV p = true → pteT p = true →
      s.tags.inUse req.tag.toNat = true → ptePage p ≠ zeroPage →
      (s.tags.ownPage? (ptePage p) req.tag.toNat = none → s.tags.freePage (lineSite (ptePage p / 64)) = some f →
        u.mem.badLine (ptePage p / 65536) = none → u.pageHeld f = false → u.pageHeld (ptePage p) = false →
        (u.fillPage (ptePage p) f).2 = none →
        ∃ t, exec (.materialisation req pte) s = .next t ∧
          t.tags.ownPage? (ptePage p) req.tag.toNat = some f ∧ t.tags.used = f :: s.tags.used ∧
          (256 ≤ req.source → { unit := .seq, req := req } ∈ t.tags.owed) ∧
          (req.source < 256 → ∀ x ∈ (s.cores[coreOf req.source]).faults, x.event = .materialisation req pte →
            { unit := x.unit, req := req } ∈ t.tags.owed) ∧
          t.tags.tags = s.tags.tags ∧ SluiceKept s t) ∧
      (s.tags.ownPage? (ptePage p) req.tag.toNat = some f →
        ∃ t, exec (.materialisation req pte) s = .next t ∧ t.tags.dir = s.tags.dir ∧ t.tags.used = s.tags.used ∧
          (256 ≤ req.source → { unit := .seq, req := req } ∈ t.tags.owed) ∧
          (req.source < 256 → ∀ x ∈ (s.cores[coreOf req.source]).faults, x.event = .materialisation req pte →
            { unit := x.unit, req := req } ∈ t.tags.owed) ∧
          ∀ i : Fin 96, ∀ x ∈ (t.cores[i]).faults, x.event ≠ .materialisation req pte)) ∧
    (∀ (req : FaultReq) (pte f : Nat) (u : State) (p : Word), s.tableRead pte = (u, some p) → pteV p = true → pteT p = true →
      s.tags.inUse req.tag.toNat = true → ptePage p = zeroPage → s.tags.ownPage? pte req.tag.toNat = none →
      s.tags.freePage (bitsAt req.va 16 3) = some f → u.pageHeld f = false →
      ∃ t, exec (.materialisation req pte) s = .next t ∧ t.tags.ownPage? pte req.tag.toNat = some f ∧ t.tags.used = f :: s.tags.used) ∧
    (∀ (req : FaultReq) (pte f : Nat) (i : Fin 8) (u v : State) (p : Word) (bs : List Byte), s.tableRead pte = (u, some p) →
      pteV p = false → pteImage p 0 = true → u.imageSite req.va pte = i → s.tags.freePage i.val = some f → u.pageHeld f = false →
      u.readImage i (u.imagePlace i (u.pteAt pte)) = (v, .bytes bs) →
      ∃ t, exec (.compressedFault req pte) s = .next t ∧ t.tags.used = f :: s.tags.used ∧
        (∀ x ∈ (t.tiers[i]).images, x.place ≠ u.imagePlace i (u.pteAt pte)) ∧ (∀ j : Fin 8, j ≠ i → t.tiers[j] = s.tiers[j]) ∧
        SluiceKept s t ∧
        (pte % 8 = 0 → t.pteAt pte = pteMapped (v.pteAt pte) f)) ∧
    (∀ (req : FaultReq) (kind : BitVec 4) (rid : Nat), s.requestGone req kind = false →
      (∀ r ∈ s.pages.outstanding, sameRequest r.req r.kind req kind = false) → s.pages.sized = true → s.pages.nextRid = some rid →
      ∃ t, exec (.pageRequest req kind) s = .next t ∧ t.pages.prtail = s.pages.prtail + 1 ∧
        t.pages.outstanding = s.pages.outstanding ++
          [{ rid := rid, gen := peek s.pages.gens rid + 1, req := req, kind := kind, waiters := [req.source] }] ∧
        t.mgmt.interrupts = s.mgmt.interrupts ++ [16] ∧ SluiceKept s t ∧ t.tags = s.tags ∧ (∀ w ∈ t.pages.waiting, w ∈ s.pages.waiting)) ∧
    (∀ (req : FaultReq) (kind : BitVec 4), s.requestGone req kind = false →
      (∀ r ∈ s.pages.outstanding, sameRequest r.req r.kind req kind = false) → s.pages.sized = true → s.pages.nextRid = none →
      (∀ w ∈ s.pages.waiting, w.req ≠ req ∨ w.kind ≠ kind) → ∃ t, exec (.pageRequest req kind) s = .next t ∧
        { req := req, kind := kind, gts := s.clock.gts } ∈ t.pages.waiting ∧ t.pages.outstanding = s.pages.outstanding ∧ t.mem = s.mem) ∧
    (∀ (rid gen : BitVec 16) (r : PageReq), s.pages.outstanding.find? (fun r => r.rid == rid.toNat && r.gen == gen) = some r →
      (∃ t, exec (.pageRequestSuccess rid gen) s = .next t ∧ (∀ x ∈ t.pages.outstanding, x.rid ≠ r.rid) ∧
        (∀ w ∈ s.pages.waiting, ∃ p ∈ t.agenda, p.instr = .pageRequest w.req w.kind) ∧
        (∀ i : Fin 96, ∀ f ∈ (t.cores[i]).faults, r.covers f = false ∨ (r.kind = 2 ∧ f.event = f.origin)) ∧
        (r.kind ≠ 2 → t.mem = s.mem)) ∧
      (∃ t, exec (.pageRequestFailure rid gen) s = .next t ∧ (∀ x ∈ t.pages.outstanding, x.rid ≠ r.rid) ∧
        (∀ w ∈ s.pages.waiting, ∃ p ∈ t.agenda, p.instr = .pageRequest w.req w.kind) ∧
        (∀ i : Fin 96, ∀ f ∈ (t.cores[i]).faults, r.covers f = true → f.declined = true) ∧
        (∀ x ∈ r.waiters, 256 ≤ x → x ∈ t.pages.failed) ∧ t.mem = s.mem)) ∧
    (∀ (rid gen : BitVec 16), s.pages.outstanding.find? (fun r => r.rid == rid.toNat && r.gen == gen) = none →
      exec (.pageRequestSuccess rid gen) s = .next s.control! ∧ exec (.pageRequestFailure rid gen) s = .next s.control!)

/-- Tags and device registers (R14, R257, R261, R269, R274, R287, R288): what a read or a write through the BAR does, and what it starts. -/
def Obligations.DeviceRegisters : Prop :=
  ∀ (s : State),
    (∀ (offset : Nat) (value : Word), s.mgmt.idle = 0 →
      (offset % 8 ≠ 0 → exec (.registerWrite offset value) s = .next s) ∧
      (s.mgmt.stage = .stage0 → offset < 0x1000000 → exec (.registerWrite offset value) s = .next s) ∧
      (s.mgmt.stage ≠ .stage0 → offset = 0x13400 → ∃ t, exec (.registerWrite offset value) s = .next t ∧
        t.regRead 0x13400 = value ∧ t.regRead 0x13408 = s.regRead 0x13408 ∧ t.mem = s.mem ∧ t.cores = s.cores) ∧
      (s.mgmt.stage ≠ .stage0 → offset = 0x20100 → ∃ t, exec (.registerWrite offset value) s = .next t ∧
        t.mem.tiroot = BitVec.ofNat 64 (fieldIn value 56 12) ∧ t.regRead 0x20100 = t.mem.tiroot ∧ t.cores = s.cores) ∧
      (s.mgmt.stage ≠ .stage0 → offset = 0x10 → ∃ t, exec (.registerWrite offset value) s = .next t ∧
        t.regRead 0x10 = BitVec.ofNat 64 (fieldIn value 56 12) ∧ t.mem = s.mem ∧ t.cores = s.cores)) ∧
    (s.mgmt.idle = 0 → s.mgmt.stage = .stage2 → exec .tagnewRead s = .next (s.askTag hostSource false)) ∧
    (s.mgmt.idle = 0 → s.mgmt.stage ≠ .stage2 → exec .tagnewRead s = .next s) ∧
    (s.tags.arrived = [] → (s.askTag hostSource false).settleAsks = s.setTags s.tags.allocNow.2) ∧
    (∀ tag : Tag, tag ≠ 0 → s.tags.isLive tag.toNat = true → ∃ t, exec (.tagretWrite tag) s = .next t ∧
      t.tags.tags = assign s.tags.tags tag.toNat .retiring ∧ t.planned (.tagRetirement tag) s.focus s.now ∧ t.mem = s.mem) ∧
    (exec (.tagretWrite 0) s = .next s) ∧
    (∀ tag : Tag, (tag.toNat, TagState.retiring) ∈ s.tags.tags → s.tagBusy tag.toNat = false → s.tags.waiters = [] →
      ∃ t, exec (.tagRetirement tag) s = .next t ∧ t.tags.tags = unassign s.tags.tags tag.toNat ∧
        t.tags.dir = (s.tags.dir.filter fun e => e.1.2 != tag.toNat) ∧ (∀ k ∈ t.tags.killed, k ≠ tag.toNat)) ∧
    (∀ va : Word, ∃ t, exec (.tivaInvalidate va) s = .next t ∧
      (∀ i : Fin 96, (t.cores[i]).caches.tlb = (s.cores[i]).caches.tlb.filter fun e => !e.covers s.mem.tiroot.toNat va) ∧
      t.mem.walkCache = (s.mem.walkCache.filter fun d => !d.2.covers s.mem.tiroot.toNat va) ∧ t.mem.dram = s.mem.dram ∧
      ((∀ p ∈ s.agenda, isInvalidation p.instr = false) → t.mem.tiBusy = false)) ∧
    (∃ t, exec .tiallInvalidate s = .next t ∧
      (∀ i : Fin 96, (t.cores[i]).caches.tlb = (s.cores[i]).caches.tlb.filter fun e => !(e.root == s.mem.tiroot.toNat)) ∧
      t.mem.dram = s.mem.dram) ∧
    (∀ (i : Fin 8) (value : Word),
      (s.tags.tags = [] → (∃ t, exec (.poolRegisterWrite (0x20040 + 16 * i.val) value) s = .next t ∧
          t.tags.mpbase[i.val] = BitVec.ofNat 64 (fieldIn value 56 16) ∧ t.tags.mpcnt = s.tags.mpcnt ∧ t.mem = s.mem) ∧
        (∃ t, exec (.poolRegisterWrite (0x20048 + 16 * i.val) value) s = .next t ∧
          t.tags.mpcnt[i.val] = BitVec.ofNat 64 (fieldIn value 31 0) ∧ t.tags.mpbase = s.tags.mpbase ∧ t.mem = s.mem) ∧
        (∃ t, exec (.poolRegisterWrite (0x20200 + 64 * i.val) value) s = .next t ∧
          (t.tiers[i]).csbase = BitVec.ofNat 64 (fieldIn value 56 16) ∧ t.tags = s.tags)) ∧
      ((s.tiers[i]).queue.length < 8 → ∃ t, exec (.tierCommandWrite i value) s = .next t ∧
        (t.tiers[i]).queue = (s.tiers[i]).queue ++ [fieldIn value 56 5] ∧ (t.tiers[i]).terr = (s.tiers[i]).terr) ∧
      (8 ≤ (s.tiers[i]).queue.length → ∃ t, exec (.tierCommandWrite i value) s = .next t ∧
        (t.tiers[i]).queue = (s.tiers[i]).queue ∧ (t.tiers[i]).terr = true))

/-- Engines (R233 to R242, R281, R282, R297 to R304): a start word enters its channel, a command reads its template and goes element by
element, completion elements are popped in order, a row is combined in memory, and a request is issued in its core's slot. The time a command takes
before its first element (log entry 8) and the cycle on which a request that misses has its data (log entry 23) are the model's free
values. -/
def Obligations.Engines : Prop :=
  ∀ (s : State),
    (∀ (core : Fin 96) (chan : BitVec 4) (word : Word), ((s.cores[core]).channel chan.toNat).jobs.length < 4 →
      ∃ t job, exec (.copyStartWord core chan word) s = .next t ∧
        ((t.cores[core]).channel chan.toNat).jobs = ((s.cores[core]).channel chan.toNat).jobs ++ [job] ∧ job.word = word ∧
        job.tag = (s.cores[core]).sys.ctx ∧ ((t.cores[core]).channel chan.toNat).fifo = ((s.cores[core]).channel chan.toNat).fifo ∧
        (t.cores[core]).sregs = (s.cores[core]).sregs ∧ t.mem = s.mem ∧ ∀ j : Fin 96, j ≠ core → t.cores[j] = s.cores[j]) ∧
    (∀ (job : CopyJob) (rest : List CopyJob) (img : ImageInfo) (base : Nat), s.core.refetch = [] → (s.core.channel s.chan).jobs = job :: rest →
      (s.core.channel s.chan).ready ≤ s.now → (s.core.channel s.chan).run = none → s.core.copyTurn job = true → s.wire = false → s.core.seq.wired = false → s.core.image = some img →
      base = img.ctbase + 64 * wordTidx job.word → base + 64 ≤ 2 ^ 23 → s.mem.marks = [] →
      s.templateOk s.cur job.word (BitVec.ofNat 512 (leNat (s.core.spBytes base 64))) = true →
      ∃ t r, exec .copyCommand s = .next t ∧ (t.core.channel s.chan).run = some r ∧ (t.core.channel s.chan).jobs = job :: rest ∧
        r.template = BitVec.ofNat 512 (leNat (s.core.spBytes base 64)) ∧ r.next = 0 ∧ r.failed = 0 ∧ r.clip = false ∧
        (t.core.channel s.chan).ready = s.now + 1 + Config.pick s.free ∧ t.core.arrays = s.core.arrays ∧ t.mem = s.mem) ∧
    (∀ (job : CopyJob) (rest : List CopyJob) (r r' : CopyRun) (u v : State) (data : Option SourceData) (runs : List (Word × Nat × Nat)),
      s.core.refetch = [] → (s.core.channel s.chan).jobs = job :: rest → (s.core.channel s.chan).ready ≤ s.now →
      (s.core.channel s.chan).run = some r → r.atEnd = false → s.needSlot s.cur r = some (u, r') →
      u.copyAccess s.cur (engineSource s.cur.val s.chan) job r' ((u.cores[s.cur]).copySlotBase r') r'.next = .ok (data, runs) v →
      exec .copyCommand s = .next ((v.elementRead s.cur s.chan).afterElement s.cur s.chan
        ((r'.gather s.cur ((u.cores[s.cur]).copySlotBase r') r'.next (data.map (·.1)) runs (Template.clipped r'.template r'.next)
          (r'.failed != 0)).patchHeld s.cur ((data.map (·.2)).getD [])) ((u.cores[s.cur]).copySlotBase r') r'.next)) ∧
    (∀ (job : CopyJob) (rest : List CopyJob) (r : CopyRun),
      s.core.refetch = [] → (s.core.channel s.chan).jobs = job :: rest → (s.core.channel s.chan).ready ≤ s.now →
      (s.core.channel s.chan).run = some r → r.atEnd = true →
      (∀ b h, r.halves[(s.pickBelow r.halves.length).1]? = some (b, h) → exec .copyCommand s = .next (s.writeNext s.cur s.chan r)) ∧
      (r.halves = [] → r.next = Template.total r.template → (s.core.channel s.chan).fifo.length < 8 →
        ∃ t, exec .copyCommand s = .next t ∧ (t.core.channel s.chan).jobs = rest ∧ (t.core.channel s.chan).run = none ∧
          (t.core.channel s.chan).fifo = (s.core.channel s.chan).fifo ++ r.elements job.word)) ∧
    ((∀ d rest, (s.core.channel s.focus.chan.val).fifo = d :: rest → ∃ t, exec .completionPop s = .next t ∧
        t.core.bank.loads = s.core.bank.loads ++ [d.word] ∧ (t.core.channel s.focus.chan.val).fifo = rest ∧ t.mem = s.mem) ∧
      ((s.core.channel s.focus.chan.val).fifo = [] → ∃ t, exec .completionPop s = .next t ∧
        t.core.bank.loads = s.core.bank.loads ++ [0] ∧ t.mem = s.mem)) ∧
    ((∀ d rest, s.core.rowFifo = d :: rest → ∃ t, exec .rowCompletionPop s = .next t ∧ t.core.bank.loads = s.core.bank.loads ++ [d.word] ∧
        t.core.rowFifo = rest ∧ t.mem = s.mem) ∧
      (s.core.rowFifo = [] → ∃ t, exec .rowCompletionPop s = .next t ∧ t.core.bank.loads = s.core.bank.loads ++ [0] ∧ t.core.rowFifo = [])) ∧
    (∀ (r : RowCmd) (rest : List RowCmd), s.core.rows = r :: rest →
      (r.begun = false → s.wire = false → s.core.seq.wired = false → ∃ t, exec .rowCommand s = .next t ∧ t.core.rows = { r with begun := true } :: rest ∧ t.mem = s.mem) ∧
      (∀ (dst : Nat) (src : List Nat) (fills : List (Nat × List Nat)) (u : State) (rows : List (List Byte)), r.begun = true →
        r.lines ≠ [] → r.fills = (dst, src) :: fills → (∀ pa ∈ dst :: src, s.lineHeld (pa / 64) = false) → s.readRows src = (u, .ok rows) →
        ∃ t, exec .rowCommand s = .next t ∧ t.mem.dram = pokeN (w := 8) u.mem.dram dst (r.value rows) ∧
          t.core.rows = { r with fills := fills, fast := r.fast + natOfBool (fastRow r.fn dst src),
                                 fall := r.fall + natOfBool (!fastRow r.fn dst src) } :: rest ∧
          (∀ l ∈ t.mem.l2, l.key / 16 ≠ dst / 1024) ∧ ∀ l ∈ t.mem.cistern, l.key / 16 ≠ dst / 1024)) ∧
    (∀ (r : CalRequest), s.mem.unissued s.cur.val s.focus.site.val = some r → s.slotFrom s.cur.val s.focus.site.val s.now = s.now →
      (s.sites[s.focus.site]).joined = true →
      ∃ t, exec .calendarSlot s = .next t ∧ { r with slot := s.now, due := some (s.dataCycle r) } ∈ t.mem.requests ∧
        t.planned .requestData s.focus (s.dataCycle r) ∧ t.mem.dram = s.mem.dram ∧ t.cores = s.cores) ∧
    (∀ (r : CalRequest) (key : Nat) (more : List Nat), s.mem.requests.find? (fun r => r.core == s.cur.val && r.site == s.focus.site.val &&
        (match r.due with
          | some t => decide (t ≤ s.now)
          | none => false)) = some r → r.lines = key :: more →
      (s.fetchWaits key = true → ∃ t, exec .requestData s = .next t ∧ { r with due := some (s.now + 32) } ∈ t.mem.requests ∧
        t.planned .requestData s.focus (s.now + 32) ∧ t.mem.dram = s.mem.dram ∧ t.cores = s.cores) ∧
      (s.fetchWaits key = false → exec .requestData s = .next (let u := s.lineArrives key
        let u := u.setMem (u.mem.shorten r (u.now + 1))
        if more = [] then u else u.postAt (u.now + 1) .requestData)))

/-- Memory sites and errors (R288 to R293, R368 to R371, R377, R394, R280): tier commands, heat, refresh and its takeover, alerts, the patrol, the
owner's handling of an error, strikes, the log of the host, and accesses of agents. The model's own: the pace of the patrol (log entry 20),
where images lie (21), that an agent's write to the zero page and to the heat window goes nowhere (26), the hand-back and the watch for a
takeover (30), the end of the addresses an agent can name (41), the counter of a row that alerts (42), and the shape of the host's atomic
operations (55). -/
def Obligations.SitesAndErrors : Prop :=
  ∀ (s : State) (site : Fin 8), s.focus.site = site →
    (∀ (pa : Nat) (rest : List Nat) (u v : State) (c : TierCmd) (p : Word), (s.tiers[site]).queue = pa :: rest →
      s.tierRead site pa = (u, .cmd c) → u.tierShape c = true → u.tableRead (TierCmd.ptepa c) = (v, some p) → v.tierLeaf p = true →
      (TierCmd.op c = 1 → pteC p = true → pteT p = false →
        (v.mem.inFlight.contains (ptePage p / 65536) = false → exec .compressTier s = .next (v.markFlight (ptePage p / 65536))) ∧
        (v.mem.inFlight.contains (ptePage p / 65536) = true → v.pageWriter (ptePage p / 65536) = false →
          v.pageHeld (ptePage p / 65536 * 65536) = false →
          exec .compressTier s = .next (v.compressPage site c (ptePage p / 65536)))) ∧
      (TierCmd.op c = 2 → v.tierDest c = true →
        (v.mem.inFlight.contains (ptePage p / 65536) = false → exec .moveTier s = .next (v.markFlight (ptePage p / 65536))) ∧
        (v.mem.inFlight.contains (ptePage p / 65536) = true → v.pageWriter (ptePage p / 65536) = false →
          v.pageHeld (ptePage p / 65536 * 65536) = false → v.pageHeld (TierCmd.dest c) = false →
          exec .moveTier s = .next (v.movePage site c (ptePage p / 65536))))) ∧
    (∀ (pa : Nat) (rest : List Nat) (u v : State) (c : TierCmd) (p : Word), (s.tiers[site]).queue = pa :: rest →
      s.tierRead site pa = (u, .cmd c) → u.tierShape c = true → u.tableRead (TierCmd.ptepa c) = (v, some p) → tierImage p = true →
      TierCmd.op c = 2 → v.tierDest c = true → v.pageHeld (TierCmd.dest c) = false →
      exec .moveTier s = .next (v.moveImage site c)) ∧
    (∀ (c : TierCmd) (page : Nat), s.mem.badLine page = none →
      (s.compressPage site c page).mem.inFlight.contains page = false ∧
        ((s.compressPage site c page).tiers[site]).images = s.storeAfter site (TierCmd.ptepa c) page) ∧
    (Sparse.wf s.mem.heat = true → ∃ t, exec .heatHalving s = .next t ∧ (∀ k, peek t.mem.heat k = peek s.mem.heat k >>> 1) ∧
      t.planned .heatHalving Focus.zero (s.now + s.cyclesFor 10000000) ∧ t.mem.dram = s.mem.dram ∧ t.cores = s.cores) ∧
    (∃ t, exec .refresh s = .next t ∧ (t.sites[site]).refreshes = (s.sites[site]).refreshes + 1 ∧
      t.planned .refresh (siteFocus site) (s.now + s.refreshCycles) ∧ t.mem = s.mem) ∧
    ((s.sites[site]).takeover = false → ∃ t, exec .heartbeat s = .next t ∧ (t.sites[site]).lastHeartbeat = s.clock.gts ∧
      t.planned .heartbeat (siteFocus site) (s.now + s.cyclesFor 1000) ∧ t.planned .takeover (siteFocus site) (s.now + s.cyclesFor 2000)) ∧
    ((s.sites[site]).takeover = false → (s.sites[site]).lastHeartbeat + 2000 ≤ s.clock.gts → ∃ t, exec .takeover s = .next t ∧
      (t.sites[site]).takeover = true ∧ (t.sites[site]).refreshes = (s.sites[site]).refreshes + 1 ∧
      t.mgmt.internalLog.length = (dropForRoom s.mgmt.internalLog).length + 1) ∧
    ((s.sites[site]).takeover = true → s.midRefresh site = none → ∃ t, exec .handBack s = .next t ∧ (t.sites[site]).takeover = false ∧
      t.planned .heartbeat (siteFocus site) s.now) ∧
    (∀ row, (s.sites[site]).alerting.contains row = false → (s.sites[site]).takeover = false →
      ∃ t, exec (.alert site row) s = .next t ∧
        (t.sites[site]).activations = poke (s.sites[site]).activations (rowKey row) 0 ∧
        t.mgmt.internalLog.length = (dropForRoom s.mgmt.internalLog).length + 1 ∧ t.mem = s.mem) ∧
    (nextMark (s.sites[site]).patrol (s.mem.patrolled site.val) = none →
      ∃ t, exec .patrol s = .next t ∧ (t.sites[site]).patrol = 0 ∧ t.mem = s.mem ∧
        ∃ p ∈ t.agenda, p.instr = .patrol ∧ p.focus.site = site ∧ s.now < p.due) ∧
    (∀ k, nextMark (s.sites[site]).patrol (s.mem.patrolled site.val) = some k →
      ∃ t, exec .patrol s = .next t ∧ (t.sites[site]).patrol = k.key + 1 ∧
        ∃ p ∈ t.agenda, p.instr = .patrol ∧ p.focus.site = site ∧ s.now < p.due) ∧
    (∀ err : ErrorReq, s.mem.damaged (arrayOf err.place) err.line = true → err.consumer = .host →
      ∃ t, exec (.ownerHandling err) s = .next t ∧ t.mem.l2At err.line = none ∧ t.mem.cisternAt err.line = none ∧
        (err.line / 1024 * 65536) ∈ t.tags.retiredPages ∧
        (s.lineOwner err.line ≠ 0 → (s.lineOwner err.line).toNat ∈ t.tags.killed) ∧
        (∀ (i : Fin 96) (it : Item), (s.cores[i]).item = some it → s.lineOwner err.line ≠ 0 →
          (s.cores[i]).context = some (s.lineOwner err.line) → ∃ p ∈ t.agenda, p.instr = .termination i 0x03 0)) ∧
    (∀ (die : Fin 4) (zone : Fin 32), ∃ t, exec (.strike die zone) s = .next t ∧
      t.mgmt.internalLog.length = (dropForRoom s.mgmt.internalLog).length + 1 ∧ t.mem = s.mem ∧
      (24 ≤ zone.val → t.cores = s.cores)) ∧
    (∀ x : ErrRecord, s.mgmt.internalLog = [x] → s.mgmt.logRoom = true →
      (bitsAt x 0 64 < s.clock.gts → ∃ t, exec .errorRecord s = .next t ∧ (s.mem.marks = [] → t.mgmt.internalLog = []) ∧
        t.mgmt.interrupts = s.mgmt.interrupts ++ [17] ∧ SluiceKept s t ∧ t.tags = s.tags) ∧
      (s.clock.gts ≤ bitsAt x 0 64 → exec .errorRecord s = .next (s.postAt (s.now + 1) .errorRecord))) ∧
    (s.mgmt.logRoom = false → exec .errorRecord s = .next s) ∧
    (∀ (op : AgentOp) (addr : Nat) (bytes : List Byte), addr + agentWidth op bytes ≤ agentTop → s.mgmt.idle = 0 →
      ((s.agentPlace addr (agentWidth op bytes)).cached = true → s.gone addr = false → agentSound op addr bytes = true →
        (s.siteHolds addr = true → exec (.agentAccess op addr bytes) s = .next s.hold) ∧
        (s.siteHolds addr = false →
          (op = .write → exec (.agentAccess op addr bytes) s = .next (s.agentStore addr bytes)) ∧
          (∀ (u : State) (old : List Byte), s.agentRun addr (agentWidth op bytes) = (u, .bytes old) →
            (op = .read → exec (.agentAccess op addr bytes) s = .next u) ∧
            (op = .fetchAdd → exec (.agentAccess op addr bytes) s =
              .next (u.agentStore addr (leBytes bytes.length (leNat old + leNat bytes)))) ∧
            (op = .swap → exec (.agentAccess op addr bytes) s = .next (u.agentStore addr bytes)) ∧
            (op = .cas → exec (.agentAccess op addr bytes) s =
              .next (if old = bytes.take old.length then u.agentStore addr (bytes.drop old.length) else u))))) ∧
      ((s.agentPlace addr (agentWidth op bytes)).cached = true → (s.gone addr = true ∨ agentSound op addr bytes = false) →
        exec (.agentAccess op addr bytes) s = .next s) ∧
      (s.agentPlace addr (agentWidth op bytes) = .regs → op = .write → addr % 8 = 0 → bytes.length = 8 →
        exec (.agentAccess op addr bytes) s = .next (s.regWrite (addr - 0x00F0_0800_0000) (BitVec.ofNat 64 (leNat bytes)))) ∧
      (s.agentPlace addr (agentWidth op bytes) ∈ [.zero, .heat, .localPage, .reserved] →
        exec (.agentAccess op addr bytes) s = .next s)) ∧
    (∀ (op : AgentOp) (addr : Nat) (bytes : List Byte), agentTop < addr + agentWidth op bytes →
      exec (.agentAccess op addr bytes) s = .fault .noSuchAddress)

end
section
open Sys2Proof Sys2Proof.Machine

/-- The fabric and collectives (R332, R333, R337 to R342): ports come up and go down, flits go on, signatures are judged, runs land and are
acknowledged, a step ends when all of it is known, and a LOST or an ABORT that arrives ends the member's collective. When a port has sent
what is queued there, the order in which granules are read and written, and what becomes of a late message are the model's (log entry 27). -/
def Obligations.FabricMessages : Prop :=
  ∀ (s : State),
    (s.mgmt.stage ≠ .stage0 → ∃ t, exec .portUp s = .next t ∧ t.fabric.portsUp = (s.fabric.portsUp ||| (1#24 <<< s.focus.port.val)) ∧
      t.mem = s.mem ∧ t.cores = s.cores ∧ t.control = s.control) ∧
    (s.fabric.portsUp.getLsbD s.focus.port.val = true → s.fabric.colls = [] → s.fabric.outbox = [] → ∃ t, exec .portDown s = .next t ∧
      t.fabric.portsUp.getLsbD s.focus.port.val = false ∧ t.fabric.portsFailed.getLsbD s.focus.port.val = true ∧
      t.mgmt.internalLog.length = (dropForRoom s.mgmt.internalLog).length + 1 ∧ t.mem = s.mem ∧ t.cores = s.cores) ∧
    (s.fabric.portsUp.getLsbD s.focus.port.val = false → exec .portDown s = .next s) ∧
    (∀ (scheduled : Bool) (dest : BitVec 10),
      (s.fabric.candidates dest.toNat ≠ [] →
        ∃ t p, exec (.flitForward scheduled dest) s = .next t ∧ p ∈ s.fabric.candidates dest.toNat ∧
          (∀ q ∈ s.fabric.candidates dest.toNat, s.fabric.queued s.clock.gts p ≤ s.fabric.queued s.clock.gts q) ∧
          t.fabric.drains = (s.fabric.pushFlits p (7 * if scheduled then slotAtOrAfter s.clock.gts else s.clock.gts) 1).drains ∧
          t.fabric.forwarded = s.fabric.forwarded + 1 ∧ t.mem = s.mem ∧ t.cores = s.cores) ∧
      (s.fabric.candidates dest.toNat = [] →
        ∃ t, exec (.flitForward scheduled dest) s = .next t ∧ t.fabric.drains = s.fabric.drains ∧
          t.fabric.forwarded = s.fabric.forwarded ∧ t.mem = s.mem ∧ t.cores = s.cores)) ∧
    (∀ (coll : BitVec 16) (c : Collective) (rank : Nat) (sig : Word) (bad : Bool), s.collAt coll = some c →
      c.sigs.any (·.1 == rank) = false → c.others.contains rank = true →
      (c.sigs.length + 2 < c.members.length → exec (.signatureMsg coll rank sig bad) s =
        .next ((s.rouse .flit).setColl { c with sigs := c.sigs ++ [(rank, sig, bad)] })) ∧
      (c.members.length ≤ c.sigs.length + 2 → (c.bad = true ∨ bad = true ∨ sig ≠ c.own) →
        exec (.signatureMsg coll rank sig bad) s = .next (((s.rouse .flit).setColl { c with sigs := c.sigs ++ [(rank, sig, bad)] }).endColl
          { c with sigs := c.sigs ++ [(rank, sig, bad)] } 6 0)) ∧
      (c.members.length ≤ c.sigs.length + 2 → c.bad = false → bad = false → sig = c.own →
        (∀ x ∈ c.sigs, x.2.2 = false ∧ x.2.1 = c.own) → ∃ t, exec (.signatureMsg coll rank sig bad) s = .next t ∧
          t.planned .transfer (collFocus c.id) s.now ∧ t.mem = s.mem ∧ t.cores = s.cores)) ∧
    (∀ (c d : Collective) (u v : State) (x : Begin), s.collAt s.focus.coll = some c →
      State.beginRuns (CollStep.total (c.block c.step) - c.next) s c = (u, d, x) → (∀ why, x ≠ .stop why) →
      (∀ r, u.nextRead d = (some r, v) → exec .transfer s = .next (v.readRun d r)) ∧
      (∀ k, d.runs = [] → x = .later k → d.next < CollStep.total (d.block d.step) →
        exec .transfer s = .next ((u.setColl d).planTransfer d (u.now + k)))) ∧
    (∀ (c : Collective) (n : Nat), c.next < CollStep.total (c.block c.step) → (∀ r ∈ c.runs, r.waits = false) →
      (CollHeader.adaptive c.record = true → s.peerFree c (c.peer c.next) = true →
        State.beginRuns (n + 1) s c = State.beginRuns n s
          { c with next := c.next + 1, runs := c.runs ++ [{ k := c.next, got := [], slot := (s.clock.gts, []), waits := false }] }) ∧
      (CollHeader.adaptive c.record = true → s.peerFree c (c.peer c.next) = false →
        ∃ k, 0 < k ∧ State.beginRuns (n + 1) s c = (s, c, .later k)) ∧
      (∀ (sb : List Byte) (v : State) (e : Word), CollHeader.adaptive c.record = false →
        s.collRead (collSource c.unit) c.root 0 [(CollHeader.slots c.record + BitVec.ofNat 64 (8 * c.slotIndex), 8)] = .bytes sb v →
        e = BitVec.ofNat 64 (leNat sb) →
        (slotNow v.clock.gts (CollHeader.gts0 c.record) v.cycleNs e = true → v.peerFree c (c.peer c.next) = true →
          (c.peer c.next = c.rank ∨ ((slotHops e).find? v.fabric.up).any v.portBusy = false) →
          State.beginRuns (n + 1) s c = State.beginRuns n v
            { c with
              next := c.next + 1
              runs := c.runs ++ [{ k := c.next, got := [], slot := (slotBegan v.clock.gts (CollHeader.gts0 c.record) e, slotHops e), waits := false }] }) ∧
        ((slotNow v.clock.gts (CollHeader.gts0 c.record) v.cycleNs e = false ∨ v.peerFree c (c.peer c.next) = false ∨
            (c.peer c.next ≠ c.rank ∧ ((slotHops e).find? v.fabric.up).any v.portBusy = true)) →
          State.beginRuns (n + 1) s c =
            (v, c, .later (max 1 (v.cyclesFor (slotWait v.clock.gts (CollHeader.gts0 c.record) e))))))) ∧
    (∀ (c : Collective) (r : OutRun) (u : State) (got : List (Nat × List Byte)),
      State.readSome (collSource c.unit) c.root (CollHeader.tag c.record) (c.unread r).length s (c.unread r) r.got = (u, got, none) →
      c.unread { r with got := got, waits := false } = [] →
      s.readRun c r = u.dispatchRun c { r with got := got, waits := false } (toWire c.record (c.block c.step) (inOrder got.length got))) ∧
    (∀ (c : Collective) (r : OutRun) (bs : List Byte),
      (c.peer r.k = c.rank → s.dispatchRun c r bs =
        (s.post (.runMsg c.id { step := c.step, rank := c.rank, index := r.k, offset := doffOf (c.block c.step) r.k, bytes := bs })).afterTransfer
          { c with runs := c.runs.filter (·.k != r.k), sent := assign c.sent c.rank (countFor c.sent c.rank + 1) }) ∧
      (∀ u, c.peer r.k ≠ c.rank → s.sendMember c (c.peer r.k) 2 c.step r.k r.slot (runBody (doffOf (c.block c.step) r.k) bs) = some u →
        s.dispatchRun c r bs = u.afterTransfer
          { c with
            runs := c.runs.filter (·.k != r.k), sent := assign c.sent (c.peer r.k) (countFor c.sent (c.peer r.k) + 1)
            left := assign c.left (c.peer r.k) u.fabric.lastLeaves })) ∧
    (∀ (coll : BitVec 16) (c : Collective) (m : RunMsg) (segs : List (Nat × Nat)) (u : State), s.collAt coll = some c →
      c.members.length ≤ c.sigs.length + 1 → m.step < c.steps.length → c.landed.contains (m.step, m.rank, m.index) = false → c.landing = [] →
      (CollStep.skind (c.block m.step) ≠ 1 →
        (s.rouse .flit).collMap (collSource c.unit) c.root (CollHeader.tag c.record) .write
          (granulesOf (regionRuns c.record (CollStep.dreg (c.block m.step)) m.offset (CollStep.run (c.block m.step)))) = .ok segs u →
        exec (.runMsg coll m) s = .next (u.landRun (c.noteArrival m) m
          (landPieces segs (landBytes c.record (c.block m.step) [] m.bytes)) [])) ∧
      (CollStep.skind (c.block m.step) = 1 → c.arrived = [] →
        (s.rouse .flit).collMap (collSource c.unit) c.root (CollHeader.tag c.record) .write
          ((accPlaces c.record (c.block m.step) m.offset).flatMap (·.2.2)) = .ok segs u →
        exec (.runMsg coll m) s = .next (u.landRun (c.noteArrival m) m []
          (landUnits c.record (c.block m.step) m.bytes
            ((accPlaces c.record (c.block m.step) m.offset).map fun x => (x.1, x.2.1, x.2.2.length)) segs))) ∧
      (∀ x rest, CollStep.skind (c.block m.step) = 1 → c.replay = false → c.arrived = x :: rest → x.1 = m.step →
        x ≠ (m.step, m.rank, m.index) → exec (.runMsg coll m) s = .next (((s.rouse .flit).setColl (c.noteArrival m)).hold))) ∧
    (∀ (h : CollHeader) (b : CollStep) (x : LandUnit) (v : State) (old : List Byte), (∀ g ∈ x.segs, s.siteHolds g.1 = false) →
      s.collBytes x.segs = (v, .bytes old) →
      (State.landParts h b 1 s [x]).1.mem =
        ((landPieces x.segs (landPart h b x.count old x.bytes)).foldl (fun (s : State) g => s.agentStore g.1 g.2) v).mem ∧
      (State.landParts h b 1 s [x]).2 = ([], none)) ∧
    (∀ (c : Collective) (m : RunMsg) (pieces : List (Nat × List Byte)) (u : State),
      CollHeader.log c.record = false → m.rank = c.rank → c.landing = [] →
      State.landSome pieces.length s pieces = (u, []) →
      s.landRun c m pieces [] = (u.settleOwed (collSource c.unit) .seq).advanceColl
        { c.hasLanded m with acked := (m.step, m.index) :: c.acked }) ∧
    (∀ (coll : BitVec 16) (c : Collective), s.collAt coll = some c →
      (∀ step k, c.acked.contains (step, k) = false → exec (.ackMsg coll step k) s =
        .next ((s.rouse .flit).advanceColl { c with acked := (step, k) :: c.acked })) ∧
      (∀ step rank count, (c.ends.any fun e => e.1 == step && e.2.1 == rank) = false → exec (.endMsg coll step rank count) s =
        .next ((s.rouse .flit).wakeHeld.advanceColl { c with ends := c.ends ++ [(step, rank, count)] })) ∧
      (s.focus.coll = coll → exec .lostMsg s = .next ((s.rouse .flit).endColl c 7 0) ∧
        exec .abortMsg s = .next ((s.rouse .flit).endColl c 2 0))) ∧
    (∀ c : Collective,
      (c.stepDone = false → s.advanceColl c = s.setColl c) ∧
      (c.stepDone = true → c.step + 1 < c.steps.length →
        (s.advanceColl c).planned .transfer (collFocus c.id) s.now ∧ (s.advanceColl c).mem = s.mem) ∧
      (c.stepDone = true → c.steps.length ≤ c.step + 1 → s.advanceColl c = (s.setColl c).endColl c 1 0) ∧
      (∀ st d, ∀ k ∈ (s.endColl c st d).fabric.colls, k.command ≠ c.command) ∧
      ∀ st d, ∀ m ∈ (s.endColl c st d).fabric.outbox, m.coll ≠ c.id ∨ m.kind ≠ 2)

/-- The management plane (R8, R388, R390, R391, R393 to R400): reset, the stages, sites that join, the power limit, idle states, the root ports,
attestation, and what replay lets go. The model's own: what a reset keeps and GTS from 0 on (log entry 6), the states of idle that empty the
L1 and a wake that takes no time (log entry 28), and the clock that a power limit comes to (log entry 29). -/
def Obligations.ManagementPlane : Prop :=
  ∀ (s : State),
    (∃ t, exec .resetDevice s = .next t ∧ t.cores = State.reset.cores ∧ t.control = State.reset.control ∧ t.tags = State.reset.tags ∧
      t.mgmt.stage = .stage0 ∧ t.mgmt.interrupts = (if s.mgmt.stage = .stage0 then [] else [18]) ∧ t.mgmt.flash = s.mgmt.flash ∧ t.mem.l2 = [] ∧ t.mem.cistern = [] ∧ t.clock.gts = 0 ∧
      t.fabric = State.reset.fabric ∧ t.sites = State.reset.sites ∧ t.tiers = State.reset.tiers ∧ t.order = State.reset.order ∧
      ∀ p ∈ t.agenda, p ∈ s.agenda) ∧
    (s.mgmt.stage = .stage0 → ∃ t, exec .stage1 s = .next t ∧
      (if imagesValid = true then t.mgmt.stage = .stage1 ∧ t.mgmt.interrupts = s.mgmt.interrupts ++ [18] ∧
          t.clock.hertz = max 1 (min s.mgmt.limitHertz (Config.fullClock / 2)) ∧ t.clock.calZero = s.clock.cycle ∧ t.cores = s.cores ∧
          t.tags.retiredPages = Config.retirementList ++ s.mgmt.flash
        else t = s.mgmtControl)) ∧
    (∀ site : Fin 8, s.mgmt.stage = .stage1 → (s.sites[site]).joined = false → (s.sites[site]).failed = false →
      ((slotChosen objSite).isSome = true → ∃ t, exec (.siteJoin site true) s = .next t ∧ (t.sites[site]).joined = true ∧ t.mgmt = s.mgmt ∧
        ∀ j : Fin 8, j ≠ site → t.sites[j] = s.sites[j]) ∧
      (slotChosen objSite = none → ∃ t, exec (.siteJoin site true) s = .next t ∧ (t.sites[site]).joined = false ∧ (t.sites[site]).failed = true) ∧
      (∃ t, exec (.siteJoin site false) s = .next t ∧ (t.sites[site]).joined = false ∧ (t.sites[site]).failed = true)) ∧
    (s.switching = true → s.control.commands = [] → ∃ t, exec .stage2 s = .next t ∧ t.mgmt.stage = .stage2 ∧
      t.mgmt.interrupts = s.mgmt.interrupts ++ [18] ∧ t.clock.hertz = max 1 (min s.mgmt.limitHertz Config.fullClock) ∧ t.mem.cistern = [] ∧ t.cores = s.cores ∧
      t.mem.dram = s.mem.dram) ∧
    (∀ milliwatts hertz, ∃ t, exec (.powerLimit milliwatts hertz) s = .next t ∧ t.mgmt.powerLimit = min milliwatts 8000000 ∧
      t.clock.hertz = max 1 (min hertz s.mgmt.stage.topClock) ∧ t.clock.cycle = s.clock.cycle ∧ t.cores = s.cores ∧ t.mem = s.mem ∧
      t.control = s.control ∧ t.tags = s.tags) ∧
    (s.mgmt.idle = 0 → s.isIdle = true → s.idleTarget ≠ 0 → ∃ t, exec .idleEntry s = .next t ∧ t.mgmt.idle = s.idleTarget ∧
      (s.idleTarget = 1 → t.cores = s.cores ∧ t.mem = s.mem) ∧
      (2 ≤ s.idleTarget → ∀ i : Fin 96, (t.cores[i]).caches.l1 = [] ∧ (t.cores[i]).arrays.vrf = [] ∧ (t.cores[i]).arrays.acc0 = [] ∧
        (t.cores[i]).arrays.imem = [] ∧ (t.cores[i]).sregs = (s.cores[i]).sregs ∧
        (s.idleTarget = 2 → (t.cores[i]).arrays.sp = (s.cores[i]).arrays.sp))) ∧
    (∀ cause, ∃ t, exec (.wake cause) s = .next t ∧ t.mgmt.idle = 0 ∧ t.cores = s.cores ∧ t.mem = s.mem ∧ t.control = s.control) ∧
    (∀ tol, ∃ t, exec (.tolWrite tol) s = .next t ∧ t.mgmt.tol = tol ∧ t.cores = s.cores ∧
      (s.mgmt.idle ≠ 0 → ∃ p ∈ t.agenda, p.instr = .wake .tolWrite)) ∧
    (∃ t, exec .rootPortLinkDown s = .next t ∧ t.mem.rootLinks.getLsbD s.rootPort.val = false ∧ t.mem.boardCap[s.rootPort.val] = 0 ∧
      t.mem.dram = s.mem.dram ∧ t.mgmt.internalLog.length = (dropForRoom s.mgmt.internalLog).length + 1) ∧
    (s.mgmt.stage ≠ .stage0 → ∃ t, exec .rootPortRetrain s = .next t ∧ t.mem.rootLinks.getLsbD s.rootPort.val = true ∧
      t.mem.boardCap[s.rootPort.val] = portCapacity s.rootPort.val ∧ t.mem.dram = s.mem.dram) ∧
    (∀ (addr : Word) (bs : List Byte) (u : State), s.gone (hostPlace addr.toNat) = false → s.agentRun (hostPlace addr.toNat) 64 = (u, .bytes bs) →
      (s.mgmt.reports = [] → (∀ b ∈ bs.drop 32, b = 0) → ∃ t, exec (.attestationRequest addr) s = .next t ∧
        t.mgmt.reports = [(hostPlace addr.toNat, bs.take 32)] ∧ t.planned .attestationReport u.focus u.now ∧ t.mem = u.mem ∧
        peek t.mgmt.regs 0x30 = 1) ∧
      (s.mgmt.reports = [] → (∃ b ∈ bs.drop 32, b ≠ 0) → exec (.attestationRequest addr) s = .next (u.setAtstat 3)) ∧
      (s.mgmt.reports ≠ [] → exec (.attestationRequest addr) s = .next (s.setAtstat 3))) ∧
    (∀ (pa : Nat) (nonce : List Byte) (rest : List (Nat × List Byte)), s.mgmt.reports = (pa, nonce) :: rest →
      ∃ t, exec .attestationReport s = .next t ∧ t.mgmt.reports = rest ∧ peek t.mgmt.regs 0x30 = 2 ∧
        t.mem = (s.recordStore (pa + 64) (s.attestation nonce)).mem) ∧
    (∀ held : HeldChoice, ∃ t, exec (.replayRelease held) s = .next t ∧ t.order.waiting = s.order.waiting.filter (· != held) ∧
      (∀ e, held = .firing e → ∃ p ∈ t.agenda, p.instr = .pendingFiring ∧ p.focus.entry.val = e.toNat) ∧
      (∀ c m, held = .run c m → ∃ p ∈ t.agenda, p.instr = .runMsg c m) ∧ t.mem = s.mem ∧ t.cores = s.cores) ∧
    (∀ (kind : BitVec 4) (obj : BitVec 40), ∃ t, exec (.divergence kind obj) s = .next t ∧ t.order.diverged = true ∧
      (kind.toNat, obj.toNat) ∈ t.order.left ∧ (∀ h ∈ s.order.waiting, ∃ p ∈ t.agenda, p.instr = .replayRelease h) ∧
      t.order.consumed = s.order.consumed ∧ t.mem = s.mem ∧ t.cores = s.cores)

end

section
open Sys2Proof Sys2Proof.Machine

/-- Reset (R52, R304, R395, R396, R260): stage 0, no core at work, no queue in use, every tag FREE, every core in the core pools, no
pattern row recorded, nothing in a cache, and every store in its canonical form. The spec gives no reset of the device for the L2, the Cistern
and the other values that no rule names: they are the model's (log entry 4). -/
def Obligations.ResetState : Prop :=
  State.reset.mgmt.stage = .stage0 ∧ State.reset.mgmt.idle = 0 ∧
  (∀ i : Fin 96, (State.reset.cores[i]).status = .idle ∧ (State.reset.cores[i]).item = none ∧ (State.reset.cores[i]).arrays.vrf = [] ∧
    (State.reset.cores[i]).arrays.sp = [] ∧ (State.reset.cores[i]).arrays.acc0 = [] ∧ (State.reset.cores[i]).arrays.acc1 = [] ∧
    (State.reset.cores[i]).irq = false ∧ (State.reset.cores[i]).prq = false) ∧
  (∀ i : Fin 16, (State.reset.control.queues[i]).enabled = false ∧ (State.reset.control.queues[i]).sized = false ∧
    (State.reset.control.queues[i]).head = 0 ∧ (State.reset.control.queues[i]).tail = 0) ∧
  State.reset.control.cpool = BitVec.allOnes 96 ∧ State.reset.control.commands = [] ∧ State.reset.tags.tags = [] ∧
  State.reset.order.replay = false ∧ (∀ i : Fin 8, (State.reset.sites[i]).patterns = [] ∧ (State.reset.sites[i]).joined = false) ∧
  State.reset.mem.l2 = [] ∧ State.reset.mem.cistern = [] ∧ State.reset.fabric.portsUp = 0 ∧ State.reset.memoryWf = true

/-- The compare codes and the numbering of wide operations (R47, R84): each code compares the masked words as its row says, and a command
that compares under a reserved code is malformed; a record of each wide opcode is the operation at that place of its block, and a record
of any other opcode passes no check of `tx`. -/
def Obligations.CodeTables : Prop :=
  (∀ word value mask : Word,
    weirHolds 0 word value mask = decide (word &&& mask = value &&& mask) ∧
    weirHolds 1 word value mask = decide (word &&& mask ≠ value &&& mask) ∧
    weirHolds 2 word value mask = decide ((value &&& mask).toInt ≤ (word &&& mask).toInt) ∧
    weirHolds 3 word value mask = decide ((word &&& mask).toInt < (value &&& mask).toInt) ∧
    weirHolds 4 word value mask = decide ((value &&& mask).toNat ≤ (word &&& mask).toNat) ∧
    weirHolds 5 word value mask = decide ((word &&& mask).toNat < (value &&& mask).toNat)) ∧
  (∀ c : Command, 6 ≤ (cmdCmp c).toNat → (cmdKind c = 3 ∧ bitsAt c 128 8 = 1) ∨ (cmdKind c = 6 ∧ c.getLsbD 135 = false) →
    cmdOk c = false) ∧
  (∀ (op : WideOp), ∀ e ∈ wideTable, Rec.wop op.record = e.1 → wideInstr op = e.2 op) ∧
  (∀ r : Rec, (∀ e ∈ wideTable, r.wop ≠ e.1) → r.ok = false)

/-- How a step goes: an event that is due and can take place takes place before anything else of that cycle; where nothing is due, no
unit has anything to do and no sequencer has a repetition to place, no store is on its way, no wide operation executes and no request for a
tag stands, time alone passes; and an answer is never a state that waits half done (the model's own frame, log entry 1). -/
def Obligations.StepOrder : Prop :=
  (∀ (s t : State) (e : Pending) (rest : List Pending), s.agenda.filter (fun e => decide (e.due ≤ s.now)) = e :: rest →
    exec e.instr { s with held := false, blocked := false, focus := e.focus, agenda := s.agenda.erase e } = .next t →
    t.held = false → t.blocked = false → step s = .next t) ∧
  (∀ (s : State), s.held = false → s.blocked = false → (∀ e ∈ s.agenda, s.now < e.due) → s.movers = [] → s.placing = [] →
    s.tags.arrived = [] → (∀ i : Fin 96, (s.cores[i]).caches.stores = [] ∧ (s.cores[i]).queues.windows = []) →
    ∃ t, step s = .next t ∧ s.now < t.now ∧ t.mem = s.mem ∧ t.tags = s.tags ∧ t.fabric = s.fabric ∧ t.mgmt = s.mgmt ∧ t.agenda = s.agenda ∧
      ∀ i : Fin 96, (t.cores[i]).sregs = (s.cores[i]).sregs ∧ (t.cores[i]).pc = (s.cores[i]).pc ∧
        (t.cores[i]).arrays = (s.cores[i]).arrays) ∧
  (∀ (s t : State), step s = .next t → t.held = false)

/-- Whatever a step does, memory behind the caches keeps its canonical form: addresses strictly rising and no byte listed that reads as
what an unlisted address reads as, the heat counters in the same form, and the lines of the L2 slices and of the Cistern by rising line
number, each once (the model's own form of memory, log entry 2). -/
def Obligations.MemoryKeepsForm : Prop :=
  ∀ (s t : State), s.mem.wf = true → step s = .next t → t.mem.wf = true

end
end

