-- ==== Sys2Proof/Laws/Encoding.lean ====
section
/-! SUPPORT. The fields of an encoded word, format by format: each reads back as what was put there (R71). -/

namespace Sys2Proof

/-- A field of two words one behind the other that lies in the lower one. -/
theorem fld_append_low {n m : Nat} (x : BitVec n) (y : BitVec m) (lo k : Nat) (h : lo + k ≤ m) :
    (x ++ y).extractLsb' lo k = y.extractLsb' lo k := by
  apply BitVec.eq_of_getLsbD_eq
  intro i hi
  simp only [BitVec.getLsbD_extractLsb', hi, decide_true, Bool.true_and, BitVec.getLsbD_append]
  rw [if_pos (by omega)]

/-- A field that lies in the upper one. -/
theorem fld_append_high {n m : Nat} (x : BitVec n) (y : BitVec m) (lo k : Nat) (h : m ≤ lo) :
    (x ++ y).extractLsb' lo k = x.extractLsb' (lo - m) k := by
  apply BitVec.eq_of_getLsbD_eq
  intro i hi
  simp only [BitVec.getLsbD_extractLsb', hi, decide_true, Bool.true_and, BitVec.getLsbD_append]
  rw [if_neg (by omega)]
  congr 1
  omega

theorem fld_self {n : Nat} (x : BitVec n) : x.extractLsb' 0 n = x := by
  apply BitVec.eq_of_getLsbD_eq
  intro i hi
  simp [hi]

theorem flag_eq_field (w : IWord) (i : Nat) : flag w i = (w.extractLsb' i 1).getLsbD 0 := by simp [flag]

theorem bit1_getLsbD (b : Bool) : (bit1 b).getLsbD 0 = b := by cases b <;> rfl

@[simp] theorem fld_encSR_26 (op d a b : BitVec 6) (fn : BitVec 8) : fld (encSR op d a b fn) 26 6 = op := by
  simp only [fld, encSR]
  repeat (first | rw [fld_append_low _ _ _ _ (by decide)] | rw [fld_append_high _ _ _ _ (by decide)])
  exact fld_self _
@[simp] theorem fld_encSR_20 (op d a b : BitVec 6) (fn : BitVec 8) : fld (encSR op d a b fn) 20 6 = d := by
  simp only [fld, encSR]
  repeat (first | rw [fld_append_low _ _ _ _ (by decide)] | rw [fld_append_high _ _ _ _ (by decide)])
  exact fld_self _
@[simp] theorem fld_encSR_14 (op d a b : BitVec 6) (fn : BitVec 8) : fld (encSR op d a b fn) 14 6 = a := by
  simp only [fld, encSR]
  repeat (first | rw [fld_append_low _ _ _ _ (by decide)] | rw [fld_append_high _ _ _ _ (by decide)])
  exact fld_self _
@[simp] theorem fld_encSR_8 (op d a b : BitVec 6) (fn : BitVec 8) : fld (encSR op d a b fn) 8 6 = b := by
  simp only [fld, encSR]
  repeat (first | rw [fld_append_low _ _ _ _ (by decide)] | rw [fld_append_high _ _ _ _ (by decide)])
  exact fld_self _
@[simp] theorem fld_encSR_0 (op d a b : BitVec 6) (fn : BitVec 8) : fld (encSR op d a b fn) 0 8 = fn := by
  simp only [fld, encSR]
  repeat (first | rw [fld_append_low _ _ _ _ (by decide)] | rw [fld_append_high _ _ _ _ (by decide)])
  exact fld_self _

@[simp] theorem fld_encSI_26 (op d a : BitVec 6) (imm : BitVec 14) : fld (encSI op d a imm) 26 6 = op := by
  simp only [fld, encSI]
  repeat (first | rw [fld_append_low _ _ _ _ (by decide)] | rw [fld_append_high _ _ _ _ (by decide)])
  exact fld_self _
@[simp] theorem fld_encSI_20 (op d a : BitVec 6) (imm : BitVec 14) : fld (encSI op d a imm) 20 6 = d := by
  simp only [fld, encSI]
  repeat (first | rw [fld_append_low _ _ _ _ (by decide)] | rw [fld_append_high _ _ _ _ (by decide)])
  exact fld_self _
@[simp] theorem fld_encSI_14 (op d a : BitVec 6) (imm : BitVec 14) : fld (encSI op d a imm) 14 6 = a := by
  simp only [fld, encSI]
  repeat (first | rw [fld_append_low _ _ _ _ (by decide)] | rw [fld_append_high _ _ _ _ (by decide)])
  exact fld_self _
@[simp] theorem fld_encSI_0 (op d a : BitVec 6) (imm : BitVec 14) : fld (encSI op d a imm) 0 14 = imm := by
  simp only [fld, encSI]
  repeat (first | rw [fld_append_low _ _ _ _ (by decide)] | rw [fld_append_high _ _ _ _ (by decide)])
  exact fld_self _

@[simp] theorem fld_encSU_26 (op d : BitVec 6) (imm : BitVec 20) : fld (encSU op d imm) 26 6 = op := by
  simp only [fld, encSU]
  repeat (first | rw [fld_append_low _ _ _ _ (by decide)] | rw [fld_append_high _ _ _ _ (by decide)])
  exact fld_self _
@[simp] theorem fld_encSU_20 (op d : BitVec 6) (imm : BitVec 20) : fld (encSU op d imm) 20 6 = d := by
  simp only [fld, encSU]
  repeat (first | rw [fld_append_low _ _ _ _ (by decide)] | rw [fld_append_high _ _ _ _ (by decide)])
  exact fld_self _
@[simp] theorem fld_encSU_0 (op d : BitVec 6) (imm : BitVec 20) : fld (encSU op d imm) 0 20 = imm := by
  simp only [fld, encSU]
  repeat (first | rw [fld_append_low _ _ _ _ (by decide)] | rw [fld_append_high _ _ _ _ (by decide)])
  exact fld_self _

@[simp] theorem fld_encSB_26 (op : BitVec 6) (cond : BitVec 4) (a : BitVec 6) (disp : BitVec 16) : fld (encSB op cond a disp) 26 6 = op := by
  simp only [fld, encSB]
  repeat (first | rw [fld_append_low _ _ _ _ (by decide)] | rw [fld_append_high _ _ _ _ (by decide)])
  exact fld_self _
@[simp] theorem fld_encSB_22 (op : BitVec 6) (cond : BitVec 4) (a : BitVec 6) (disp : BitVec 16) : fld (encSB op cond a disp) 22 4 = cond := by
  simp only [fld, encSB]
  repeat (first | rw [fld_append_low _ _ _ _ (by decide)] | rw [fld_append_high _ _ _ _ (by decide)])
  exact fld_self _
@[simp] theorem fld_encSB_16 (op : BitVec 6) (cond : BitVec 4) (a : BitVec 6) (disp : BitVec 16) : fld (encSB op cond a disp) 16 6 = a := by
  simp only [fld, encSB]
  repeat (first | rw [fld_append_low _ _ _ _ (by decide)] | rw [fld_append_high _ _ _ _ (by decide)])
  exact fld_self _
@[simp] theorem fld_encSB_0 (op : BitVec 6) (cond : BitVec 4) (a : BitVec 6) (disp : BitVec 16) : fld (encSB op cond a disp) 0 16 = disp := by
  simp only [fld, encSB]
  repeat (first | rw [fld_append_low _ _ _ _ (by decide)] | rw [fld_append_high _ _ _ _ (by decide)])
  exact fld_self _

@[simp] theorem fld_encSL_26 (op : BitVec 6) (level : BitVec 2) (count : BitVec 6) (body : BitVec 10) : fld (encSL op level count body) 26 6 = op := by
  simp only [fld, encSL]
  repeat (first | rw [fld_append_low _ _ _ _ (by decide)] | rw [fld_append_high _ _ _ _ (by decide)])
  exact fld_self _
@[simp] theorem fld_encSL_24 (op : BitVec 6) (level : BitVec 2) (count : BitVec 6) (body : BitVec 10) : fld (encSL op level count body) 24 2 = level := by
  simp only [fld, encSL]
  repeat (first | rw [fld_append_low _ _ _ _ (by decide)] | rw [fld_append_high _ _ _ _ (by decide)])
  exact fld_self _
@[simp] theorem fld_encSL_18 (op : BitVec 6) (level : BitVec 2) (count : BitVec 6) (body : BitVec 10) : fld (encSL op level count body) 18 6 = count := by
  simp only [fld, encSL]
  repeat (first | rw [fld_append_low _ _ _ _ (by decide)] | rw [fld_append_high _ _ _ _ (by decide)])
  exact fld_self _
@[simp] theorem fld_encSL_8 (op : BitVec 6) (level : BitVec 2) (count : BitVec 6) (body : BitVec 10) : fld (encSL op level count body) 8 10 = body := by
  simp only [fld, encSL]
  repeat (first | rw [fld_append_low _ _ _ _ (by decide)] | rw [fld_append_high _ _ _ _ (by decide)])
  exact fld_self _
@[simp] theorem fld_encSL_0 (op : BitVec 6) (level : BitVec 2) (count : BitVec 6) (body : BitVec 10) : fld (encSL op level count body) 0 8 = (0 : BitVec 8) := by
  simp only [fld, encSL]
  repeat (first | rw [fld_append_low _ _ _ _ (by decide)] | rw [fld_append_high _ _ _ _ (by decide)])
  exact fld_self _

@[simp] theorem fld_encLQ_26 (op : BitVec 6) (wn sn : Bool) (fn a : BitVec 4) (s : BitVec 6) (imm : BitVec 8) : fld (encLQ op wn sn fn a s imm) 26 6 = op := by
  simp only [fld, encLQ]
  repeat (first | rw [fld_append_low _ _ _ _ (by decide)] | rw [fld_append_high _ _ _ _ (by decide)])
  exact fld_self _
@[simp] theorem flag_encLQ_25 (op : BitVec 6) (wn sn : Bool) (fn a : BitVec 4) (s : BitVec 6) (imm : BitVec 8) : flag (encLQ op wn sn fn a s imm) 25 = false := by
  rw [flag_eq_field]
  simp only [encLQ]
  repeat (first | rw [fld_append_low _ _ _ _ (by decide)] | rw [fld_append_high _ _ _ _ (by decide)])
  rw [fld_self, bit1_getLsbD]
@[simp] theorem flag_encLQ_24 (op : BitVec 6) (wn sn : Bool) (fn a : BitVec 4) (s : BitVec 6) (imm : BitVec 8) : flag (encLQ op wn sn fn a s imm) 24 = wn := by
  rw [flag_eq_field]
  simp only [encLQ]
  repeat (first | rw [fld_append_low _ _ _ _ (by decide)] | rw [fld_append_high _ _ _ _ (by decide)])
  rw [fld_self, bit1_getLsbD]
@[simp] theorem flag_encLQ_23 (op : BitVec 6) (wn sn : Bool) (fn a : BitVec 4) (s : BitVec 6) (imm : BitVec 8) : flag (encLQ op wn sn fn a s imm) 23 = false := by
  rw [flag_eq_field]
  simp only [encLQ]
  repeat (first | rw [fld_append_low _ _ _ _ (by decide)] | rw [fld_append_high _ _ _ _ (by decide)])
  rw [fld_self, bit1_getLsbD]
@[simp] theorem flag_encLQ_22 (op : BitVec 6) (wn sn : Bool) (fn a : BitVec 4) (s : BitVec 6) (imm : BitVec 8) : flag (encLQ op wn sn fn a s imm) 22 = sn := by
  rw [flag_eq_field]
  simp only [encLQ]
  repeat (first | rw [fld_append_low _ _ _ _ (by decide)] | rw [fld_append_high _ _ _ _ (by decide)])
  rw [fld_self, bit1_getLsbD]
@[simp] theorem fld_encLQ_18 (op : BitVec 6) (wn sn : Bool) (fn a : BitVec 4) (s : BitVec 6) (imm : BitVec 8) : fld (encLQ op wn sn fn a s imm) 18 4 = fn := by
  simp only [fld, encLQ]
  repeat (first | rw [fld_append_low _ _ _ _ (by decide)] | rw [fld_append_high _ _ _ _ (by decide)])
  exact fld_self _
@[simp] theorem fld_encLQ_14 (op : BitVec 6) (wn sn : Bool) (fn a : BitVec 4) (s : BitVec 6) (imm : BitVec 8) : fld (encLQ op wn sn fn a s imm) 14 4 = a := by
  simp only [fld, encLQ]
  repeat (first | rw [fld_append_low _ _ _ _ (by decide)] | rw [fld_append_high _ _ _ _ (by decide)])
  exact fld_self _
@[simp] theorem fld_encLQ_8 (op : BitVec 6) (wn sn : Bool) (fn a : BitVec 4) (s : BitVec 6) (imm : BitVec 8) : fld (encLQ op wn sn fn a s imm) 8 6 = s := by
  simp only [fld, encLQ]
  repeat (first | rw [fld_append_low _ _ _ _ (by decide)] | rw [fld_append_high _ _ _ _ (by decide)])
  exact fld_self _
@[simp] theorem fld_encLQ_0 (op : BitVec 6) (wn sn : Bool) (fn a : BitVec 4) (s : BitVec 6) (imm : BitVec 8) : fld (encLQ op wn sn fn a s imm) 0 8 = imm := by
  simp only [fld, encLQ]
  repeat (first | rw [fld_append_low _ _ _ _ (by decide)] | rw [fld_append_high _ _ _ _ (by decide)])
  exact fld_self _

@[simp] theorem fld_encSQ_26 (op : BitVec 6) (wp sp : Bool) (fn a : BitVec 4) (s : BitVec 6) (imm : BitVec 8) : fld (encSQ op wp sp fn a s imm) 26 6 = op := by
  simp only [fld, encSQ]
  repeat (first | rw [fld_append_low _ _ _ _ (by decide)] | rw [fld_append_high _ _ _ _ (by decide)])
  exact fld_self _
@[simp] theorem flag_encSQ_25 (op : BitVec 6) (wp sp : Bool) (fn a : BitVec 4) (s : BitVec 6) (imm : BitVec 8) : flag (encSQ op wp sp fn a s imm) 25 = wp := by
  rw [flag_eq_field]
  simp only [encSQ]
  repeat (first | rw [fld_append_low _ _ _ _ (by decide)] | rw [fld_append_high _ _ _ _ (by decide)])
  rw [fld_self, bit1_getLsbD]
@[simp] theorem flag_encSQ_24 (op : BitVec 6) (wp sp : Bool) (fn a : BitVec 4) (s : BitVec 6) (imm : BitVec 8) : flag (encSQ op wp sp fn a s imm) 24 = false := by
  rw [flag_eq_field]
  simp only [encSQ]
  repeat (first | rw [fld_append_low _ _ _ _ (by decide)] | rw [fld_append_high _ _ _ _ (by decide)])
  rw [fld_self, bit1_getLsbD]
@[simp] theorem flag_encSQ_23 (op : BitVec 6) (wp sp : Bool) (fn a : BitVec 4) (s : BitVec 6) (imm : BitVec 8) : flag (encSQ op wp sp fn a s imm) 23 = sp := by
  rw [flag_eq_field]
  simp only [encSQ]
  repeat (first | rw [fld_append_low _ _ _ _ (by decide)] | rw [fld_append_high _ _ _ _ (by decide)])
  rw [fld_self, bit1_getLsbD]
@[simp] theorem flag_encSQ_22 (op : BitVec 6) (wp sp : Bool) (fn a : BitVec 4) (s : BitVec 6) (imm : BitVec 8) : flag (encSQ op wp sp fn a s imm) 22 = false := by
  rw [flag_eq_field]
  simp only [encSQ]
  repeat (first | rw [fld_append_low _ _ _ _ (by decide)] | rw [fld_append_high _ _ _ _ (by decide)])
  rw [fld_self, bit1_getLsbD]
@[simp] theorem fld_encSQ_18 (op : BitVec 6) (wp sp : Bool) (fn a : BitVec 4) (s : BitVec 6) (imm : BitVec 8) : fld (encSQ op wp sp fn a s imm) 18 4 = fn := by
  simp only [fld, encSQ]
  repeat (first | rw [fld_append_low _ _ _ _ (by decide)] | rw [fld_append_high _ _ _ _ (by decide)])
  exact fld_self _
@[simp] theorem fld_encSQ_14 (op : BitVec 6) (wp sp : Bool) (fn a : BitVec 4) (s : BitVec 6) (imm : BitVec 8) : fld (encSQ op wp sp fn a s imm) 14 4 = a := by
  simp only [fld, encSQ]
  repeat (first | rw [fld_append_low _ _ _ _ (by decide)] | rw [fld_append_high _ _ _ _ (by decide)])
  exact fld_self _
@[simp] theorem fld_encSQ_8 (op : BitVec 6) (wp sp : Bool) (fn a : BitVec 4) (s : BitVec 6) (imm : BitVec 8) : fld (encSQ op wp sp fn a s imm) 8 6 = s := by
  simp only [fld, encSQ]
  repeat (first | rw [fld_append_low _ _ _ _ (by decide)] | rw [fld_append_high _ _ _ _ (by decide)])
  exact fld_self _
@[simp] theorem fld_encSQ_0 (op : BitVec 6) (wp sp : Bool) (fn a : BitVec 4) (s : BitVec 6) (imm : BitVec 8) : fld (encSQ op wp sp fn a s imm) 0 8 = imm := by
  simp only [fld, encSQ]
  repeat (first | rw [fld_append_low _ _ _ _ (by decide)] | rw [fld_append_high _ _ _ _ (by decide)])
  exact fld_self _

@[simp] theorem fld_encV_26 (op : BitVec 6) (wp wn sp sn : Bool) (row col : BitVec 5) (h1 w1 : BitVec 3) (a : BitVec 4) : fld (encV op wp wn sp sn row col h1 w1 a) 26 6 = op := by
  simp only [fld, encV]
  repeat (first | rw [fld_append_low _ _ _ _ (by decide)] | rw [fld_append_high _ _ _ _ (by decide)])
  exact fld_self _
@[simp] theorem flag_encV_25 (op : BitVec 6) (wp wn sp sn : Bool) (row col : BitVec 5) (h1 w1 : BitVec 3) (a : BitVec 4) : flag (encV op wp wn sp sn row col h1 w1 a) 25 = wp := by
  rw [flag_eq_field]
  simp only [encV]
  repeat (first | rw [fld_append_low _ _ _ _ (by decide)] | rw [fld_append_high _ _ _ _ (by decide)])
  rw [fld_self, bit1_getLsbD]
@[simp] theorem flag_encV_24 (op : BitVec 6) (wp wn sp sn : Bool) (row col : BitVec 5) (h1 w1 : BitVec 3) (a : BitVec 4) : flag (encV op wp wn sp sn row col h1 w1 a) 24 = wn := by
  rw [flag_eq_field]
  simp only [encV]
  repeat (first | rw [fld_append_low _ _ _ _ (by decide)] | rw [fld_append_high _ _ _ _ (by decide)])
  rw [fld_self, bit1_getLsbD]
@[simp] theorem flag_encV_23 (op : BitVec 6) (wp wn sp sn : Bool) (row col : BitVec 5) (h1 w1 : BitVec 3) (a : BitVec 4) : flag (encV op wp wn sp sn row col h1 w1 a) 23 = sp := by
  rw [flag_eq_field]
  simp only [encV]
  repeat (first | rw [fld_append_low _ _ _ _ (by decide)] | rw [fld_append_high _ _ _ _ (by decide)])
  rw [fld_self, bit1_getLsbD]
@[simp] theorem flag_encV_22 (op : BitVec 6) (wp wn sp sn : Bool) (row col : BitVec 5) (h1 w1 : BitVec 3) (a : BitVec 4) : flag (encV op wp wn sp sn row col h1 w1 a) 22 = sn := by
  rw [flag_eq_field]
  simp only [encV]
  repeat (first | rw [fld_append_low _ _ _ _ (by decide)] | rw [fld_append_high _ _ _ _ (by decide)])
  rw [fld_self, bit1_getLsbD]
@[simp] theorem fld_encV_17 (op : BitVec 6) (wp wn sp sn : Bool) (row col : BitVec 5) (h1 w1 : BitVec 3) (a : BitVec 4) : fld (encV op wp wn sp sn row col h1 w1 a) 17 5 = row := by
  simp only [fld, encV]
  repeat (first | rw [fld_append_low _ _ _ _ (by decide)] | rw [fld_append_high _ _ _ _ (by decide)])
  exact fld_self _
@[simp] theorem fld_encV_12 (op : BitVec 6) (wp wn sp sn : Bool) (row col : BitVec 5) (h1 w1 : BitVec 3) (a : BitVec 4) : fld (encV op wp wn sp sn row col h1 w1 a) 12 5 = col := by
  simp only [fld, encV]
  repeat (first | rw [fld_append_low _ _ _ _ (by decide)] | rw [fld_append_high _ _ _ _ (by decide)])
  exact fld_self _
@[simp] theorem fld_encV_9 (op : BitVec 6) (wp wn sp sn : Bool) (row col : BitVec 5) (h1 w1 : BitVec 3) (a : BitVec 4) : fld (encV op wp wn sp sn row col h1 w1 a) 9 3 = h1 := by
  simp only [fld, encV]
  repeat (first | rw [fld_append_low _ _ _ _ (by decide)] | rw [fld_append_high _ _ _ _ (by decide)])
  exact fld_self _
@[simp] theorem fld_encV_6 (op : BitVec 6) (wp wn sp sn : Bool) (row col : BitVec 5) (h1 w1 : BitVec 3) (a : BitVec 4) : fld (encV op wp wn sp sn row col h1 w1 a) 6 3 = w1 := by
  simp only [fld, encV]
  repeat (first | rw [fld_append_low _ _ _ _ (by decide)] | rw [fld_append_high _ _ _ _ (by decide)])
  exact fld_self _
@[simp] theorem fld_encV_2 (op : BitVec 6) (wp wn sp sn : Bool) (row col : BitVec 5) (h1 w1 : BitVec 3) (a : BitVec 4) : fld (encV op wp wn sp sn row col h1 w1 a) 2 4 = a := by
  simp only [fld, encV]
  repeat (first | rw [fld_append_low _ _ _ _ (by decide)] | rw [fld_append_high _ _ _ _ (by decide)])
  exact fld_self _
@[simp] theorem fld_encV_0 (op : BitVec 6) (wp wn sp sn : Bool) (row col : BitVec 5) (h1 w1 : BitVec 3) (a : BitVec 4) : fld (encV op wp wn sp sn row col h1 w1 a) 0 2 = (0 : BitVec 2) := by
  simp only [fld, encV]
  repeat (first | rw [fld_append_low _ _ _ _ (by decide)] | rw [fld_append_high _ _ _ _ (by decide)])
  exact fld_self _

@[simp] theorem fld_encAMO_26 (wn sn : Bool) (fn a : BitVec 4) (s : BitVec 6) (size : Bool) (scope : BitVec 2) (acq rel ord : Bool) : fld (encAMO wn sn fn a s size scope acq rel ord) 26 6 = (0x27 : BitVec 6) := by
  simp only [fld, encAMO]
  repeat (first | rw [fld_append_low _ _ _ _ (by decide)] | rw [fld_append_high _ _ _ _ (by decide)])
  exact fld_self _
@[simp] theorem flag_encAMO_25 (wn sn : Bool) (fn a : BitVec 4) (s : BitVec 6) (size : Bool) (scope : BitVec 2) (acq rel ord : Bool) : flag (encAMO wn sn fn a s size scope acq rel ord) 25 = false := by
  rw [flag_eq_field]
  simp only [encAMO]
  repeat (first | rw [fld_append_low _ _ _ _ (by decide)] | rw [fld_append_high _ _ _ _ (by decide)])
  rw [fld_self, bit1_getLsbD]
@[simp] theorem flag_encAMO_24 (wn sn : Bool) (fn a : BitVec 4) (s : BitVec 6) (size : Bool) (scope : BitVec 2) (acq rel ord : Bool) : flag (encAMO wn sn fn a s size scope acq rel ord) 24 = wn := by
  rw [flag_eq_field]
  simp only [encAMO]
  repeat (first | rw [fld_append_low _ _ _ _ (by decide)] | rw [fld_append_high _ _ _ _ (by decide)])
  rw [fld_self, bit1_getLsbD]
@[simp] theorem flag_encAMO_23 (wn sn : Bool) (fn a : BitVec 4) (s : BitVec 6) (size : Bool) (scope : BitVec 2) (acq rel ord : Bool) : flag (encAMO wn sn fn a s size scope acq rel ord) 23 = false := by
  rw [flag_eq_field]
  simp only [encAMO]
  repeat (first | rw [fld_append_low _ _ _ _ (by decide)] | rw [fld_append_high _ _ _ _ (by decide)])
  rw [fld_self, bit1_getLsbD]
@[simp] theorem flag_encAMO_22 (wn sn : Bool) (fn a : BitVec 4) (s : BitVec 6) (size : Bool) (scope : BitVec 2) (acq rel ord : Bool) : flag (encAMO wn sn fn a s size scope acq rel ord) 22 = sn := by
  rw [flag_eq_field]
  simp only [encAMO]
  repeat (first | rw [fld_append_low _ _ _ _ (by decide)] | rw [fld_append_high _ _ _ _ (by decide)])
  rw [fld_self, bit1_getLsbD]
@[simp] theorem fld_encAMO_18 (wn sn : Bool) (fn a : BitVec 4) (s : BitVec 6) (size : Bool) (scope : BitVec 2) (acq rel ord : Bool) : fld (encAMO wn sn fn a s size scope acq rel ord) 18 4 = fn := by
  simp only [fld, encAMO]
  repeat (first | rw [fld_append_low _ _ _ _ (by decide)] | rw [fld_append_high _ _ _ _ (by decide)])
  exact fld_self _
@[simp] theorem fld_encAMO_14 (wn sn : Bool) (fn a : BitVec 4) (s : BitVec 6) (size : Bool) (scope : BitVec 2) (acq rel ord : Bool) : fld (encAMO wn sn fn a s size scope acq rel ord) 14 4 = a := by
  simp only [fld, encAMO]
  repeat (first | rw [fld_append_low _ _ _ _ (by decide)] | rw [fld_append_high _ _ _ _ (by decide)])
  exact fld_self _
@[simp] theorem fld_encAMO_8 (wn sn : Bool) (fn a : BitVec 4) (s : BitVec 6) (size : Bool) (scope : BitVec 2) (acq rel ord : Bool) : fld (encAMO wn sn fn a s size scope acq rel ord) 8 6 = s := by
  simp only [fld, encAMO]
  repeat (first | rw [fld_append_low _ _ _ _ (by decide)] | rw [fld_append_high _ _ _ _ (by decide)])
  exact fld_self _
@[simp] theorem flag_encAMO_7 (wn sn : Bool) (fn a : BitVec 4) (s : BitVec 6) (size : Bool) (scope : BitVec 2) (acq rel ord : Bool) : flag (encAMO wn sn fn a s size scope acq rel ord) 7 = size := by
  rw [flag_eq_field]
  simp only [encAMO]
  repeat (first | rw [fld_append_low _ _ _ _ (by decide)] | rw [fld_append_high _ _ _ _ (by decide)])
  rw [fld_self, bit1_getLsbD]
@[simp] theorem fld_encAMO_5 (wn sn : Bool) (fn a : BitVec 4) (s : BitVec 6) (size : Bool) (scope : BitVec 2) (acq rel ord : Bool) : fld (encAMO wn sn fn a s size scope acq rel ord) 5 2 = scope := by
  simp only [fld, encAMO]
  repeat (first | rw [fld_append_low _ _ _ _ (by decide)] | rw [fld_append_high _ _ _ _ (by decide)])
  exact fld_self _
@[simp] theorem flag_encAMO_4 (wn sn : Bool) (fn a : BitVec 4) (s : BitVec 6) (size : Bool) (scope : BitVec 2) (acq rel ord : Bool) : flag (encAMO wn sn fn a s size scope acq rel ord) 4 = acq := by
  rw [flag_eq_field]
  simp only [encAMO]
  repeat (first | rw [fld_append_low _ _ _ _ (by decide)] | rw [fld_append_high _ _ _ _ (by decide)])
  rw [fld_self, bit1_getLsbD]
@[simp] theorem flag_encAMO_3 (wn sn : Bool) (fn a : BitVec 4) (s : BitVec 6) (size : Bool) (scope : BitVec 2) (acq rel ord : Bool) : flag (encAMO wn sn fn a s size scope acq rel ord) 3 = rel := by
  rw [flag_eq_field]
  simp only [encAMO]
  repeat (first | rw [fld_append_low _ _ _ _ (by decide)] | rw [fld_append_high _ _ _ _ (by decide)])
  rw [fld_self, bit1_getLsbD]
@[simp] theorem flag_encAMO_2 (wn sn : Bool) (fn a : BitVec 4) (s : BitVec 6) (size : Bool) (scope : BitVec 2) (acq rel ord : Bool) : flag (encAMO wn sn fn a s size scope acq rel ord) 2 = ord := by
  rw [flag_eq_field]
  simp only [encAMO]
  repeat (first | rw [fld_append_low _ _ _ _ (by decide)] | rw [fld_append_high _ _ _ _ (by decide)])
  rw [fld_self, bit1_getLsbD]
@[simp] theorem fld_encAMO_0 (wn sn : Bool) (fn a : BitVec 4) (s : BitVec 6) (size : Bool) (scope : BitVec 2) (acq rel ord : Bool) : fld (encAMO wn sn fn a s size scope acq rel ord) 0 2 = (0 : BitVec 2) := by
  simp only [fld, encAMO]
  repeat (first | rw [fld_append_low _ _ _ _ (by decide)] | rw [fld_append_high _ _ _ _ (by decide)])
  exact fld_self _

@[simp] theorem fld_encCAS_26 (wn sn : Bool) (a : BitVec 4) (s new : BitVec 6) (size : Bool) : fld (encCAS wn sn a s new size) 26 6 = (0x28 : BitVec 6) := by
  simp only [fld, encCAS]
  repeat (first | rw [fld_append_low _ _ _ _ (by decide)] | rw [fld_append_high _ _ _ _ (by decide)])
  exact fld_self _
@[simp] theorem flag_encCAS_25 (wn sn : Bool) (a : BitVec 4) (s new : BitVec 6) (size : Bool) : flag (encCAS wn sn a s new size) 25 = false := by
  rw [flag_eq_field]
  simp only [encCAS]
  repeat (first | rw [fld_append_low _ _ _ _ (by decide)] | rw [fld_append_high _ _ _ _ (by decide)])
  rw [fld_self, bit1_getLsbD]
@[simp] theorem flag_encCAS_24 (wn sn : Bool) (a : BitVec 4) (s new : BitVec 6) (size : Bool) : flag (encCAS wn sn a s new size) 24 = wn := by
  rw [flag_eq_field]
  simp only [encCAS]
  repeat (first | rw [fld_append_low _ _ _ _ (by decide)] | rw [fld_append_high _ _ _ _ (by decide)])
  rw [fld_self, bit1_getLsbD]
@[simp] theorem flag_encCAS_23 (wn sn : Bool) (a : BitVec 4) (s new : BitVec 6) (size : Bool) : flag (encCAS wn sn a s new size) 23 = false := by
  rw [flag_eq_field]
  simp only [encCAS]
  repeat (first | rw [fld_append_low _ _ _ _ (by decide)] | rw [fld_append_high _ _ _ _ (by decide)])
  rw [fld_self, bit1_getLsbD]
@[simp] theorem flag_encCAS_22 (wn sn : Bool) (a : BitVec 4) (s new : BitVec 6) (size : Bool) : flag (encCAS wn sn a s new size) 22 = sn := by
  rw [flag_eq_field]
  simp only [encCAS]
  repeat (first | rw [fld_append_low _ _ _ _ (by decide)] | rw [fld_append_high _ _ _ _ (by decide)])
  rw [fld_self, bit1_getLsbD]
@[simp] theorem fld_encCAS_18 (wn sn : Bool) (a : BitVec 4) (s new : BitVec 6) (size : Bool) : fld (encCAS wn sn a s new size) 18 4 = (0 : BitVec 4) := by
  simp only [fld, encCAS]
  repeat (first | rw [fld_append_low _ _ _ _ (by decide)] | rw [fld_append_high _ _ _ _ (by decide)])
  exact fld_self _
@[simp] theorem fld_encCAS_14 (wn sn : Bool) (a : BitVec 4) (s new : BitVec 6) (size : Bool) : fld (encCAS wn sn a s new size) 14 4 = a := by
  simp only [fld, encCAS]
  repeat (first | rw [fld_append_low _ _ _ _ (by decide)] | rw [fld_append_high _ _ _ _ (by decide)])
  exact fld_self _
@[simp] theorem fld_encCAS_8 (wn sn : Bool) (a : BitVec 4) (s new : BitVec 6) (size : Bool) : fld (encCAS wn sn a s new size) 8 6 = s := by
  simp only [fld, encCAS]
  repeat (first | rw [fld_append_low _ _ _ _ (by decide)] | rw [fld_append_high _ _ _ _ (by decide)])
  exact fld_self _
@[simp] theorem fld_encCAS_2 (wn sn : Bool) (a : BitVec 4) (s new : BitVec 6) (size : Bool) : fld (encCAS wn sn a s new size) 2 6 = new := by
  simp only [fld, encCAS]
  repeat (first | rw [fld_append_low _ _ _ _ (by decide)] | rw [fld_append_high _ _ _ _ (by decide)])
  exact fld_self _
@[simp] theorem flag_encCAS_1 (wn sn : Bool) (a : BitVec 4) (s new : BitVec 6) (size : Bool) : flag (encCAS wn sn a s new size) 1 = size := by
  rw [flag_eq_field]
  simp only [encCAS]
  repeat (first | rw [fld_append_low _ _ _ _ (by decide)] | rw [fld_append_high _ _ _ _ (by decide)])
  rw [fld_self, bit1_getLsbD]
@[simp] theorem fld_encCAS_0 (wn sn : Bool) (a : BitVec 4) (s new : BitVec 6) (size : Bool) : fld (encCAS wn sn a s new size) 0 1 = (0 : BitVec 1) := by
  simp only [fld, encCAS]
  repeat (first | rw [fld_append_low _ _ _ _ (by decide)] | rw [fld_append_high _ _ _ _ (by decide)])
  exact fld_self _

@[simp] theorem fld_encMLD_26 (wn sn : Bool) (feed : BitVec 2) (a : BitVec 4) (s : BitVec 6) : fld (encMLD wn sn feed a s) 26 6 = (0x23 : BitVec 6) := by
  simp only [fld, encMLD]
  repeat (first | rw [fld_append_low _ _ _ _ (by decide)] | rw [fld_append_high _ _ _ _ (by decide)])
  exact fld_self _
@[simp] theorem flag_encMLD_25 (wn sn : Bool) (feed : BitVec 2) (a : BitVec 4) (s : BitVec 6) : flag (encMLD wn sn feed a s) 25 = false := by
  rw [flag_eq_field]
  simp only [encMLD]
  repeat (first | rw [fld_append_low _ _ _ _ (by decide)] | rw [fld_append_high _ _ _ _ (by decide)])
  rw [fld_self, bit1_getLsbD]
@[simp] theorem flag_encMLD_24 (wn sn : Bool) (feed : BitVec 2) (a : BitVec 4) (s : BitVec 6) : flag (encMLD wn sn feed a s) 24 = wn := by
  rw [flag_eq_field]
  simp only [encMLD]
  repeat (first | rw [fld_append_low _ _ _ _ (by decide)] | rw [fld_append_high _ _ _ _ (by decide)])
  rw [fld_self, bit1_getLsbD]
@[simp] theorem flag_encMLD_23 (wn sn : Bool) (feed : BitVec 2) (a : BitVec 4) (s : BitVec 6) : flag (encMLD wn sn feed a s) 23 = false := by
  rw [flag_eq_field]
  simp only [encMLD]
  repeat (first | rw [fld_append_low _ _ _ _ (by decide)] | rw [fld_append_high _ _ _ _ (by decide)])
  rw [fld_self, bit1_getLsbD]
@[simp] theorem flag_encMLD_22 (wn sn : Bool) (feed : BitVec 2) (a : BitVec 4) (s : BitVec 6) : flag (encMLD wn sn feed a s) 22 = sn := by
  rw [flag_eq_field]
  simp only [encMLD]
  repeat (first | rw [fld_append_low _ _ _ _ (by decide)] | rw [fld_append_high _ _ _ _ (by decide)])
  rw [fld_self, bit1_getLsbD]
@[simp] theorem fld_encMLD_20 (wn sn : Bool) (feed : BitVec 2) (a : BitVec 4) (s : BitVec 6) : fld (encMLD wn sn feed a s) 20 2 = feed := by
  simp only [fld, encMLD]
  repeat (first | rw [fld_append_low _ _ _ _ (by decide)] | rw [fld_append_high _ _ _ _ (by decide)])
  exact fld_self _
@[simp] theorem fld_encMLD_16 (wn sn : Bool) (feed : BitVec 2) (a : BitVec 4) (s : BitVec 6) : fld (encMLD wn sn feed a s) 16 4 = a := by
  simp only [fld, encMLD]
  repeat (first | rw [fld_append_low _ _ _ _ (by decide)] | rw [fld_append_high _ _ _ _ (by decide)])
  exact fld_self _
@[simp] theorem fld_encMLD_10 (wn sn : Bool) (feed : BitVec 2) (a : BitVec 4) (s : BitVec 6) : fld (encMLD wn sn feed a s) 10 6 = s := by
  simp only [fld, encMLD]
  repeat (first | rw [fld_append_low _ _ _ _ (by decide)] | rw [fld_append_high _ _ _ _ (by decide)])
  exact fld_self _
@[simp] theorem fld_encMLD_0 (wn sn : Bool) (feed : BitVec 2) (a : BitVec 4) (s : BitVec 6) : fld (encMLD wn sn feed a s) 0 10 = (0 : BitVec 10) := by
  simp only [fld, encMLD]
  repeat (first | rw [fld_append_low _ _ _ _ (by decide)] | rw [fld_append_high _ _ _ _ (by decide)])
  exact fld_self _

@[simp] theorem fld_encTX_26 (wp wn sp sn : Bool) (tmpl : BitVec 6) (rep1 : BitVec 8) : fld (encTX wp wn sp sn tmpl rep1) 26 6 = (0x39 : BitVec 6) := by
  simp only [fld, encTX]
  repeat (first | rw [fld_append_low _ _ _ _ (by decide)] | rw [fld_append_high _ _ _ _ (by decide)])
  exact fld_self _
@[simp] theorem flag_encTX_25 (wp wn sp sn : Bool) (tmpl : BitVec 6) (rep1 : BitVec 8) : flag (encTX wp wn sp sn tmpl rep1) 25 = wp := by
  rw [flag_eq_field]
  simp only [encTX]
  repeat (first | rw [fld_append_low _ _ _ _ (by decide)] | rw [fld_append_high _ _ _ _ (by decide)])
  rw [fld_self, bit1_getLsbD]
@[simp] theorem flag_encTX_24 (wp wn sp sn : Bool) (tmpl : BitVec 6) (rep1 : BitVec 8) : flag (encTX wp wn sp sn tmpl rep1) 24 = wn := by
  rw [flag_eq_field]
  simp only [encTX]
  repeat (first | rw [fld_append_low _ _ _ _ (by decide)] | rw [fld_append_high _ _ _ _ (by decide)])
  rw [fld_self, bit1_getLsbD]
@[simp] theorem flag_encTX_23 (wp wn sp sn : Bool) (tmpl : BitVec 6) (rep1 : BitVec 8) : flag (encTX wp wn sp sn tmpl rep1) 23 = sp := by
  rw [flag_eq_field]
  simp only [encTX]
  repeat (first | rw [fld_append_low _ _ _ _ (by decide)] | rw [fld_append_high _ _ _ _ (by decide)])
  rw [fld_self, bit1_getLsbD]
@[simp] theorem flag_encTX_22 (wp wn sp sn : Bool) (tmpl : BitVec 6) (rep1 : BitVec 8) : flag (encTX wp wn sp sn tmpl rep1) 22 = sn := by
  rw [flag_eq_field]
  simp only [encTX]
  repeat (first | rw [fld_append_low _ _ _ _ (by decide)] | rw [fld_append_high _ _ _ _ (by decide)])
  rw [fld_self, bit1_getLsbD]
@[simp] theorem fld_encTX_16 (wp wn sp sn : Bool) (tmpl : BitVec 6) (rep1 : BitVec 8) : fld (encTX wp wn sp sn tmpl rep1) 16 6 = tmpl := by
  simp only [fld, encTX]
  repeat (first | rw [fld_append_low _ _ _ _ (by decide)] | rw [fld_append_high _ _ _ _ (by decide)])
  exact fld_self _
@[simp] theorem fld_encTX_8 (wp wn sp sn : Bool) (tmpl : BitVec 6) (rep1 : BitVec 8) : fld (encTX wp wn sp sn tmpl rep1) 8 8 = rep1 := by
  simp only [fld, encTX]
  repeat (first | rw [fld_append_low _ _ _ _ (by decide)] | rw [fld_append_high _ _ _ _ (by decide)])
  exact fld_self _
@[simp] theorem fld_encTX_0 (wp wn sp sn : Bool) (tmpl : BitVec 6) (rep1 : BitVec 8) : fld (encTX wp wn sp sn tmpl rep1) 0 8 = (0 : BitVec 8) := by
  simp only [fld, encTX]
  repeat (first | rw [fld_append_low _ _ _ _ (by decide)] | rw [fld_append_high _ _ _ _ (by decide)])
  exact fld_self _

@[simp] theorem fld_encPATCH_26 (tmpl : BitVec 6) (field : BitVec 4) (value : BitVec 16) : fld (encPATCH tmpl field value) 26 6 = (0x38 : BitVec 6) := by
  simp only [fld, encPATCH]
  repeat (first | rw [fld_append_low _ _ _ _ (by decide)] | rw [fld_append_high _ _ _ _ (by decide)])
  exact fld_self _
@[simp] theorem fld_encPATCH_20 (tmpl : BitVec 6) (field : BitVec 4) (value : BitVec 16) : fld (encPATCH tmpl field value) 20 6 = tmpl := by
  simp only [fld, encPATCH]
  repeat (first | rw [fld_append_low _ _ _ _ (by decide)] | rw [fld_append_high _ _ _ _ (by decide)])
  exact fld_self _
@[simp] theorem fld_encPATCH_16 (tmpl : BitVec 6) (field : BitVec 4) (value : BitVec 16) : fld (encPATCH tmpl field value) 16 4 = field := by
  simp only [fld, encPATCH]
  repeat (first | rw [fld_append_low _ _ _ _ (by decide)] | rw [fld_append_high _ _ _ _ (by decide)])
  exact fld_self _
@[simp] theorem fld_encPATCH_0 (tmpl : BitVec 6) (field : BitVec 4) (value : BitVec 16) : fld (encPATCH tmpl field value) 0 16 = value := by
  simp only [fld, encPATCH]
  repeat (first | rw [fld_append_low _ _ _ _ (by decide)] | rw [fld_append_high _ _ _ _ (by decide)])
  exact fld_self _

end Sys2Proof
end

