-- ==== Sys2Proof/Laws/Mem.lean ====
section
/-! SUPPORT. Laws of the sparse stores: a read after a write, and that every operation keeps the canonical form. -/

namespace Sys2Proof.Machine

/-! ### Bounds of the canonical form -/

theorem Sparse.wfFrom_mono {w : Nat} {b b' : Nat} (hb : b ≤ b') :
    {m : Sparse w} → Sparse.wfFrom b' m = true → Sparse.wfFrom b m = true
  | [], _ => rfl
  | (a, v) :: t, h => by
    simp only [Sparse.wfFrom, Bool.and_eq_true, decide_eq_true_eq] at h ⊢
    exact ⟨⟨by omega, h.1.2⟩, h.2⟩

theorem Sparse.wf_of_wfFrom {w b : Nat} {m : Sparse w} (h : Sparse.wfFrom b m = true) : m.wf = true :=
  Sparse.wfFrom_mono (Nat.zero_le b) h

/-- Below the bound nothing is listed. -/
theorem peek_below {w : Nat} {b k : Nat} (hk : k < b) : {m : Sparse w} → Sparse.wfFrom b m = true → peek m k = 0
  | [], _ => rfl
  | (a, v) :: t, h => by
    simp only [Sparse.wfFrom, Bool.and_eq_true, decide_eq_true_eq] at h
    simp only [peek, if_pos (show k < a by omega)]

/-! ### One value -/

theorem poke_wfFrom {w : Nat} {b k : Nat} (v : BitVec w) (hk : b ≤ k) :
    {m : Sparse w} → Sparse.wfFrom b m = true → Sparse.wfFrom b (poke m k v) = true
  | [], _ => by
    unfold poke
    split
    · rfl
    · rename_i hv
      simpa [Sparse.wfFrom, hk] using hv
  | (a, x) :: t, h => by
    have h' := h
    simp only [Sparse.wfFrom, Bool.and_eq_true, decide_eq_true_eq] at h
    unfold poke
    split
    · split
      · exact h'
      · simp only [Sparse.wfFrom, Bool.and_eq_true, decide_eq_true_eq]
        rename_i hv
        exact ⟨⟨hk, by simpa using hv⟩, ⟨by omega, h.1.2⟩, h.2⟩
    · split
      · split
        · exact Sparse.wfFrom_mono (by omega) h.2
        · subst_vars
          rename_i hv _
          simp only [Sparse.wfFrom, Bool.and_eq_true, decide_eq_true_eq]
          exact ⟨⟨hk, by simpa using hv⟩, h.2⟩
      · simp only [Sparse.wfFrom, Bool.and_eq_true, decide_eq_true_eq]
        exact ⟨h.1, poke_wfFrom v (by omega) h.2⟩

/-- A write keeps the canonical form. -/
theorem poke_wf {w : Nat} {m : Sparse w} (k : Nat) (v : BitVec w) (h : m.wf = true) : (poke m k v).wf = true :=
  poke_wfFrom v (Nat.zero_le k) h

theorem peek_poke_from {w : Nat} {b : Nat} (k j : Nat) (v : BitVec w) :
    {m : Sparse w} → Sparse.wfFrom b m = true → peek (poke m k v) j = if j = k then v else peek m j
  | [], _ => by
    unfold poke
    by_cases hv : v = 0
    · subst hv; simp [peek]
    · simp only [if_neg hv, peek]
      by_cases hj : j = k
      · simp [hj]
      · by_cases hlt : j < k <;> simp [hlt, hj]
  | (a, x) :: t, h => by
    simp only [Sparse.wfFrom, Bool.and_eq_true, decide_eq_true_eq] at h
    have ih := peek_poke_from (w := w) k j v h.2
    have hlow : ∀ i, i < a + 1 → peek t i = 0 := fun i hi => peek_below hi h.2
    unfold poke
    by_cases h1 : k < a
    · simp only [if_pos h1]
      by_cases hv : v = 0
      · subst hv
        simp only [if_true]
        by_cases hj : j = k
        · subst hj; simp [peek, h1]
        · simp [hj]
      · simp only [if_neg hv, peek]
        by_cases hj : j = k
        · simp [hj]
        · by_cases hlt : j < k
          · simp [hlt, hj, show j < a by omega]
          · simp [hlt, hj]
    · simp only [if_neg h1]
      by_cases h2 : k = a
      · subst h2
        simp only [if_true]
        by_cases hv : v = 0
        · subst hv
          simp only [if_true, peek]
          by_cases hj : j = k
          · subst hj; simpa using hlow j (by omega)
          · by_cases hlt : j < k
            · simpa [hlt, hj] using hlow j (by omega)
            · simp [hlt, hj]
        · rw [if_neg hv]
          by_cases hj : j = k
          · simp [peek, hj]
          · by_cases hlt : j < k <;> simp [peek, hlt, hj]
      · simp only [if_neg h2, peek]
        by_cases hlt : j < a
        · simp [hlt, show ¬ j = k by omega]
        · by_cases he : j = a
          · simp [he, show ¬ a = k by omega]
          · simp only [if_neg hlt, if_neg he]; exact ih

/-- A read after a write of one value. -/
theorem peek_poke {w : Nat} {m : Sparse w} (k j : Nat) (v : BitVec w) (h : m.wf = true) :
    peek (poke m k v) j = if j = k then v else peek m j := peek_poke_from k j v h

@[simp] theorem peek_poke_same {w : Nat} {m : Sparse w} (k : Nat) (v : BitVec w) (h : m.wf = true) :
    peek (poke m k v) k = v := by simp [peek_poke k k v h]

theorem peek_poke_other {w : Nat} {m : Sparse w} (k j : Nat) (v : BitVec w) (h : m.wf = true) (hj : j ≠ k) :
    peek (poke m k v) j = peek m j := by simp [peek_poke k j v h, hj]

/-! ### Runs of values -/

theorem dropTo_wfFrom {w : Nat} {b : Nat} (k : Nat) :
    {m : Sparse w} → Sparse.wfFrom b m = true → Sparse.wfFrom (max b k) (dropTo m k) = true
  | [], _ => rfl
  | (a, v) :: t, h => by
    have h' := h
    simp only [Sparse.wfFrom, Bool.and_eq_true, decide_eq_true_eq] at h
    unfold dropTo
    split
    · simp only [Sparse.wfFrom, Bool.and_eq_true, decide_eq_true_eq]
      exact ⟨⟨by omega, h.1.2⟩, h.2⟩
    · exact Sparse.wfFrom_mono (by omega) (dropTo_wfFrom k h.2)

theorem peek_dropTo {w : Nat} {b : Nat} (k j : Nat) (hj : k ≤ j) :
    {m : Sparse w} → Sparse.wfFrom b m = true → peek (dropTo m k) j = peek m j
  | [], _ => rfl
  | (a, v) :: t, h => by
    simp only [Sparse.wfFrom, Bool.and_eq_true, decide_eq_true_eq] at h
    unfold dropTo
    split
    · rfl
    · simp only [peek, if_neg (show ¬ j < a by omega), if_neg (show ¬ j = a by omega)]
      exact peek_dropTo k j hj h.2

/-- A run of entries, then a store that starts behind it. -/
theorem entries_append_wfFrom {w : Nat} :
    (vs : List (BitVec w)) → (k : Nat) → {m : Sparse w} → Sparse.wfFrom (k + vs.length) m = true →
    Sparse.wfFrom k (entries k vs ++ m) = true
  | [], _, _, h => h
  | v :: vs, k, m, h => by
    have ih := entries_append_wfFrom vs (k + 1) (m := m) (by simpa [Nat.add_comm, Nat.add_left_comm] using h)
    unfold entries
    split
    · exact Sparse.wfFrom_mono (by omega) ih
    · simp only [List.cons_append, Sparse.wfFrom, Bool.and_eq_true, decide_eq_true_eq]
      rename_i hv
      exact ⟨⟨Nat.le_refl k, by simpa using hv⟩, ih⟩

theorem keepBelow_append_wfFrom {w : Nat} {b k : Nat} (hb : b ≤ k) {m' : Sparse w} (h' : Sparse.wfFrom k m' = true) :
    {m : Sparse w} → Sparse.wfFrom b m = true → Sparse.wfFrom b (keepBelow m k ++ m') = true
  | [], _ => Sparse.wfFrom_mono hb h'
  | (a, v) :: t, h => by
    simp only [Sparse.wfFrom, Bool.and_eq_true, decide_eq_true_eq] at h
    unfold keepBelow
    split
    · exact Sparse.wfFrom_mono hb h'
    · simp only [List.cons_append, Sparse.wfFrom, Bool.and_eq_true, decide_eq_true_eq]
      exact ⟨h.1, keepBelow_append_wfFrom (by omega) h' h.2⟩

/-- A write of a run keeps the canonical form. -/
theorem pokeN_wf {w : Nat} {m : Sparse w} (k : Nat) (vs : List (BitVec w)) (h : m.wf = true) : (pokeN m k vs).wf = true := by
  have hd : Sparse.wfFrom (k + vs.length) (dropTo m (k + vs.length)) = true :=
    Sparse.wfFrom_mono (by omega) (dropTo_wfFrom (b := 0) _ h)
  have := keepBelow_append_wfFrom (Nat.zero_le k) (entries_append_wfFrom vs k hd) h
  simpa [pokeN, Sparse.wf, List.append_assoc] using this

theorem peek_entries_append {w : Nat} :
    (vs : List (BitVec w)) → (k j : Nat) → {m : Sparse w} → Sparse.wfFrom (k + vs.length) m = true →
    peek (entries k vs ++ m) j = if k ≤ j ∧ j < k + vs.length then vs.getD (j - k) 0 else peek m j
  | [], k, j, m, _ => by
    have : ¬ (k ≤ j ∧ j < k + ([] : List (BitVec w)).length) := by simp only [List.length_nil]; omega
    simp only [if_neg this]; rfl
  | v :: vs, k, j, m, h => by
    have h2 : Sparse.wfFrom (k + 1 + vs.length) m = true := by
      simpa [Nat.add_comm, Nat.add_left_comm, Nat.add_assoc] using h
    have ih := peek_entries_append vs (k + 1) j h2
    have hw := entries_append_wfFrom vs (k + 1) h2
    unfold entries
    have hlen : (v :: vs).length = vs.length + 1 := rfl
    by_cases hv : v = 0
    · simp only [if_pos hv]
      by_cases hj : j = k
      · subst hj
        rw [peek_below (by omega) hw]
        simp [hv]
      · rw [ih]
        by_cases hr : k + 1 ≤ j ∧ j < k + 1 + vs.length
        · rw [if_pos hr, if_pos (by omega), show j - k = (j - (k + 1)) + 1 by omega]; simp
        · rw [if_neg hr, if_neg (by omega)]
    · simp only [if_neg hv, List.cons_append, peek]
      by_cases hj : j < k
      · have hn : ¬ (k ≤ j ∧ j < k + (v :: vs).length) := by omega
        rw [if_pos hj, if_neg hn, peek_below (b := k + 1 + vs.length) (by omega) h2]
      · by_cases he : j = k
        · subst he; simp
        · rw [if_neg hj, if_neg he, ih]
          by_cases hr : k + 1 ≤ j ∧ j < k + 1 + vs.length
          · rw [if_pos hr, if_pos (by omega), show j - k = (j - (k + 1)) + 1 by omega]; simp
          · rw [if_neg hr, if_neg (by omega)]

theorem peek_keepBelow_append {w : Nat} {b : Nat} (k j : Nat) {m' : Sparse w} (h' : Sparse.wfFrom k m' = true) :
    {m : Sparse w} → Sparse.wfFrom b m = true → peek (keepBelow m k ++ m') j = if j < k then peek m j else peek m' j
  | [], _ => by
    by_cases hj : j < k
    · simp only [if_pos hj]; exact peek_below hj h'
    · simp only [if_neg hj]; rfl
  | (a, v) :: t, h => by
    simp only [Sparse.wfFrom, Bool.and_eq_true, decide_eq_true_eq] at h
    unfold keepBelow
    by_cases hk : k ≤ a
    · simp only [if_pos hk, List.nil_append]
      by_cases hj : j < k
      · simp only [if_pos hj, peek, if_pos (show j < a by omega)]; exact peek_below hj h'
      · simp only [if_neg hj]
    · simp only [if_neg hk, List.cons_append, peek]
      have ih := peek_keepBelow_append k j h' h.2
      by_cases hj : j < a
      · simp [hj, show j < k by omega]
      · by_cases he : j = a
        · simp [he, show a < k by omega]
        · simp only [if_neg hj, if_neg he]; exact ih

/-- A read after a write of a run: inside it gives the value written, and every other place is left alone. -/
theorem peek_pokeN {w : Nat} {m : Sparse w} (k j : Nat) (vs : List (BitVec w)) (h : m.wf = true) :
    peek (pokeN m k vs) j = if k ≤ j ∧ j < k + vs.length then vs.getD (j - k) 0 else peek m j := by
  have hd : Sparse.wfFrom (k + vs.length) (dropTo m (k + vs.length)) = true :=
    Sparse.wfFrom_mono (by omega) (dropTo_wfFrom (b := 0) _ h)
  have he := entries_append_wfFrom vs k hd
  have := peek_keepBelow_append (b := 0) k j he h
  simp only [pokeN, List.append_assoc]
  rw [this, peek_entries_append vs k j hd]
  by_cases hj : j < k
  · rw [if_pos hj, if_neg (by omega)]
  · rw [if_neg hj]
    by_cases hr : k ≤ j ∧ j < k + vs.length
    · rw [if_pos hr, if_pos hr]
    · rw [if_neg hr, if_neg hr, peek_dropTo (b := 0) _ _ (by omega) h]

theorem scan_eq {w : Nat} : (n k : Nat) → {m : Sparse w} → Sparse.wfFrom k m = true →
    scan n k m = (List.range n).map fun i => peek m (k + i)
  | 0, _, _, _ => rfl
  | n + 1, k, [], _ => by
    have := scan_eq n (k + 1) (m := ([] : Sparse w)) rfl
    simp [scan, this, List.range_succ_eq_map, peek, List.map_map, Function.comp_def]
  | n + 1, k, (a, v) :: t, h => by
    have h' := h
    simp only [Sparse.wfFrom, Bool.and_eq_true, decide_eq_true_eq] at h
    unfold scan
    split
    · subst_vars
      rw [scan_eq n (a + 1) h.2]
      simp [List.range_succ_eq_map, peek, List.map_map, Function.comp_def]
      intro i _
      first
        | (rw [if_neg (show ¬ a + (i + 1) < a by omega)]; congr 1; omega)
        | (congr 1; omega)
    · have hk : Sparse.wfFrom (k + 1) ((a, v) :: t) = true := by
        simp only [Sparse.wfFrom, Bool.and_eq_true, decide_eq_true_eq]; exact ⟨⟨by omega, h.1.2⟩, h.2⟩
      rw [scan_eq n (k + 1) hk]
      simp only [List.range_succ_eq_map, List.map_cons, List.map_map, Nat.add_zero]
      have h0 : peek ((a, v) :: t) k = 0 := by simp only [peek, if_pos (show k < a by omega)]
      rw [h0]
      congr 1
      apply List.map_congr_left
      intro i _
      simp only [Function.comp_def]
      congr 1; omega

/-- A run read is each of its values read. -/
theorem peekN_eq {w : Nat} {m : Sparse w} (k n : Nat) (h : m.wf = true) :
    peekN m k n = (List.range n).map fun i => peek m (k + i) := by
  unfold peekN
  rw [scan_eq n k (Sparse.wfFrom_mono (by omega) (dropTo_wfFrom (b := 0) k h))]
  apply List.map_congr_left
  intro i _
  exact peek_dropTo (b := 0) k (k + i) (by omega) h

@[simp] theorem peekN_length {w : Nat} (m : Sparse w) (k n : Nat) : (peekN m k n).length = n := by
  have : ∀ (n k : Nat) (m : Sparse w), (scan n k m).length = n := by
    intro n
    induction n with
    | zero => intros; rfl
    | succ n ih =>
      intro k m
      cases m with
      | nil => simp [scan, ih]
      | cons p t => obtain ⟨a, v⟩ := p; unfold scan; split <;> simp [ih]
  exact this n k _

/-- What was written as a run is read back as a run. -/
theorem peekN_pokeN_same {w : Nat} {m : Sparse w} (k : Nat) (vs : List (BitVec w)) (h : m.wf = true) :
    peekN (pokeN m k vs) k vs.length = vs := by
  rw [peekN_eq _ _ (pokeN_wf k vs h)]
  apply List.ext_getElem
  · simp
  · intro i h1 h2
    simp [peek_pokeN _ _ _ h, h2]

/-! ### Lines by rising number -/

theorem rising_tail {α : Type} {key : α → Nat} {x : α} : {l : List α} → rising key (x :: l) = true → rising key l = true
  | [], _ => rfl
  | _ :: _, h => by simp only [rising, Bool.and_eq_true] at h; exact h.2

theorem rising_head {α : Type} {key : α → Nat} {x y : α} {l : List α} (h : rising key (x :: y :: l) = true) : key x < key y := by
  simp only [rising, Bool.and_eq_true, decide_eq_true_eq] at h; exact h.1

theorem rising_cons {α : Type} {key : α → Nat} {x : α} : {l : List α} → rising key l = true → (∀ y ∈ l.head?, key x < key y) →
    rising key (x :: l) = true
  | [], _, _ => rfl
  | y :: t, h, hx => by
    simp only [rising, Bool.and_eq_true, decide_eq_true_eq]; exact ⟨hx y rfl, h⟩

theorem upsert_head {α : Type} {key : α → Nat} (x : α) : (l : List α) → ∀ z ∈ (upsert key x l).head?, key z = key x ∨ z ∈ l.head?
  | [], z, h => by simp [upsert] at h; simp [h]
  | y :: t, z, h => by
    unfold upsert at h
    split at h
    · simp at h; simp [h]
    · split at h
      · simp at h; simp [h]
      · simp at h; simp [h]

/-- Putting a line in place keeps the rising order. -/
theorem upsert_rising {α : Type} {key : α → Nat} (x : α) : {l : List α} → rising key l = true → rising key (upsert key x l) = true
  | [], _ => rfl
  | y :: t, h => by
    unfold upsert
    split
    · exact rising_cons h (by intro z hz; simp at hz; subst hz; assumption)
    · split
      · rename_i he
        cases t with
        | nil => rfl
        | cons z t =>
          simp only [rising, Bool.and_eq_true, decide_eq_true_eq] at h ⊢
          exact ⟨by omega, h.2⟩
      · refine rising_cons (upsert_rising x (rising_tail h)) ?_
        intro z hz
        rcases upsert_head x t z hz with e | e
        · omega
        · cases t with
          | nil => simp at e
          | cons u t => simp at e; subst e; exact rising_head h

theorem filter_rising_aux {α : Type} {key : α → Nat} (p : α → Bool) : {l : List α} → {x : α} → rising key (x :: l) = true →
    ∀ y ∈ (l.filter p).head?, key x < key y
  | [], _, _, y, hy => by simp at hy
  | z :: t, x, h, y, hy => by
    have hz := rising_head h
    by_cases hp : p z
    · simp [hp] at hy; subst hy; exact hz
    · simp only [List.filter_cons, hp] at hy
      have := filter_rising_aux p (rising_tail h) y hy
      omega

/-- Dropping lines keeps the rising order. -/
theorem filter_rising {α : Type} {key : α → Nat} (p : α → Bool) : {l : List α} → rising key l = true → rising key (l.filter p) = true
  | [], _ => rfl
  | x :: t, h => by
    by_cases hp : p x
    · simp only [List.filter_cons, hp, if_true]
      exact rising_cons (filter_rising p (rising_tail h)) (filter_rising_aux p h)
    · simp only [List.filter_cons, hp]
      exact filter_rising p (rising_tail h)

/-- Changing lines in place keeps the rising order. -/
theorem map_rising {α : Type} {key : α → Nat} (f : α → α) (hf : ∀ x, key (f x) = key x) :
    {l : List α} → rising key l = true → rising key (l.map f) = true
  | [], _ => rfl
  | [_], _ => rfl
  | x :: y :: t, h => by
    simp only [rising, Bool.and_eq_true, decide_eq_true_eq] at h
    simp only [List.map_cons, rising, Bool.and_eq_true, decide_eq_true_eq, hf]
    exact ⟨h.1, by simpa using map_rising f hf h.2⟩

end Sys2Proof.Machine
end

