-- ==== Sys2Proof/Laws/State.lean ====
section
/-! SUPPORT. One lemma for each field under each named update of the state and of a core, so that no later proof unfolds a
record update. -/

namespace Sys2Proof.Machine

/-! ### The state -/

@[simp] theorem State.withCore_cores (s : State) (c : Core) : (s.withCore c).cores = s.cores.set s.cur c := rfl
@[simp] theorem State.withCore_focus (s : State) (c : Core) : (s.withCore c).focus = s.focus := rfl
@[simp] theorem State.withCore_held (s : State) (c : Core) : (s.withCore c).held = s.held := rfl
@[simp] theorem State.withCore_blocked (s : State) (c : Core) : (s.withCore c).blocked = s.blocked := rfl
@[simp] theorem State.withCore_routed (s : State) (c : Core) : (s.withCore c).routed = s.routed := rfl
@[simp] theorem State.withCore_free (s : State) (c : Core) : (s.withCore c).free = s.free := rfl
@[simp] theorem State.withCore_agenda (s : State) (c : Core) : (s.withCore c).agenda = s.agenda := rfl
@[simp] theorem State.withCore_clock (s : State) (c : Core) : (s.withCore c).clock = s.clock := rfl
@[simp] theorem State.withCore_control (s : State) (c : Core) : (s.withCore c).control = s.control := rfl
@[simp] theorem State.withCore_tags (s : State) (c : Core) : (s.withCore c).tags = s.tags := rfl
@[simp] theorem State.withCore_mem (s : State) (c : Core) : (s.withCore c).mem = s.mem := rfl
@[simp] theorem State.withCore_pages (s : State) (c : Core) : (s.withCore c).pages = s.pages := rfl
@[simp] theorem State.withCore_tiers (s : State) (c : Core) : (s.withCore c).tiers = s.tiers := rfl
@[simp] theorem State.withCore_sites (s : State) (c : Core) : (s.withCore c).sites = s.sites := rfl
@[simp] theorem State.withCore_fabric (s : State) (c : Core) : (s.withCore c).fabric = s.fabric := rfl
@[simp] theorem State.withCore_order (s : State) (c : Core) : (s.withCore c).order = s.order := rfl
@[simp] theorem State.withCore_mgmt (s : State) (c : Core) : (s.withCore c).mgmt = s.mgmt := rfl

@[simp] theorem State.at_cores (s : State) (f : Focus) : (s.at f).cores = s.cores := rfl
@[simp] theorem State.at_focus (s : State) (f : Focus) : (s.at f).focus = f := rfl
@[simp] theorem State.at_held (s : State) (f : Focus) : (s.at f).held = s.held := rfl
@[simp] theorem State.at_blocked (s : State) (f : Focus) : (s.at f).blocked = s.blocked := rfl
@[simp] theorem State.at_routed (s : State) (f : Focus) : (s.at f).routed = s.routed := rfl
@[simp] theorem State.at_free (s : State) (f : Focus) : (s.at f).free = s.free := rfl
@[simp] theorem State.at_agenda (s : State) (f : Focus) : (s.at f).agenda = s.agenda := rfl
@[simp] theorem State.at_clock (s : State) (f : Focus) : (s.at f).clock = s.clock := rfl
@[simp] theorem State.at_control (s : State) (f : Focus) : (s.at f).control = s.control := rfl
@[simp] theorem State.at_tags (s : State) (f : Focus) : (s.at f).tags = s.tags := rfl
@[simp] theorem State.at_mem (s : State) (f : Focus) : (s.at f).mem = s.mem := rfl
@[simp] theorem State.at_pages (s : State) (f : Focus) : (s.at f).pages = s.pages := rfl
@[simp] theorem State.at_tiers (s : State) (f : Focus) : (s.at f).tiers = s.tiers := rfl
@[simp] theorem State.at_sites (s : State) (f : Focus) : (s.at f).sites = s.sites := rfl
@[simp] theorem State.at_fabric (s : State) (f : Focus) : (s.at f).fabric = s.fabric := rfl
@[simp] theorem State.at_order (s : State) (f : Focus) : (s.at f).order = s.order := rfl
@[simp] theorem State.at_mgmt (s : State) (f : Focus) : (s.at f).mgmt = s.mgmt := rfl

@[simp] theorem State.onUnit_cores (s : State) (i : Fin 96) (a : Actor) : (s.onUnit i a).cores = s.cores := rfl
@[simp] theorem State.onUnit_focus (s : State) (i : Fin 96) (a : Actor) : (s.onUnit i a).focus = { s.focus with core := i, actor := a } := rfl
@[simp] theorem State.onUnit_held (s : State) (i : Fin 96) (a : Actor) : (s.onUnit i a).held = s.held := rfl
@[simp] theorem State.onUnit_blocked (s : State) (i : Fin 96) (a : Actor) : (s.onUnit i a).blocked = s.blocked := rfl
@[simp] theorem State.onUnit_routed (s : State) (i : Fin 96) (a : Actor) : (s.onUnit i a).routed = s.routed := rfl
@[simp] theorem State.onUnit_free (s : State) (i : Fin 96) (a : Actor) : (s.onUnit i a).free = s.free := rfl
@[simp] theorem State.onUnit_agenda (s : State) (i : Fin 96) (a : Actor) : (s.onUnit i a).agenda = s.agenda := rfl
@[simp] theorem State.onUnit_clock (s : State) (i : Fin 96) (a : Actor) : (s.onUnit i a).clock = s.clock := rfl
@[simp] theorem State.onUnit_control (s : State) (i : Fin 96) (a : Actor) : (s.onUnit i a).control = s.control := rfl
@[simp] theorem State.onUnit_tags (s : State) (i : Fin 96) (a : Actor) : (s.onUnit i a).tags = s.tags := rfl
@[simp] theorem State.onUnit_mem (s : State) (i : Fin 96) (a : Actor) : (s.onUnit i a).mem = s.mem := rfl
@[simp] theorem State.onUnit_pages (s : State) (i : Fin 96) (a : Actor) : (s.onUnit i a).pages = s.pages := rfl
@[simp] theorem State.onUnit_tiers (s : State) (i : Fin 96) (a : Actor) : (s.onUnit i a).tiers = s.tiers := rfl
@[simp] theorem State.onUnit_sites (s : State) (i : Fin 96) (a : Actor) : (s.onUnit i a).sites = s.sites := rfl
@[simp] theorem State.onUnit_fabric (s : State) (i : Fin 96) (a : Actor) : (s.onUnit i a).fabric = s.fabric := rfl
@[simp] theorem State.onUnit_order (s : State) (i : Fin 96) (a : Actor) : (s.onUnit i a).order = s.order := rfl
@[simp] theorem State.onUnit_mgmt (s : State) (i : Fin 96) (a : Actor) : (s.onUnit i a).mgmt = s.mgmt := rfl

@[simp] theorem State.hold_cores (s : State) : (s.hold).cores = s.cores := rfl
@[simp] theorem State.hold_focus (s : State) : (s.hold).focus = s.focus := rfl
@[simp] theorem State.hold_held (s : State) : (s.hold).held = true := rfl
@[simp] theorem State.hold_blocked (s : State) : (s.hold).blocked = s.blocked := rfl
@[simp] theorem State.hold_routed (s : State) : (s.hold).routed = s.routed := rfl
@[simp] theorem State.hold_free (s : State) : (s.hold).free = s.free := rfl
@[simp] theorem State.hold_agenda (s : State) : (s.hold).agenda = s.agenda := rfl
@[simp] theorem State.hold_clock (s : State) : (s.hold).clock = s.clock := rfl
@[simp] theorem State.hold_control (s : State) : (s.hold).control = s.control := rfl
@[simp] theorem State.hold_tags (s : State) : (s.hold).tags = s.tags := rfl
@[simp] theorem State.hold_mem (s : State) : (s.hold).mem = s.mem := rfl
@[simp] theorem State.hold_pages (s : State) : (s.hold).pages = s.pages := rfl
@[simp] theorem State.hold_tiers (s : State) : (s.hold).tiers = s.tiers := rfl
@[simp] theorem State.hold_sites (s : State) : (s.hold).sites = s.sites := rfl
@[simp] theorem State.hold_fabric (s : State) : (s.hold).fabric = s.fabric := rfl
@[simp] theorem State.hold_order (s : State) : (s.hold).order = s.order := rfl
@[simp] theorem State.hold_mgmt (s : State) : (s.hold).mgmt = s.mgmt := rfl

@[simp] theorem State.postFor_cores (s : State) (f : Focus) (t : Nat) (i : Instr) : (s.postFor f t i).cores = s.cores := rfl
@[simp] theorem State.postFor_focus (s : State) (f : Focus) (t : Nat) (i : Instr) : (s.postFor f t i).focus = s.focus := rfl
@[simp] theorem State.postFor_held (s : State) (f : Focus) (t : Nat) (i : Instr) : (s.postFor f t i).held = s.held := rfl
@[simp] theorem State.postFor_blocked (s : State) (f : Focus) (t : Nat) (i : Instr) : (s.postFor f t i).blocked = s.blocked := rfl
@[simp] theorem State.postFor_routed (s : State) (f : Focus) (t : Nat) (i : Instr) : (s.postFor f t i).routed = s.routed := rfl
@[simp] theorem State.postFor_free (s : State) (f : Focus) (t : Nat) (i : Instr) : (s.postFor f t i).free = s.free := rfl
@[simp] theorem State.postFor_agenda (s : State) (f : Focus) (t : Nat) (i : Instr) : (s.postFor f t i).agenda = agendaAdd s.agenda ⟨t, f, i⟩ := rfl
@[simp] theorem State.postFor_clock (s : State) (f : Focus) (t : Nat) (i : Instr) : (s.postFor f t i).clock = s.clock := rfl
@[simp] theorem State.postFor_control (s : State) (f : Focus) (t : Nat) (i : Instr) : (s.postFor f t i).control = s.control := rfl
@[simp] theorem State.postFor_tags (s : State) (f : Focus) (t : Nat) (i : Instr) : (s.postFor f t i).tags = s.tags := rfl
@[simp] theorem State.postFor_mem (s : State) (f : Focus) (t : Nat) (i : Instr) : (s.postFor f t i).mem = s.mem := rfl
@[simp] theorem State.postFor_pages (s : State) (f : Focus) (t : Nat) (i : Instr) : (s.postFor f t i).pages = s.pages := rfl
@[simp] theorem State.postFor_tiers (s : State) (f : Focus) (t : Nat) (i : Instr) : (s.postFor f t i).tiers = s.tiers := rfl
@[simp] theorem State.postFor_sites (s : State) (f : Focus) (t : Nat) (i : Instr) : (s.postFor f t i).sites = s.sites := rfl
@[simp] theorem State.postFor_fabric (s : State) (f : Focus) (t : Nat) (i : Instr) : (s.postFor f t i).fabric = s.fabric := rfl
@[simp] theorem State.postFor_order (s : State) (f : Focus) (t : Nat) (i : Instr) : (s.postFor f t i).order = s.order := rfl
@[simp] theorem State.postFor_mgmt (s : State) (f : Focus) (t : Nat) (i : Instr) : (s.postFor f t i).mgmt = s.mgmt := rfl

@[simp] theorem State.postAt_cores (s : State) (t : Nat) (i : Instr) : (s.postAt t i).cores = s.cores := rfl
@[simp] theorem State.postAt_focus (s : State) (t : Nat) (i : Instr) : (s.postAt t i).focus = s.focus := rfl
@[simp] theorem State.postAt_held (s : State) (t : Nat) (i : Instr) : (s.postAt t i).held = s.held := rfl
@[simp] theorem State.postAt_blocked (s : State) (t : Nat) (i : Instr) : (s.postAt t i).blocked = s.blocked := rfl
@[simp] theorem State.postAt_routed (s : State) (t : Nat) (i : Instr) : (s.postAt t i).routed = s.routed := rfl
@[simp] theorem State.postAt_free (s : State) (t : Nat) (i : Instr) : (s.postAt t i).free = s.free := rfl
@[simp] theorem State.postAt_agenda (s : State) (t : Nat) (i : Instr) : (s.postAt t i).agenda = agendaAdd s.agenda ⟨t, s.focus, i⟩ := rfl
@[simp] theorem State.postAt_clock (s : State) (t : Nat) (i : Instr) : (s.postAt t i).clock = s.clock := rfl
@[simp] theorem State.postAt_control (s : State) (t : Nat) (i : Instr) : (s.postAt t i).control = s.control := rfl
@[simp] theorem State.postAt_tags (s : State) (t : Nat) (i : Instr) : (s.postAt t i).tags = s.tags := rfl
@[simp] theorem State.postAt_mem (s : State) (t : Nat) (i : Instr) : (s.postAt t i).mem = s.mem := rfl
@[simp] theorem State.postAt_pages (s : State) (t : Nat) (i : Instr) : (s.postAt t i).pages = s.pages := rfl
@[simp] theorem State.postAt_tiers (s : State) (t : Nat) (i : Instr) : (s.postAt t i).tiers = s.tiers := rfl
@[simp] theorem State.postAt_sites (s : State) (t : Nat) (i : Instr) : (s.postAt t i).sites = s.sites := rfl
@[simp] theorem State.postAt_fabric (s : State) (t : Nat) (i : Instr) : (s.postAt t i).fabric = s.fabric := rfl
@[simp] theorem State.postAt_order (s : State) (t : Nat) (i : Instr) : (s.postAt t i).order = s.order := rfl
@[simp] theorem State.postAt_mgmt (s : State) (t : Nat) (i : Instr) : (s.postAt t i).mgmt = s.mgmt := rfl

@[simp] theorem State.post_cores (s : State) (i : Instr) : (s.post i).cores = s.cores := rfl
@[simp] theorem State.post_focus (s : State) (i : Instr) : (s.post i).focus = s.focus := rfl
@[simp] theorem State.post_held (s : State) (i : Instr) : (s.post i).held = s.held := rfl
@[simp] theorem State.post_blocked (s : State) (i : Instr) : (s.post i).blocked = s.blocked := rfl
@[simp] theorem State.post_routed (s : State) (i : Instr) : (s.post i).routed = s.routed := rfl
@[simp] theorem State.post_free (s : State) (i : Instr) : (s.post i).free = s.free := rfl
@[simp] theorem State.post_agenda (s : State) (i : Instr) : (s.post i).agenda = agendaAdd s.agenda ⟨s.clock.cycle, s.focus, i⟩ := rfl
@[simp] theorem State.post_clock (s : State) (i : Instr) : (s.post i).clock = s.clock := rfl
@[simp] theorem State.post_control (s : State) (i : Instr) : (s.post i).control = s.control := rfl
@[simp] theorem State.post_tags (s : State) (i : Instr) : (s.post i).tags = s.tags := rfl
@[simp] theorem State.post_mem (s : State) (i : Instr) : (s.post i).mem = s.mem := rfl
@[simp] theorem State.post_pages (s : State) (i : Instr) : (s.post i).pages = s.pages := rfl
@[simp] theorem State.post_tiers (s : State) (i : Instr) : (s.post i).tiers = s.tiers := rfl
@[simp] theorem State.post_sites (s : State) (i : Instr) : (s.post i).sites = s.sites := rfl
@[simp] theorem State.post_fabric (s : State) (i : Instr) : (s.post i).fabric = s.fabric := rfl
@[simp] theorem State.post_order (s : State) (i : Instr) : (s.post i).order = s.order := rfl
@[simp] theorem State.post_mgmt (s : State) (i : Instr) : (s.post i).mgmt = s.mgmt := rfl

@[simp] theorem State.setMem_cores (s : State) (m : MemorySystem) : (s.setMem m).cores = s.cores := rfl
@[simp] theorem State.setMem_focus (s : State) (m : MemorySystem) : (s.setMem m).focus = s.focus := rfl
@[simp] theorem State.setMem_held (s : State) (m : MemorySystem) : (s.setMem m).held = s.held := rfl
@[simp] theorem State.setMem_blocked (s : State) (m : MemorySystem) : (s.setMem m).blocked = s.blocked := rfl
@[simp] theorem State.setMem_routed (s : State) (m : MemorySystem) : (s.setMem m).routed = s.routed := rfl
@[simp] theorem State.setMem_free (s : State) (m : MemorySystem) : (s.setMem m).free = s.free := rfl
@[simp] theorem State.setMem_agenda (s : State) (m : MemorySystem) : (s.setMem m).agenda = s.agenda := rfl
@[simp] theorem State.setMem_clock (s : State) (m : MemorySystem) : (s.setMem m).clock = s.clock := rfl
@[simp] theorem State.setMem_control (s : State) (m : MemorySystem) : (s.setMem m).control = s.control := rfl
@[simp] theorem State.setMem_tags (s : State) (m : MemorySystem) : (s.setMem m).tags = s.tags := rfl
@[simp] theorem State.setMem_mem (s : State) (m : MemorySystem) : (s.setMem m).mem = m := rfl
@[simp] theorem State.setMem_pages (s : State) (m : MemorySystem) : (s.setMem m).pages = s.pages := rfl
@[simp] theorem State.setMem_tiers (s : State) (m : MemorySystem) : (s.setMem m).tiers = s.tiers := rfl
@[simp] theorem State.setMem_sites (s : State) (m : MemorySystem) : (s.setMem m).sites = s.sites := rfl
@[simp] theorem State.setMem_fabric (s : State) (m : MemorySystem) : (s.setMem m).fabric = s.fabric := rfl
@[simp] theorem State.setMem_order (s : State) (m : MemorySystem) : (s.setMem m).order = s.order := rfl
@[simp] theorem State.setMem_mgmt (s : State) (m : MemorySystem) : (s.setMem m).mgmt = s.mgmt := rfl

@[simp] theorem State.setPages_cores (s : State) (p : PageUnit) : (s.setPages p).cores = s.cores := rfl
@[simp] theorem State.setPages_focus (s : State) (p : PageUnit) : (s.setPages p).focus = s.focus := rfl
@[simp] theorem State.setPages_held (s : State) (p : PageUnit) : (s.setPages p).held = s.held := rfl
@[simp] theorem State.setPages_blocked (s : State) (p : PageUnit) : (s.setPages p).blocked = s.blocked := rfl
@[simp] theorem State.setPages_routed (s : State) (p : PageUnit) : (s.setPages p).routed = s.routed := rfl
@[simp] theorem State.setPages_free (s : State) (p : PageUnit) : (s.setPages p).free = s.free := rfl
@[simp] theorem State.setPages_agenda (s : State) (p : PageUnit) : (s.setPages p).agenda = s.agenda := rfl
@[simp] theorem State.setPages_clock (s : State) (p : PageUnit) : (s.setPages p).clock = s.clock := rfl
@[simp] theorem State.setPages_control (s : State) (p : PageUnit) : (s.setPages p).control = s.control := rfl
@[simp] theorem State.setPages_tags (s : State) (p : PageUnit) : (s.setPages p).tags = s.tags := rfl
@[simp] theorem State.setPages_mem (s : State) (p : PageUnit) : (s.setPages p).mem = s.mem := rfl
@[simp] theorem State.setPages_pages (s : State) (p : PageUnit) : (s.setPages p).pages = p := rfl
@[simp] theorem State.setPages_tiers (s : State) (p : PageUnit) : (s.setPages p).tiers = s.tiers := rfl
@[simp] theorem State.setPages_sites (s : State) (p : PageUnit) : (s.setPages p).sites = s.sites := rfl
@[simp] theorem State.setPages_fabric (s : State) (p : PageUnit) : (s.setPages p).fabric = s.fabric := rfl
@[simp] theorem State.setPages_order (s : State) (p : PageUnit) : (s.setPages p).order = s.order := rfl
@[simp] theorem State.setPages_mgmt (s : State) (p : PageUnit) : (s.setPages p).mgmt = s.mgmt := rfl

@[simp] theorem State.setControl_cores (s : State) (c : ControlPlane) : (s.setControl c).cores = s.cores := rfl
@[simp] theorem State.setControl_focus (s : State) (c : ControlPlane) : (s.setControl c).focus = s.focus := rfl
@[simp] theorem State.setControl_held (s : State) (c : ControlPlane) : (s.setControl c).held = s.held := rfl
@[simp] theorem State.setControl_blocked (s : State) (c : ControlPlane) : (s.setControl c).blocked = s.blocked := rfl
@[simp] theorem State.setControl_routed (s : State) (c : ControlPlane) : (s.setControl c).routed = s.routed := rfl
@[simp] theorem State.setControl_free (s : State) (c : ControlPlane) : (s.setControl c).free = s.free := rfl
@[simp] theorem State.setControl_agenda (s : State) (c : ControlPlane) : (s.setControl c).agenda = s.agenda := rfl
@[simp] theorem State.setControl_clock (s : State) (c : ControlPlane) : (s.setControl c).clock = s.clock := rfl
@[simp] theorem State.setControl_control (s : State) (c : ControlPlane) : (s.setControl c).control = c := rfl
@[simp] theorem State.setControl_tags (s : State) (c : ControlPlane) : (s.setControl c).tags = s.tags := rfl
@[simp] theorem State.setControl_mem (s : State) (c : ControlPlane) : (s.setControl c).mem = s.mem := rfl
@[simp] theorem State.setControl_pages (s : State) (c : ControlPlane) : (s.setControl c).pages = s.pages := rfl
@[simp] theorem State.setControl_tiers (s : State) (c : ControlPlane) : (s.setControl c).tiers = s.tiers := rfl
@[simp] theorem State.setControl_sites (s : State) (c : ControlPlane) : (s.setControl c).sites = s.sites := rfl
@[simp] theorem State.setControl_fabric (s : State) (c : ControlPlane) : (s.setControl c).fabric = s.fabric := rfl
@[simp] theorem State.setControl_order (s : State) (c : ControlPlane) : (s.setControl c).order = s.order := rfl
@[simp] theorem State.setControl_mgmt (s : State) (c : ControlPlane) : (s.setControl c).mgmt = s.mgmt := rfl

@[simp] theorem State.setTags_cores (s : State) (t : TagUnit) : (s.setTags t).cores = s.cores := rfl
@[simp] theorem State.setTags_focus (s : State) (t : TagUnit) : (s.setTags t).focus = s.focus := rfl
@[simp] theorem State.setTags_held (s : State) (t : TagUnit) : (s.setTags t).held = s.held := rfl
@[simp] theorem State.setTags_blocked (s : State) (t : TagUnit) : (s.setTags t).blocked = s.blocked := rfl
@[simp] theorem State.setTags_routed (s : State) (t : TagUnit) : (s.setTags t).routed = s.routed := rfl
@[simp] theorem State.setTags_free (s : State) (t : TagUnit) : (s.setTags t).free = s.free := rfl
@[simp] theorem State.setTags_agenda (s : State) (t : TagUnit) : (s.setTags t).agenda = s.agenda := rfl
@[simp] theorem State.setTags_clock (s : State) (t : TagUnit) : (s.setTags t).clock = s.clock := rfl
@[simp] theorem State.setTags_control (s : State) (t : TagUnit) : (s.setTags t).control = s.control := rfl
@[simp] theorem State.setTags_tags (s : State) (t : TagUnit) : (s.setTags t).tags = t := rfl
@[simp] theorem State.setTags_mem (s : State) (t : TagUnit) : (s.setTags t).mem = s.mem := rfl
@[simp] theorem State.setTags_pages (s : State) (t : TagUnit) : (s.setTags t).pages = s.pages := rfl
@[simp] theorem State.setTags_tiers (s : State) (t : TagUnit) : (s.setTags t).tiers = s.tiers := rfl
@[simp] theorem State.setTags_sites (s : State) (t : TagUnit) : (s.setTags t).sites = s.sites := rfl
@[simp] theorem State.setTags_fabric (s : State) (t : TagUnit) : (s.setTags t).fabric = s.fabric := rfl
@[simp] theorem State.setTags_order (s : State) (t : TagUnit) : (s.setTags t).order = s.order := rfl
@[simp] theorem State.setTags_mgmt (s : State) (t : TagUnit) : (s.setTags t).mgmt = s.mgmt := rfl

@[simp] theorem State.setSite_cores (s : State) (i : Fin 8) (u : SiteUnit) : (s.setSite i u).cores = s.cores := rfl
@[simp] theorem State.setSite_focus (s : State) (i : Fin 8) (u : SiteUnit) : (s.setSite i u).focus = s.focus := rfl
@[simp] theorem State.setSite_held (s : State) (i : Fin 8) (u : SiteUnit) : (s.setSite i u).held = s.held := rfl
@[simp] theorem State.setSite_blocked (s : State) (i : Fin 8) (u : SiteUnit) : (s.setSite i u).blocked = s.blocked := rfl
@[simp] theorem State.setSite_routed (s : State) (i : Fin 8) (u : SiteUnit) : (s.setSite i u).routed = s.routed := rfl
@[simp] theorem State.setSite_free (s : State) (i : Fin 8) (u : SiteUnit) : (s.setSite i u).free = s.free := rfl
@[simp] theorem State.setSite_agenda (s : State) (i : Fin 8) (u : SiteUnit) : (s.setSite i u).agenda = s.agenda := rfl
@[simp] theorem State.setSite_clock (s : State) (i : Fin 8) (u : SiteUnit) : (s.setSite i u).clock = s.clock := rfl
@[simp] theorem State.setSite_control (s : State) (i : Fin 8) (u : SiteUnit) : (s.setSite i u).control = s.control := rfl
@[simp] theorem State.setSite_tags (s : State) (i : Fin 8) (u : SiteUnit) : (s.setSite i u).tags = s.tags := rfl
@[simp] theorem State.setSite_mem (s : State) (i : Fin 8) (u : SiteUnit) : (s.setSite i u).mem = s.mem := rfl
@[simp] theorem State.setSite_pages (s : State) (i : Fin 8) (u : SiteUnit) : (s.setSite i u).pages = s.pages := rfl
@[simp] theorem State.setSite_tiers (s : State) (i : Fin 8) (u : SiteUnit) : (s.setSite i u).tiers = s.tiers := rfl
@[simp] theorem State.setSite_sites (s : State) (i : Fin 8) (u : SiteUnit) : (s.setSite i u).sites = s.sites.set i u := rfl
@[simp] theorem State.setSite_fabric (s : State) (i : Fin 8) (u : SiteUnit) : (s.setSite i u).fabric = s.fabric := rfl
@[simp] theorem State.setSite_order (s : State) (i : Fin 8) (u : SiteUnit) : (s.setSite i u).order = s.order := rfl
@[simp] theorem State.setSite_mgmt (s : State) (i : Fin 8) (u : SiteUnit) : (s.setSite i u).mgmt = s.mgmt := rfl

@[simp] theorem State.setFabric_cores (s : State) (f : Fabric) : (s.setFabric f).cores = s.cores := rfl
@[simp] theorem State.setFabric_focus (s : State) (f : Fabric) : (s.setFabric f).focus = s.focus := rfl
@[simp] theorem State.setFabric_held (s : State) (f : Fabric) : (s.setFabric f).held = s.held := rfl
@[simp] theorem State.setFabric_blocked (s : State) (f : Fabric) : (s.setFabric f).blocked = s.blocked := rfl
@[simp] theorem State.setFabric_routed (s : State) (f : Fabric) : (s.setFabric f).routed = s.routed := rfl
@[simp] theorem State.setFabric_free (s : State) (f : Fabric) : (s.setFabric f).free = s.free := rfl
@[simp] theorem State.setFabric_agenda (s : State) (f : Fabric) : (s.setFabric f).agenda = s.agenda := rfl
@[simp] theorem State.setFabric_clock (s : State) (f : Fabric) : (s.setFabric f).clock = s.clock := rfl
@[simp] theorem State.setFabric_control (s : State) (f : Fabric) : (s.setFabric f).control = s.control := rfl
@[simp] theorem State.setFabric_tags (s : State) (f : Fabric) : (s.setFabric f).tags = s.tags := rfl
@[simp] theorem State.setFabric_mem (s : State) (f : Fabric) : (s.setFabric f).mem = s.mem := rfl
@[simp] theorem State.setFabric_pages (s : State) (f : Fabric) : (s.setFabric f).pages = s.pages := rfl
@[simp] theorem State.setFabric_tiers (s : State) (f : Fabric) : (s.setFabric f).tiers = s.tiers := rfl
@[simp] theorem State.setFabric_sites (s : State) (f : Fabric) : (s.setFabric f).sites = s.sites := rfl
@[simp] theorem State.setFabric_fabric (s : State) (f : Fabric) : (s.setFabric f).fabric = f := rfl
@[simp] theorem State.setFabric_order (s : State) (f : Fabric) : (s.setFabric f).order = s.order := rfl
@[simp] theorem State.setFabric_mgmt (s : State) (f : Fabric) : (s.setFabric f).mgmt = s.mgmt := rfl

@[simp] theorem State.setOrder_cores (s : State) (o : OrderLog) : (s.setOrder o).cores = s.cores := rfl
@[simp] theorem State.setOrder_focus (s : State) (o : OrderLog) : (s.setOrder o).focus = s.focus := rfl
@[simp] theorem State.setOrder_held (s : State) (o : OrderLog) : (s.setOrder o).held = s.held := rfl
@[simp] theorem State.setOrder_blocked (s : State) (o : OrderLog) : (s.setOrder o).blocked = s.blocked := rfl
@[simp] theorem State.setOrder_routed (s : State) (o : OrderLog) : (s.setOrder o).routed = s.routed := rfl
@[simp] theorem State.setOrder_free (s : State) (o : OrderLog) : (s.setOrder o).free = s.free := rfl
@[simp] theorem State.setOrder_agenda (s : State) (o : OrderLog) : (s.setOrder o).agenda = s.agenda := rfl
@[simp] theorem State.setOrder_clock (s : State) (o : OrderLog) : (s.setOrder o).clock = s.clock := rfl
@[simp] theorem State.setOrder_control (s : State) (o : OrderLog) : (s.setOrder o).control = s.control := rfl
@[simp] theorem State.setOrder_tags (s : State) (o : OrderLog) : (s.setOrder o).tags = s.tags := rfl
@[simp] theorem State.setOrder_mem (s : State) (o : OrderLog) : (s.setOrder o).mem = s.mem := rfl
@[simp] theorem State.setOrder_pages (s : State) (o : OrderLog) : (s.setOrder o).pages = s.pages := rfl
@[simp] theorem State.setOrder_tiers (s : State) (o : OrderLog) : (s.setOrder o).tiers = s.tiers := rfl
@[simp] theorem State.setOrder_sites (s : State) (o : OrderLog) : (s.setOrder o).sites = s.sites := rfl
@[simp] theorem State.setOrder_fabric (s : State) (o : OrderLog) : (s.setOrder o).fabric = s.fabric := rfl
@[simp] theorem State.setOrder_order (s : State) (o : OrderLog) : (s.setOrder o).order = o := rfl
@[simp] theorem State.setOrder_mgmt (s : State) (o : OrderLog) : (s.setOrder o).mgmt = s.mgmt := rfl

@[simp] theorem State.setMgmt_cores (s : State) (m : Management) : (s.setMgmt m).cores = s.cores := rfl
@[simp] theorem State.setMgmt_focus (s : State) (m : Management) : (s.setMgmt m).focus = s.focus := rfl
@[simp] theorem State.setMgmt_held (s : State) (m : Management) : (s.setMgmt m).held = s.held := rfl
@[simp] theorem State.setMgmt_blocked (s : State) (m : Management) : (s.setMgmt m).blocked = s.blocked := rfl
@[simp] theorem State.setMgmt_routed (s : State) (m : Management) : (s.setMgmt m).routed = s.routed := rfl
@[simp] theorem State.setMgmt_free (s : State) (m : Management) : (s.setMgmt m).free = s.free := rfl
@[simp] theorem State.setMgmt_agenda (s : State) (m : Management) : (s.setMgmt m).agenda = s.agenda := rfl
@[simp] theorem State.setMgmt_clock (s : State) (m : Management) : (s.setMgmt m).clock = s.clock := rfl
@[simp] theorem State.setMgmt_control (s : State) (m : Management) : (s.setMgmt m).control = s.control := rfl
@[simp] theorem State.setMgmt_tags (s : State) (m : Management) : (s.setMgmt m).tags = s.tags := rfl
@[simp] theorem State.setMgmt_mem (s : State) (m : Management) : (s.setMgmt m).mem = s.mem := rfl
@[simp] theorem State.setMgmt_pages (s : State) (m : Management) : (s.setMgmt m).pages = s.pages := rfl
@[simp] theorem State.setMgmt_tiers (s : State) (m : Management) : (s.setMgmt m).tiers = s.tiers := rfl
@[simp] theorem State.setMgmt_sites (s : State) (m : Management) : (s.setMgmt m).sites = s.sites := rfl
@[simp] theorem State.setMgmt_fabric (s : State) (m : Management) : (s.setMgmt m).fabric = s.fabric := rfl
@[simp] theorem State.setMgmt_order (s : State) (m : Management) : (s.setMgmt m).order = s.order := rfl
@[simp] theorem State.setMgmt_mgmt (s : State) (m : Management) : (s.setMgmt m).mgmt = m := rfl

@[simp] theorem State.setQueue_cores (s : State) (i : Fin 16) (q : SluiceQueue) : (s.setQueue i q).cores = s.cores := rfl
@[simp] theorem State.setQueue_focus (s : State) (i : Fin 16) (q : SluiceQueue) : (s.setQueue i q).focus = s.focus := rfl
@[simp] theorem State.setQueue_held (s : State) (i : Fin 16) (q : SluiceQueue) : (s.setQueue i q).held = s.held := rfl
@[simp] theorem State.setQueue_blocked (s : State) (i : Fin 16) (q : SluiceQueue) : (s.setQueue i q).blocked = s.blocked := rfl
@[simp] theorem State.setQueue_routed (s : State) (i : Fin 16) (q : SluiceQueue) : (s.setQueue i q).routed = s.routed := rfl
@[simp] theorem State.setQueue_free (s : State) (i : Fin 16) (q : SluiceQueue) : (s.setQueue i q).free = s.free := rfl
@[simp] theorem State.setQueue_agenda (s : State) (i : Fin 16) (q : SluiceQueue) : (s.setQueue i q).agenda = s.agenda := rfl
@[simp] theorem State.setQueue_clock (s : State) (i : Fin 16) (q : SluiceQueue) : (s.setQueue i q).clock = s.clock := rfl
@[simp] theorem State.setQueue_control (s : State) (i : Fin 16) (q : SluiceQueue) : (s.setQueue i q).control = { s.control with queues := s.control.queues.set i q } := rfl
@[simp] theorem State.setQueue_tags (s : State) (i : Fin 16) (q : SluiceQueue) : (s.setQueue i q).tags = s.tags := rfl
@[simp] theorem State.setQueue_mem (s : State) (i : Fin 16) (q : SluiceQueue) : (s.setQueue i q).mem = s.mem := rfl
@[simp] theorem State.setQueue_pages (s : State) (i : Fin 16) (q : SluiceQueue) : (s.setQueue i q).pages = s.pages := rfl
@[simp] theorem State.setQueue_tiers (s : State) (i : Fin 16) (q : SluiceQueue) : (s.setQueue i q).tiers = s.tiers := rfl
@[simp] theorem State.setQueue_sites (s : State) (i : Fin 16) (q : SluiceQueue) : (s.setQueue i q).sites = s.sites := rfl
@[simp] theorem State.setQueue_fabric (s : State) (i : Fin 16) (q : SluiceQueue) : (s.setQueue i q).fabric = s.fabric := rfl
@[simp] theorem State.setQueue_order (s : State) (i : Fin 16) (q : SluiceQueue) : (s.setQueue i q).order = s.order := rfl
@[simp] theorem State.setQueue_mgmt (s : State) (i : Fin 16) (q : SluiceQueue) : (s.setQueue i q).mgmt = s.mgmt := rfl

@[simp] theorem State.interrupt_cores (s : State) (v : Nat) : (s.interrupt v).cores = s.cores := rfl
@[simp] theorem State.interrupt_focus (s : State) (v : Nat) : (s.interrupt v).focus = s.focus := rfl
@[simp] theorem State.interrupt_held (s : State) (v : Nat) : (s.interrupt v).held = s.held := rfl
@[simp] theorem State.interrupt_blocked (s : State) (v : Nat) : (s.interrupt v).blocked = s.blocked := rfl
@[simp] theorem State.interrupt_routed (s : State) (v : Nat) : (s.interrupt v).routed = s.routed := rfl
@[simp] theorem State.interrupt_free (s : State) (v : Nat) : (s.interrupt v).free = s.free := rfl
@[simp] theorem State.interrupt_agenda (s : State) (v : Nat) : (s.interrupt v).agenda = s.agenda := rfl
@[simp] theorem State.interrupt_clock (s : State) (v : Nat) : (s.interrupt v).clock = s.clock := rfl
@[simp] theorem State.interrupt_control (s : State) (v : Nat) : (s.interrupt v).control = s.control := rfl
@[simp] theorem State.interrupt_tags (s : State) (v : Nat) : (s.interrupt v).tags = s.tags := rfl
@[simp] theorem State.interrupt_mem (s : State) (v : Nat) : (s.interrupt v).mem = s.mem := rfl
@[simp] theorem State.interrupt_pages (s : State) (v : Nat) : (s.interrupt v).pages = s.pages := rfl
@[simp] theorem State.interrupt_tiers (s : State) (v : Nat) : (s.interrupt v).tiers = s.tiers := rfl
@[simp] theorem State.interrupt_sites (s : State) (v : Nat) : (s.interrupt v).sites = s.sites := rfl
@[simp] theorem State.interrupt_fabric (s : State) (v : Nat) : (s.interrupt v).fabric = s.fabric := rfl
@[simp] theorem State.interrupt_order (s : State) (v : Nat) : (s.interrupt v).order = s.order := rfl
@[simp] theorem State.interrupt_mgmt (s : State) (v : Nat) : (s.interrupt v).mgmt = { s.mgmt with interrupts := s.mgmt.interrupts ++ [v] } := rfl

@[simp] theorem State.record_cores (s : State) (r : ErrRecord) : (s.record r).cores = s.cores := rfl
@[simp] theorem State.record_focus (s : State) (r : ErrRecord) : (s.record r).focus = s.focus := rfl
@[simp] theorem State.record_held (s : State) (r : ErrRecord) : (s.record r).held = s.held := rfl
@[simp] theorem State.record_blocked (s : State) (r : ErrRecord) : (s.record r).blocked = s.blocked := rfl
@[simp] theorem State.record_routed (s : State) (r : ErrRecord) : (s.record r).routed = s.routed := rfl
@[simp] theorem State.record_free (s : State) (r : ErrRecord) : (s.record r).free = s.free := rfl
@[simp] theorem State.record_agenda (s : State) (r : ErrRecord) : (s.record r).agenda = agendaAdd s.agenda ⟨s.clock.cycle, s.focus, .errorRecord⟩ := rfl
@[simp] theorem State.record_clock (s : State) (r : ErrRecord) : (s.record r).clock = s.clock := rfl
@[simp] theorem State.record_control (s : State) (r : ErrRecord) : (s.record r).control = s.control := rfl
@[simp] theorem State.record_tags (s : State) (r : ErrRecord) : (s.record r).tags = s.tags := rfl
@[simp] theorem State.record_mem (s : State) (r : ErrRecord) : (s.record r).mem = s.mem := rfl
@[simp] theorem State.record_pages (s : State) (r : ErrRecord) : (s.record r).pages = s.pages := rfl
@[simp] theorem State.record_tiers (s : State) (r : ErrRecord) : (s.record r).tiers = s.tiers := rfl
@[simp] theorem State.record_sites (s : State) (r : ErrRecord) : (s.record r).sites = s.sites := rfl
@[simp] theorem State.record_fabric (s : State) (r : ErrRecord) : (s.record r).fabric = s.fabric := rfl
@[simp] theorem State.record_order (s : State) (r : ErrRecord) : (s.record r).order = s.order := rfl
@[simp] theorem State.record_mgmt (s : State) (r : ErrRecord) : (s.record r).mgmt = { s.mgmt with internalLog := dropForRoom s.mgmt.internalLog ++ [r] } := rfl

/-- The core that acts is the one that was put there. -/
@[simp] theorem State.withCore_core (s : State) (c : Core) : (s.withCore c).core = c := by
  unfold State.core State.withCore
  exact Vector.getElem_set_self ..

/-- The other cores stay. -/
theorem State.withCore_other (s : State) (c : Core) (i : Fin 96) (h : i ≠ s.cur) : (s.withCore c).cores[i] = s.cores[i] := by
  have : (s.focus.core : Nat) ≠ (i : Nat) := fun e => h (Fin.ext e.symm)
  simp [Vector.getElem_set_ne, this]

@[simp] theorem State.withCore_cur (s : State) (c : Core) : (s.withCore c).cur = s.cur := rfl
@[simp] theorem State.withCore_now (s : State) (c : Core) : (s.withCore c).now = s.now := rfl

/-! ### A core -/

@[simp] theorem Core.setBank_status (c : Core) (b : Bank) : (c.setBank b).status = c.status := by unfold Core.setBank; split <;> rfl
@[simp] theorem Core.setBank_item (c : Core) (b : Bank) : (c.setBank b).item = c.item := by unfold Core.setBank; split <;> rfl
@[simp] theorem Core.setBank_image (c : Core) (b : Bank) : (c.setBank b).image = c.image := by unfold Core.setBank; split <;> rfl
@[simp] theorem Core.setBank_resident (c : Core) (b : Bank) : (c.setBank b).resident = c.resident := by unfold Core.setBank; split <;> rfl
@[simp] theorem Core.setBank_lastOwner (c : Core) (b : Bank) : (c.setBank b).lastOwner = c.lastOwner := by unfold Core.setBank; split <;> rfl
@[simp] theorem Core.setBank_lstat (c : Core) (b : Bank) : (c.setBank b).lstat = c.lstat := by unfold Core.setBank; split <;> rfl
@[simp] theorem Core.setBank_pc (c : Core) (b : Bank) : (c.setBank b).pc = c.pc := by unfold Core.setBank; split <;> rfl
@[simp] theorem Core.setBank_sregs (c : Core) (b : Bank) : (c.setBank b).sregs = c.sregs := by unfold Core.setBank; split <;> rfl
@[simp] theorem Core.setBank_aregs (c : Core) (b : Bank) : (c.setBank b).aregs = c.aregs := by unfold Core.setBank; split <;> rfl
@[simp] theorem Core.setBank_level0 (c : Core) (b : Bank) : (c.setBank b).level0 = c.level0 := by unfold Core.setBank; split <;> rfl
@[simp] theorem Core.setBank_level1 (c : Core) (b : Bank) : (c.setBank b).level1 = c.level1 := by unfold Core.setBank; split <;> rfl
@[simp] theorem Core.setBank_tl (c : Core) (b : Bank) : (c.setBank b).tl = c.tl := by unfold Core.setBank; split <;> rfl
@[simp] theorem Core.setBank_chk (c : Core) (b : Bank) : (c.setBank b).chk = c.chk := by unfold Core.setBank; split <;> rfl
@[simp] theorem Core.setBank_clause (c : Core) (b : Bank) : (c.setBank b).clause = c.clause := by unfold Core.setBank; split <;> rfl
@[simp] theorem Core.setBank_trapRegs (c : Core) (b : Bank) : (c.setBank b).trapRegs = c.trapRegs := by unfold Core.setBank; split <;> rfl
@[simp] theorem Core.setBank_factor (c : Core) (b : Bank) : (c.setBank b).factor = c.factor := by unfold Core.setBank; split <;> rfl
@[simp] theorem Core.setBank_sys (c : Core) (b : Bank) : (c.setBank b).sys = c.sys := by unfold Core.setBank; split <;> rfl
@[simp] theorem Core.setBank_seq (c : Core) (b : Bank) : (c.setBank b).seq = c.seq := by unfold Core.setBank; split <;> rfl
@[simp] theorem Core.setBank_queues (c : Core) (b : Bank) : (c.setBank b).queues = c.queues := by unfold Core.setBank; split <;> rfl
@[simp] theorem Core.setBank_ports (c : Core) (b : Bank) : (c.setBank b).ports = c.ports := by unfold Core.setBank; split <;> rfl
@[simp] theorem Core.setBank_bufs (c : Core) (b : Bank) : (c.setBank b).bufs = c.bufs := by unfold Core.setBank; split <;> rfl
@[simp] theorem Core.setBank_bindings (c : Core) (b : Bank) : (c.setBank b).bindings = c.bindings := by unfold Core.setBank; split <;> rfl
@[simp] theorem Core.setBank_arrays (c : Core) (b : Bank) : (c.setBank b).arrays = c.arrays := by unfold Core.setBank; split <;> rfl
@[simp] theorem Core.setBank_caches (c : Core) (b : Bank) : (c.setBank b).caches = c.caches := by unfold Core.setBank; split <;> rfl
@[simp] theorem Core.setBank_units (c : Core) (b : Bank) : (c.setBank b).units = c.units := by unfold Core.setBank; split <;> rfl
@[simp] theorem Core.setBank_faults (c : Core) (b : Bank) : (c.setBank b).faults = c.faults := by unfold Core.setBank; split <;> rfl
@[simp] theorem Core.setBank_channels (c : Core) (b : Bank) : (c.setBank b).channels = c.channels := by unfold Core.setBank; split <;> rfl
@[simp] theorem Core.setBank_rows (c : Core) (b : Bank) : (c.setBank b).rows = c.rows := by unfold Core.setBank; split <;> rfl
@[simp] theorem Core.setBank_rowFifo (c : Core) (b : Bank) : (c.setBank b).rowFifo = c.rowFifo := by unfold Core.setBank; split <;> rfl
@[simp] theorem Core.setBank_phase (c : Core) (b : Bank) : (c.setBank b).phase = c.phase := by unfold Core.setBank; split <;> rfl
@[simp] theorem Core.setBank_cancels (c : Core) (b : Bank) : (c.setBank b).cancels = c.cancels := by unfold Core.setBank; split <;> rfl
@[simp] theorem Core.setBank_fills (c : Core) (b : Bank) : (c.setBank b).fills = c.fills := by unfold Core.setBank; split <;> rfl
@[simp] theorem Core.setBank_refetch (c : Core) (b : Bank) : (c.setBank b).refetch = c.refetch := by unfold Core.setBank; split <;> rfl
@[simp] theorem Core.setBank_overwritten (c : Core) (b : Bank) : (c.setBank b).overwritten = c.overwritten := by unfold Core.setBank; split <;> rfl
@[simp] theorem Core.setBank_damage (c : Core) (b : Bank) : (c.setBank b).damage = c.damage := by unfold Core.setBank; split <;> rfl
@[simp] theorem Core.setBank_prq (c : Core) (b : Bank) : (c.setBank b).prq = c.prq := by unfold Core.setBank; split <;> rfl
@[simp] theorem Core.setBank_irq (c : Core) (b : Bank) : (c.setBank b).irq = c.irq := by unfold Core.setBank; split <;> rfl
@[simp] theorem Core.setBank_prqSince (c : Core) (b : Bank) : (c.setBank b).prqSince = c.prqSince := by unfold Core.setBank; split <;> rfl
@[simp] theorem Core.setBank_mailbox (c : Core) (b : Bank) : (c.setBank b).mailbox = c.mailbox := by unfold Core.setBank; split <;> rfl
@[simp] theorem Core.setBank_bank (c : Core) (b : Bank) : (c.setBank b).bank = b := by unfold Core.setBank Core.bank; cases c.tl <;> simp [*]
@[simp] theorem Core.setBank_level (c : Core) (b : Bank) : (c.setBank b).level = c.level := by simp [Core.level]

@[simp] theorem Core.setLevel_status (c : Core) (l : SeqLevel) : (c.setLevel l).status = c.status := by unfold Core.setLevel; split <;> rfl
@[simp] theorem Core.setLevel_item (c : Core) (l : SeqLevel) : (c.setLevel l).item = c.item := by unfold Core.setLevel; split <;> rfl
@[simp] theorem Core.setLevel_image (c : Core) (l : SeqLevel) : (c.setLevel l).image = c.image := by unfold Core.setLevel; split <;> rfl
@[simp] theorem Core.setLevel_resident (c : Core) (l : SeqLevel) : (c.setLevel l).resident = c.resident := by unfold Core.setLevel; split <;> rfl
@[simp] theorem Core.setLevel_lastOwner (c : Core) (l : SeqLevel) : (c.setLevel l).lastOwner = c.lastOwner := by unfold Core.setLevel; split <;> rfl
@[simp] theorem Core.setLevel_lstat (c : Core) (l : SeqLevel) : (c.setLevel l).lstat = c.lstat := by unfold Core.setLevel; split <;> rfl
@[simp] theorem Core.setLevel_pc (c : Core) (l : SeqLevel) : (c.setLevel l).pc = c.pc := by unfold Core.setLevel; split <;> rfl
@[simp] theorem Core.setLevel_sregs (c : Core) (l : SeqLevel) : (c.setLevel l).sregs = c.sregs := by unfold Core.setLevel; split <;> rfl
@[simp] theorem Core.setLevel_aregs (c : Core) (l : SeqLevel) : (c.setLevel l).aregs = c.aregs := by unfold Core.setLevel; split <;> rfl
@[simp] theorem Core.setLevel_bank0 (c : Core) (l : SeqLevel) : (c.setLevel l).bank0 = c.bank0 := by unfold Core.setLevel; split <;> rfl
@[simp] theorem Core.setLevel_bank1 (c : Core) (l : SeqLevel) : (c.setLevel l).bank1 = c.bank1 := by unfold Core.setLevel; split <;> rfl
@[simp] theorem Core.setLevel_tl (c : Core) (l : SeqLevel) : (c.setLevel l).tl = c.tl := by unfold Core.setLevel; split <;> rfl
@[simp] theorem Core.setLevel_chk (c : Core) (l : SeqLevel) : (c.setLevel l).chk = c.chk := by unfold Core.setLevel; split <;> rfl
@[simp] theorem Core.setLevel_clause (c : Core) (l : SeqLevel) : (c.setLevel l).clause = c.clause := by unfold Core.setLevel; split <;> rfl
@[simp] theorem Core.setLevel_trapRegs (c : Core) (l : SeqLevel) : (c.setLevel l).trapRegs = c.trapRegs := by unfold Core.setLevel; split <;> rfl
@[simp] theorem Core.setLevel_factor (c : Core) (l : SeqLevel) : (c.setLevel l).factor = c.factor := by unfold Core.setLevel; split <;> rfl
@[simp] theorem Core.setLevel_sys (c : Core) (l : SeqLevel) : (c.setLevel l).sys = c.sys := by unfold Core.setLevel; split <;> rfl
@[simp] theorem Core.setLevel_seq (c : Core) (l : SeqLevel) : (c.setLevel l).seq = c.seq := by unfold Core.setLevel; split <;> rfl
@[simp] theorem Core.setLevel_queues (c : Core) (l : SeqLevel) : (c.setLevel l).queues = c.queues := by unfold Core.setLevel; split <;> rfl
@[simp] theorem Core.setLevel_ports (c : Core) (l : SeqLevel) : (c.setLevel l).ports = c.ports := by unfold Core.setLevel; split <;> rfl
@[simp] theorem Core.setLevel_bufs (c : Core) (l : SeqLevel) : (c.setLevel l).bufs = c.bufs := by unfold Core.setLevel; split <;> rfl
@[simp] theorem Core.setLevel_bindings (c : Core) (l : SeqLevel) : (c.setLevel l).bindings = c.bindings := by unfold Core.setLevel; split <;> rfl
@[simp] theorem Core.setLevel_arrays (c : Core) (l : SeqLevel) : (c.setLevel l).arrays = c.arrays := by unfold Core.setLevel; split <;> rfl
@[simp] theorem Core.setLevel_caches (c : Core) (l : SeqLevel) : (c.setLevel l).caches = c.caches := by unfold Core.setLevel; split <;> rfl
@[simp] theorem Core.setLevel_units (c : Core) (l : SeqLevel) : (c.setLevel l).units = c.units := by unfold Core.setLevel; split <;> rfl
@[simp] theorem Core.setLevel_faults (c : Core) (l : SeqLevel) : (c.setLevel l).faults = c.faults := by unfold Core.setLevel; split <;> rfl
@[simp] theorem Core.setLevel_channels (c : Core) (l : SeqLevel) : (c.setLevel l).channels = c.channels := by unfold Core.setLevel; split <;> rfl
@[simp] theorem Core.setLevel_rows (c : Core) (l : SeqLevel) : (c.setLevel l).rows = c.rows := by unfold Core.setLevel; split <;> rfl
@[simp] theorem Core.setLevel_rowFifo (c : Core) (l : SeqLevel) : (c.setLevel l).rowFifo = c.rowFifo := by unfold Core.setLevel; split <;> rfl
@[simp] theorem Core.setLevel_phase (c : Core) (l : SeqLevel) : (c.setLevel l).phase = c.phase := by unfold Core.setLevel; split <;> rfl
@[simp] theorem Core.setLevel_cancels (c : Core) (l : SeqLevel) : (c.setLevel l).cancels = c.cancels := by unfold Core.setLevel; split <;> rfl
@[simp] theorem Core.setLevel_fills (c : Core) (l : SeqLevel) : (c.setLevel l).fills = c.fills := by unfold Core.setLevel; split <;> rfl
@[simp] theorem Core.setLevel_refetch (c : Core) (l : SeqLevel) : (c.setLevel l).refetch = c.refetch := by unfold Core.setLevel; split <;> rfl
@[simp] theorem Core.setLevel_overwritten (c : Core) (l : SeqLevel) : (c.setLevel l).overwritten = c.overwritten := by unfold Core.setLevel; split <;> rfl
@[simp] theorem Core.setLevel_damage (c : Core) (l : SeqLevel) : (c.setLevel l).damage = c.damage := by unfold Core.setLevel; split <;> rfl
@[simp] theorem Core.setLevel_prq (c : Core) (l : SeqLevel) : (c.setLevel l).prq = c.prq := by unfold Core.setLevel; split <;> rfl
@[simp] theorem Core.setLevel_irq (c : Core) (l : SeqLevel) : (c.setLevel l).irq = c.irq := by unfold Core.setLevel; split <;> rfl
@[simp] theorem Core.setLevel_prqSince (c : Core) (l : SeqLevel) : (c.setLevel l).prqSince = c.prqSince := by unfold Core.setLevel; split <;> rfl
@[simp] theorem Core.setLevel_mailbox (c : Core) (l : SeqLevel) : (c.setLevel l).mailbox = c.mailbox := by unfold Core.setLevel; split <;> rfl
@[simp] theorem Core.setLevel_level (c : Core) (l : SeqLevel) : (c.setLevel l).level = l := by unfold Core.setLevel Core.level; cases c.tl <;> simp [*]
@[simp] theorem Core.setLevel_bank (c : Core) (l : SeqLevel) : (c.setLevel l).bank = c.bank := by simp [Core.bank]

@[simp] theorem Core.pushResult_status (c : Core) (v : Word) : (c.pushResult v).status = c.status := by simp [Core.pushResult]
@[simp] theorem Core.pushResult_item (c : Core) (v : Word) : (c.pushResult v).item = c.item := by simp [Core.pushResult]
@[simp] theorem Core.pushResult_image (c : Core) (v : Word) : (c.pushResult v).image = c.image := by simp [Core.pushResult]
@[simp] theorem Core.pushResult_resident (c : Core) (v : Word) : (c.pushResult v).resident = c.resident := by simp [Core.pushResult]
@[simp] theorem Core.pushResult_lastOwner (c : Core) (v : Word) : (c.pushResult v).lastOwner = c.lastOwner := by simp [Core.pushResult]
@[simp] theorem Core.pushResult_lstat (c : Core) (v : Word) : (c.pushResult v).lstat = c.lstat := by simp [Core.pushResult]
@[simp] theorem Core.pushResult_pc (c : Core) (v : Word) : (c.pushResult v).pc = c.pc := by simp [Core.pushResult]
@[simp] theorem Core.pushResult_sregs (c : Core) (v : Word) : (c.pushResult v).sregs = c.sregs := by simp [Core.pushResult]
@[simp] theorem Core.pushResult_aregs (c : Core) (v : Word) : (c.pushResult v).aregs = c.aregs := by simp [Core.pushResult]
@[simp] theorem Core.pushResult_level0 (c : Core) (v : Word) : (c.pushResult v).level0 = c.level0 := by simp [Core.pushResult]
@[simp] theorem Core.pushResult_level1 (c : Core) (v : Word) : (c.pushResult v).level1 = c.level1 := by simp [Core.pushResult]
@[simp] theorem Core.pushResult_tl (c : Core) (v : Word) : (c.pushResult v).tl = c.tl := by simp [Core.pushResult]
@[simp] theorem Core.pushResult_chk (c : Core) (v : Word) : (c.pushResult v).chk = c.chk := by simp [Core.pushResult]
@[simp] theorem Core.pushResult_clause (c : Core) (v : Word) : (c.pushResult v).clause = c.clause := by simp [Core.pushResult]
@[simp] theorem Core.pushResult_trapRegs (c : Core) (v : Word) : (c.pushResult v).trapRegs = c.trapRegs := by simp [Core.pushResult]
@[simp] theorem Core.pushResult_factor (c : Core) (v : Word) : (c.pushResult v).factor = c.factor := by simp [Core.pushResult]
@[simp] theorem Core.pushResult_sys (c : Core) (v : Word) : (c.pushResult v).sys = c.sys := by simp [Core.pushResult]
@[simp] theorem Core.pushResult_seq (c : Core) (v : Word) : (c.pushResult v).seq = c.seq := by simp [Core.pushResult]
@[simp] theorem Core.pushResult_queues (c : Core) (v : Word) : (c.pushResult v).queues = c.queues := by simp [Core.pushResult]
@[simp] theorem Core.pushResult_ports (c : Core) (v : Word) : (c.pushResult v).ports = c.ports := by simp [Core.pushResult]
@[simp] theorem Core.pushResult_bufs (c : Core) (v : Word) : (c.pushResult v).bufs = c.bufs := by simp [Core.pushResult]
@[simp] theorem Core.pushResult_bindings (c : Core) (v : Word) : (c.pushResult v).bindings = c.bindings := by simp [Core.pushResult]
@[simp] theorem Core.pushResult_arrays (c : Core) (v : Word) : (c.pushResult v).arrays = c.arrays := by simp [Core.pushResult]
@[simp] theorem Core.pushResult_caches (c : Core) (v : Word) : (c.pushResult v).caches = c.caches := by simp [Core.pushResult]
@[simp] theorem Core.pushResult_units (c : Core) (v : Word) : (c.pushResult v).units = c.units := by simp [Core.pushResult]
@[simp] theorem Core.pushResult_faults (c : Core) (v : Word) : (c.pushResult v).faults = c.faults := by simp [Core.pushResult]
@[simp] theorem Core.pushResult_channels (c : Core) (v : Word) : (c.pushResult v).channels = c.channels := by simp [Core.pushResult]
@[simp] theorem Core.pushResult_rows (c : Core) (v : Word) : (c.pushResult v).rows = c.rows := by simp [Core.pushResult]
@[simp] theorem Core.pushResult_rowFifo (c : Core) (v : Word) : (c.pushResult v).rowFifo = c.rowFifo := by simp [Core.pushResult]
@[simp] theorem Core.pushResult_phase (c : Core) (v : Word) : (c.pushResult v).phase = c.phase := by simp [Core.pushResult]
@[simp] theorem Core.pushResult_cancels (c : Core) (v : Word) : (c.pushResult v).cancels = c.cancels := by simp [Core.pushResult]
@[simp] theorem Core.pushResult_fills (c : Core) (v : Word) : (c.pushResult v).fills = c.fills := by simp [Core.pushResult]
@[simp] theorem Core.pushResult_refetch (c : Core) (v : Word) : (c.pushResult v).refetch = c.refetch := by simp [Core.pushResult]
@[simp] theorem Core.pushResult_overwritten (c : Core) (v : Word) : (c.pushResult v).overwritten = c.overwritten := by simp [Core.pushResult]
@[simp] theorem Core.pushResult_damage (c : Core) (v : Word) : (c.pushResult v).damage = c.damage := by simp [Core.pushResult]
@[simp] theorem Core.pushResult_prq (c : Core) (v : Word) : (c.pushResult v).prq = c.prq := by simp [Core.pushResult]
@[simp] theorem Core.pushResult_irq (c : Core) (v : Word) : (c.pushResult v).irq = c.irq := by simp [Core.pushResult]
@[simp] theorem Core.pushResult_prqSince (c : Core) (v : Word) : (c.pushResult v).prqSince = c.prqSince := by simp [Core.pushResult]
@[simp] theorem Core.pushResult_mailbox (c : Core) (v : Word) : (c.pushResult v).mailbox = c.mailbox := by simp [Core.pushResult]
@[simp] theorem Core.pushResult_bank (c : Core) (v : Word) :
    (c.pushResult v).bank = { c.bank with resq := pushQueue c.bank.resq v } := by simp [Core.pushResult]
@[simp] theorem Core.pushResult_level (c : Core) (v : Word) : (c.pushResult v).level = c.level := by simp [Core.level]

@[simp] theorem Core.setSreg_status (c : Core) (d : OpCode) (v : Word) : (c.setSreg d v).status = c.status := by unfold Core.setSreg; split <;> rfl
@[simp] theorem Core.setSreg_item (c : Core) (d : OpCode) (v : Word) : (c.setSreg d v).item = c.item := by unfold Core.setSreg; split <;> rfl
@[simp] theorem Core.setSreg_image (c : Core) (d : OpCode) (v : Word) : (c.setSreg d v).image = c.image := by unfold Core.setSreg; split <;> rfl
@[simp] theorem Core.setSreg_resident (c : Core) (d : OpCode) (v : Word) : (c.setSreg d v).resident = c.resident := by unfold Core.setSreg; split <;> rfl
@[simp] theorem Core.setSreg_lastOwner (c : Core) (d : OpCode) (v : Word) : (c.setSreg d v).lastOwner = c.lastOwner := by unfold Core.setSreg; split <;> rfl
@[simp] theorem Core.setSreg_lstat (c : Core) (d : OpCode) (v : Word) : (c.setSreg d v).lstat = c.lstat := by unfold Core.setSreg; split <;> rfl
@[simp] theorem Core.setSreg_pc (c : Core) (d : OpCode) (v : Word) : (c.setSreg d v).pc = c.pc := by unfold Core.setSreg; split <;> rfl
@[simp] theorem Core.setSreg_aregs (c : Core) (d : OpCode) (v : Word) : (c.setSreg d v).aregs = c.aregs := by unfold Core.setSreg; split <;> rfl
@[simp] theorem Core.setSreg_bank0 (c : Core) (d : OpCode) (v : Word) : (c.setSreg d v).bank0 = c.bank0 := by unfold Core.setSreg; split <;> rfl
@[simp] theorem Core.setSreg_bank1 (c : Core) (d : OpCode) (v : Word) : (c.setSreg d v).bank1 = c.bank1 := by unfold Core.setSreg; split <;> rfl
@[simp] theorem Core.setSreg_level0 (c : Core) (d : OpCode) (v : Word) : (c.setSreg d v).level0 = c.level0 := by unfold Core.setSreg; split <;> rfl
@[simp] theorem Core.setSreg_level1 (c : Core) (d : OpCode) (v : Word) : (c.setSreg d v).level1 = c.level1 := by unfold Core.setSreg; split <;> rfl
@[simp] theorem Core.setSreg_tl (c : Core) (d : OpCode) (v : Word) : (c.setSreg d v).tl = c.tl := by unfold Core.setSreg; split <;> rfl
@[simp] theorem Core.setSreg_chk (c : Core) (d : OpCode) (v : Word) : (c.setSreg d v).chk = c.chk := by unfold Core.setSreg; split <;> rfl
@[simp] theorem Core.setSreg_clause (c : Core) (d : OpCode) (v : Word) : (c.setSreg d v).clause = c.clause := by unfold Core.setSreg; split <;> rfl
@[simp] theorem Core.setSreg_trapRegs (c : Core) (d : OpCode) (v : Word) : (c.setSreg d v).trapRegs = c.trapRegs := by unfold Core.setSreg; split <;> rfl
@[simp] theorem Core.setSreg_factor (c : Core) (d : OpCode) (v : Word) : (c.setSreg d v).factor = c.factor := by unfold Core.setSreg; split <;> rfl
@[simp] theorem Core.setSreg_sys (c : Core) (d : OpCode) (v : Word) : (c.setSreg d v).sys = c.sys := by unfold Core.setSreg; split <;> rfl
@[simp] theorem Core.setSreg_seq (c : Core) (d : OpCode) (v : Word) : (c.setSreg d v).seq = c.seq := by unfold Core.setSreg; split <;> rfl
@[simp] theorem Core.setSreg_queues (c : Core) (d : OpCode) (v : Word) : (c.setSreg d v).queues = c.queues := by unfold Core.setSreg; split <;> rfl
@[simp] theorem Core.setSreg_ports (c : Core) (d : OpCode) (v : Word) : (c.setSreg d v).ports = c.ports := by unfold Core.setSreg; split <;> rfl
@[simp] theorem Core.setSreg_bufs (c : Core) (d : OpCode) (v : Word) : (c.setSreg d v).bufs = c.bufs := by unfold Core.setSreg; split <;> rfl
@[simp] theorem Core.setSreg_bindings (c : Core) (d : OpCode) (v : Word) : (c.setSreg d v).bindings = c.bindings := by unfold Core.setSreg; split <;> rfl
@[simp] theorem Core.setSreg_arrays (c : Core) (d : OpCode) (v : Word) : (c.setSreg d v).arrays = c.arrays := by unfold Core.setSreg; split <;> rfl
@[simp] theorem Core.setSreg_caches (c : Core) (d : OpCode) (v : Word) : (c.setSreg d v).caches = c.caches := by unfold Core.setSreg; split <;> rfl
@[simp] theorem Core.setSreg_units (c : Core) (d : OpCode) (v : Word) : (c.setSreg d v).units = c.units := by unfold Core.setSreg; split <;> rfl
@[simp] theorem Core.setSreg_faults (c : Core) (d : OpCode) (v : Word) : (c.setSreg d v).faults = c.faults := by unfold Core.setSreg; split <;> rfl
@[simp] theorem Core.setSreg_channels (c : Core) (d : OpCode) (v : Word) : (c.setSreg d v).channels = c.channels := by unfold Core.setSreg; split <;> rfl
@[simp] theorem Core.setSreg_rows (c : Core) (d : OpCode) (v : Word) : (c.setSreg d v).rows = c.rows := by unfold Core.setSreg; split <;> rfl
@[simp] theorem Core.setSreg_rowFifo (c : Core) (d : OpCode) (v : Word) : (c.setSreg d v).rowFifo = c.rowFifo := by unfold Core.setSreg; split <;> rfl
@[simp] theorem Core.setSreg_phase (c : Core) (d : OpCode) (v : Word) : (c.setSreg d v).phase = c.phase := by unfold Core.setSreg; split <;> rfl
@[simp] theorem Core.setSreg_cancels (c : Core) (d : OpCode) (v : Word) : (c.setSreg d v).cancels = c.cancels := by unfold Core.setSreg; split <;> rfl
@[simp] theorem Core.setSreg_fills (c : Core) (d : OpCode) (v : Word) : (c.setSreg d v).fills = c.fills := by unfold Core.setSreg; split <;> rfl
@[simp] theorem Core.setSreg_refetch (c : Core) (d : OpCode) (v : Word) : (c.setSreg d v).refetch = c.refetch := by unfold Core.setSreg; split <;> rfl
@[simp] theorem Core.setSreg_overwritten (c : Core) (d : OpCode) (v : Word) : (c.setSreg d v).overwritten = c.overwritten := by unfold Core.setSreg; split <;> rfl
@[simp] theorem Core.setSreg_damage (c : Core) (d : OpCode) (v : Word) : (c.setSreg d v).damage = c.damage := by unfold Core.setSreg; split <;> rfl
@[simp] theorem Core.setSreg_prq (c : Core) (d : OpCode) (v : Word) : (c.setSreg d v).prq = c.prq := by unfold Core.setSreg; split <;> rfl
@[simp] theorem Core.setSreg_irq (c : Core) (d : OpCode) (v : Word) : (c.setSreg d v).irq = c.irq := by unfold Core.setSreg; split <;> rfl
@[simp] theorem Core.setSreg_prqSince (c : Core) (d : OpCode) (v : Word) : (c.setSreg d v).prqSince = c.prqSince := by unfold Core.setSreg; split <;> rfl
@[simp] theorem Core.setSreg_mailbox (c : Core) (d : OpCode) (v : Word) : (c.setSreg d v).mailbox = c.mailbox := by unfold Core.setSreg; split <;> rfl
@[simp] theorem Core.setSreg_bank (c : Core) (d : OpCode) (v : Word) : (c.setSreg d v).bank = c.bank := by simp [Core.bank]
@[simp] theorem Core.setSreg_level (c : Core) (d : OpCode) (v : Word) : (c.setSreg d v).level = c.level := by simp [Core.level]

@[simp] theorem Core.writeResult_status (c : Core) (d : OpCode) (v : Word) : (c.writeResult d v).status = c.status := by simp [Core.writeResult]
@[simp] theorem Core.writeResult_item (c : Core) (d : OpCode) (v : Word) : (c.writeResult d v).item = c.item := by simp [Core.writeResult]
@[simp] theorem Core.writeResult_image (c : Core) (d : OpCode) (v : Word) : (c.writeResult d v).image = c.image := by simp [Core.writeResult]
@[simp] theorem Core.writeResult_resident (c : Core) (d : OpCode) (v : Word) : (c.writeResult d v).resident = c.resident := by simp [Core.writeResult]
@[simp] theorem Core.writeResult_lastOwner (c : Core) (d : OpCode) (v : Word) : (c.writeResult d v).lastOwner = c.lastOwner := by simp [Core.writeResult]
@[simp] theorem Core.writeResult_lstat (c : Core) (d : OpCode) (v : Word) : (c.writeResult d v).lstat = c.lstat := by simp [Core.writeResult]
@[simp] theorem Core.writeResult_pc (c : Core) (d : OpCode) (v : Word) : (c.writeResult d v).pc = c.pc := by simp [Core.writeResult]
@[simp] theorem Core.writeResult_aregs (c : Core) (d : OpCode) (v : Word) : (c.writeResult d v).aregs = c.aregs := by simp [Core.writeResult]
@[simp] theorem Core.writeResult_level0 (c : Core) (d : OpCode) (v : Word) : (c.writeResult d v).level0 = c.level0 := by simp [Core.writeResult]
@[simp] theorem Core.writeResult_level1 (c : Core) (d : OpCode) (v : Word) : (c.writeResult d v).level1 = c.level1 := by simp [Core.writeResult]
@[simp] theorem Core.writeResult_tl (c : Core) (d : OpCode) (v : Word) : (c.writeResult d v).tl = c.tl := by simp [Core.writeResult]
@[simp] theorem Core.writeResult_chk (c : Core) (d : OpCode) (v : Word) : (c.writeResult d v).chk = c.chk := by simp [Core.writeResult]
@[simp] theorem Core.writeResult_clause (c : Core) (d : OpCode) (v : Word) : (c.writeResult d v).clause = c.clause := by simp [Core.writeResult]
@[simp] theorem Core.writeResult_trapRegs (c : Core) (d : OpCode) (v : Word) : (c.writeResult d v).trapRegs = c.trapRegs := by simp [Core.writeResult]
@[simp] theorem Core.writeResult_factor (c : Core) (d : OpCode) (v : Word) : (c.writeResult d v).factor = c.factor := by simp [Core.writeResult]
@[simp] theorem Core.writeResult_sys (c : Core) (d : OpCode) (v : Word) : (c.writeResult d v).sys = c.sys := by simp [Core.writeResult]
@[simp] theorem Core.writeResult_seq (c : Core) (d : OpCode) (v : Word) : (c.writeResult d v).seq = c.seq := by simp [Core.writeResult]
@[simp] theorem Core.writeResult_queues (c : Core) (d : OpCode) (v : Word) : (c.writeResult d v).queues = c.queues := by simp [Core.writeResult]
@[simp] theorem Core.writeResult_ports (c : Core) (d : OpCode) (v : Word) : (c.writeResult d v).ports = c.ports := by simp [Core.writeResult]
@[simp] theorem Core.writeResult_bufs (c : Core) (d : OpCode) (v : Word) : (c.writeResult d v).bufs = c.bufs := by simp [Core.writeResult]
@[simp] theorem Core.writeResult_bindings (c : Core) (d : OpCode) (v : Word) : (c.writeResult d v).bindings = c.bindings := by simp [Core.writeResult]
@[simp] theorem Core.writeResult_arrays (c : Core) (d : OpCode) (v : Word) : (c.writeResult d v).arrays = c.arrays := by simp [Core.writeResult]
@[simp] theorem Core.writeResult_caches (c : Core) (d : OpCode) (v : Word) : (c.writeResult d v).caches = c.caches := by simp [Core.writeResult]
@[simp] theorem Core.writeResult_units (c : Core) (d : OpCode) (v : Word) : (c.writeResult d v).units = c.units := by simp [Core.writeResult]
@[simp] theorem Core.writeResult_faults (c : Core) (d : OpCode) (v : Word) : (c.writeResult d v).faults = c.faults := by simp [Core.writeResult]
@[simp] theorem Core.writeResult_channels (c : Core) (d : OpCode) (v : Word) : (c.writeResult d v).channels = c.channels := by simp [Core.writeResult]
@[simp] theorem Core.writeResult_rows (c : Core) (d : OpCode) (v : Word) : (c.writeResult d v).rows = c.rows := by simp [Core.writeResult]
@[simp] theorem Core.writeResult_rowFifo (c : Core) (d : OpCode) (v : Word) : (c.writeResult d v).rowFifo = c.rowFifo := by simp [Core.writeResult]
@[simp] theorem Core.writeResult_phase (c : Core) (d : OpCode) (v : Word) : (c.writeResult d v).phase = c.phase := by simp [Core.writeResult]
@[simp] theorem Core.writeResult_cancels (c : Core) (d : OpCode) (v : Word) : (c.writeResult d v).cancels = c.cancels := by simp [Core.writeResult]
@[simp] theorem Core.writeResult_fills (c : Core) (d : OpCode) (v : Word) : (c.writeResult d v).fills = c.fills := by simp [Core.writeResult]
@[simp] theorem Core.writeResult_refetch (c : Core) (d : OpCode) (v : Word) : (c.writeResult d v).refetch = c.refetch := by simp [Core.writeResult]
@[simp] theorem Core.writeResult_overwritten (c : Core) (d : OpCode) (v : Word) : (c.writeResult d v).overwritten = c.overwritten := by simp [Core.writeResult]
@[simp] theorem Core.writeResult_damage (c : Core) (d : OpCode) (v : Word) : (c.writeResult d v).damage = c.damage := by simp [Core.writeResult]
@[simp] theorem Core.writeResult_prq (c : Core) (d : OpCode) (v : Word) : (c.writeResult d v).prq = c.prq := by simp [Core.writeResult]
@[simp] theorem Core.writeResult_irq (c : Core) (d : OpCode) (v : Word) : (c.writeResult d v).irq = c.irq := by simp [Core.writeResult]
@[simp] theorem Core.writeResult_prqSince (c : Core) (d : OpCode) (v : Word) : (c.writeResult d v).prqSince = c.prqSince := by simp [Core.writeResult]
@[simp] theorem Core.writeResult_mailbox (c : Core) (d : OpCode) (v : Word) : (c.writeResult d v).mailbox = c.mailbox := by simp [Core.writeResult]
@[simp] theorem Core.writeResult_bank (c : Core) (d : OpCode) (v : Word) :
    (c.writeResult d v).bank = { c.bank with resq := pushQueue c.bank.resq v } := by simp [Core.writeResult]
@[simp] theorem Core.writeResult_level (c : Core) (d : OpCode) (v : Word) : (c.writeResult d v).level = c.level := by simp [Core.writeResult]

@[simp] theorem Core.finishAt_status (c : Core) (p : Nat) : (c.finishAt p).status = c.status := by simp [Core.finishAt]
@[simp] theorem Core.finishAt_item (c : Core) (p : Nat) : (c.finishAt p).item = c.item := by simp [Core.finishAt]
@[simp] theorem Core.finishAt_image (c : Core) (p : Nat) : (c.finishAt p).image = c.image := by simp [Core.finishAt]
@[simp] theorem Core.finishAt_resident (c : Core) (p : Nat) : (c.finishAt p).resident = c.resident := by simp [Core.finishAt]
@[simp] theorem Core.finishAt_lastOwner (c : Core) (p : Nat) : (c.finishAt p).lastOwner = c.lastOwner := by simp [Core.finishAt]
@[simp] theorem Core.finishAt_lstat (c : Core) (p : Nat) : (c.finishAt p).lstat = c.lstat := by simp [Core.finishAt]
@[simp] theorem Core.finishAt_sregs (c : Core) (p : Nat) : (c.finishAt p).sregs = c.sregs := by simp [Core.finishAt]
@[simp] theorem Core.finishAt_aregs (c : Core) (p : Nat) : (c.finishAt p).aregs = c.aregs := by simp [Core.finishAt]
@[simp] theorem Core.finishAt_bank0 (c : Core) (p : Nat) : (c.finishAt p).bank0 = c.bank0 := by simp [Core.finishAt]
@[simp] theorem Core.finishAt_bank1 (c : Core) (p : Nat) : (c.finishAt p).bank1 = c.bank1 := by simp [Core.finishAt]
@[simp] theorem Core.finishAt_tl (c : Core) (p : Nat) : (c.finishAt p).tl = c.tl := by simp [Core.finishAt]
@[simp] theorem Core.finishAt_chk (c : Core) (p : Nat) : (c.finishAt p).chk = c.chk := by simp [Core.finishAt]
@[simp] theorem Core.finishAt_clause (c : Core) (p : Nat) : (c.finishAt p).clause = c.clause := by simp [Core.finishAt]
@[simp] theorem Core.finishAt_trapRegs (c : Core) (p : Nat) : (c.finishAt p).trapRegs = c.trapRegs := by simp [Core.finishAt]
@[simp] theorem Core.finishAt_factor (c : Core) (p : Nat) : (c.finishAt p).factor = c.factor := by simp [Core.finishAt]
@[simp] theorem Core.finishAt_sys (c : Core) (p : Nat) : (c.finishAt p).sys = c.sys := by simp [Core.finishAt]
@[simp] theorem Core.finishAt_seq (c : Core) (p : Nat) : (c.finishAt p).seq = c.seq := by simp [Core.finishAt]
@[simp] theorem Core.finishAt_queues (c : Core) (p : Nat) : (c.finishAt p).queues = c.queues := by simp [Core.finishAt]
@[simp] theorem Core.finishAt_ports (c : Core) (p : Nat) : (c.finishAt p).ports = c.ports := by simp [Core.finishAt]
@[simp] theorem Core.finishAt_bufs (c : Core) (p : Nat) : (c.finishAt p).bufs = c.bufs := by simp [Core.finishAt]
@[simp] theorem Core.finishAt_bindings (c : Core) (p : Nat) : (c.finishAt p).bindings = c.bindings := by simp [Core.finishAt]
@[simp] theorem Core.finishAt_arrays (c : Core) (p : Nat) : (c.finishAt p).arrays = c.arrays := by simp [Core.finishAt]
@[simp] theorem Core.finishAt_caches (c : Core) (p : Nat) : (c.finishAt p).caches = c.caches := by simp [Core.finishAt]
@[simp] theorem Core.finishAt_units (c : Core) (p : Nat) : (c.finishAt p).units = c.units := by simp [Core.finishAt]
@[simp] theorem Core.finishAt_faults (c : Core) (p : Nat) : (c.finishAt p).faults = c.faults := by simp [Core.finishAt]
@[simp] theorem Core.finishAt_channels (c : Core) (p : Nat) : (c.finishAt p).channels = c.channels := by simp [Core.finishAt]
@[simp] theorem Core.finishAt_rows (c : Core) (p : Nat) : (c.finishAt p).rows = c.rows := by simp [Core.finishAt]
@[simp] theorem Core.finishAt_rowFifo (c : Core) (p : Nat) : (c.finishAt p).rowFifo = c.rowFifo := by simp [Core.finishAt]
@[simp] theorem Core.finishAt_phase (c : Core) (p : Nat) : (c.finishAt p).phase = c.phase := by simp [Core.finishAt]
@[simp] theorem Core.finishAt_cancels (c : Core) (p : Nat) : (c.finishAt p).cancels = c.cancels := by simp [Core.finishAt]
@[simp] theorem Core.finishAt_fills (c : Core) (p : Nat) : (c.finishAt p).fills = c.fills := by simp [Core.finishAt]
@[simp] theorem Core.finishAt_refetch (c : Core) (p : Nat) : (c.finishAt p).refetch = c.refetch := by simp [Core.finishAt]
@[simp] theorem Core.finishAt_overwritten (c : Core) (p : Nat) : (c.finishAt p).overwritten = c.overwritten := by simp [Core.finishAt]
@[simp] theorem Core.finishAt_damage (c : Core) (p : Nat) : (c.finishAt p).damage = c.damage := by simp [Core.finishAt]
@[simp] theorem Core.finishAt_prq (c : Core) (p : Nat) : (c.finishAt p).prq = c.prq := by simp [Core.finishAt]
@[simp] theorem Core.finishAt_irq (c : Core) (p : Nat) : (c.finishAt p).irq = c.irq := by simp [Core.finishAt]
@[simp] theorem Core.finishAt_prqSince (c : Core) (p : Nat) : (c.finishAt p).prqSince = c.prqSince := by simp [Core.finishAt]
@[simp] theorem Core.finishAt_mailbox (c : Core) (p : Nat) : (c.finishAt p).mailbox = c.mailbox := by simp [Core.finishAt]
@[simp] theorem Core.finishAt_bank (c : Core) (p : Nat) : (c.finishAt p).bank = c.bank := by simp [Core.bank]
@[simp] theorem Core.finishAt_pc (c : Core) (p : Nat) : (c.finishAt p).pc = (c.level.finish p c.level.ldepth).1 := rfl
@[simp] theorem Core.finishAt_level (c : Core) (p : Nat) : (c.finishAt p).level = (c.level.finish p c.level.ldepth).2 := by
  unfold Core.finishAt; exact Core.setLevel_level c _

@[simp] theorem Core.finish_status (c : Core) (now cost : Nat) : (c.finish now cost).status = c.status := by simp [Core.finish]
@[simp] theorem Core.finish_item (c : Core) (now cost : Nat) : (c.finish now cost).item = c.item := by simp [Core.finish]
@[simp] theorem Core.finish_image (c : Core) (now cost : Nat) : (c.finish now cost).image = c.image := by simp [Core.finish]
@[simp] theorem Core.finish_resident (c : Core) (now cost : Nat) : (c.finish now cost).resident = c.resident := by simp [Core.finish]
@[simp] theorem Core.finish_lastOwner (c : Core) (now cost : Nat) : (c.finish now cost).lastOwner = c.lastOwner := by simp [Core.finish]
@[simp] theorem Core.finish_lstat (c : Core) (now cost : Nat) : (c.finish now cost).lstat = c.lstat := by simp [Core.finish]
@[simp] theorem Core.finish_sregs (c : Core) (now cost : Nat) : (c.finish now cost).sregs = c.sregs := by simp [Core.finish]
@[simp] theorem Core.finish_aregs (c : Core) (now cost : Nat) : (c.finish now cost).aregs = c.aregs := by simp [Core.finish]
@[simp] theorem Core.finish_bank0 (c : Core) (now cost : Nat) : (c.finish now cost).bank0 = c.bank0 := by simp [Core.finish]
@[simp] theorem Core.finish_bank1 (c : Core) (now cost : Nat) : (c.finish now cost).bank1 = c.bank1 := by simp [Core.finish]
@[simp] theorem Core.finish_tl (c : Core) (now cost : Nat) : (c.finish now cost).tl = c.tl := by simp [Core.finish]
@[simp] theorem Core.finish_chk (c : Core) (now cost : Nat) : (c.finish now cost).chk = c.chk := by simp [Core.finish]
@[simp] theorem Core.finish_clause (c : Core) (now cost : Nat) : (c.finish now cost).clause = c.clause := by simp [Core.finish]
@[simp] theorem Core.finish_trapRegs (c : Core) (now cost : Nat) : (c.finish now cost).trapRegs = c.trapRegs := by simp [Core.finish]
@[simp] theorem Core.finish_factor (c : Core) (now cost : Nat) : (c.finish now cost).factor = c.factor := by simp [Core.finish]
@[simp] theorem Core.finish_sys (c : Core) (now cost : Nat) : (c.finish now cost).sys = c.sys := by simp [Core.finish]
@[simp] theorem Core.finish_queues (c : Core) (now cost : Nat) : (c.finish now cost).queues = c.queues := by simp [Core.finish]
@[simp] theorem Core.finish_ports (c : Core) (now cost : Nat) : (c.finish now cost).ports = c.ports := by simp [Core.finish]
@[simp] theorem Core.finish_bufs (c : Core) (now cost : Nat) : (c.finish now cost).bufs = c.bufs := by simp [Core.finish]
@[simp] theorem Core.finish_bindings (c : Core) (now cost : Nat) : (c.finish now cost).bindings = c.bindings := by simp [Core.finish]
@[simp] theorem Core.finish_arrays (c : Core) (now cost : Nat) : (c.finish now cost).arrays = c.arrays := by simp [Core.finish]
@[simp] theorem Core.finish_caches (c : Core) (now cost : Nat) : (c.finish now cost).caches = c.caches := by simp [Core.finish]
@[simp] theorem Core.finish_units (c : Core) (now cost : Nat) : (c.finish now cost).units = c.units := by simp [Core.finish]
@[simp] theorem Core.finish_faults (c : Core) (now cost : Nat) : (c.finish now cost).faults = c.faults := by simp [Core.finish]
@[simp] theorem Core.finish_channels (c : Core) (now cost : Nat) : (c.finish now cost).channels = c.channels := by simp [Core.finish]
@[simp] theorem Core.finish_rows (c : Core) (now cost : Nat) : (c.finish now cost).rows = c.rows := by simp [Core.finish]
@[simp] theorem Core.finish_rowFifo (c : Core) (now cost : Nat) : (c.finish now cost).rowFifo = c.rowFifo := by simp [Core.finish]
@[simp] theorem Core.finish_phase (c : Core) (now cost : Nat) : (c.finish now cost).phase = c.phase := by simp [Core.finish]
@[simp] theorem Core.finish_cancels (c : Core) (now cost : Nat) : (c.finish now cost).cancels = c.cancels := by simp [Core.finish]
@[simp] theorem Core.finish_fills (c : Core) (now cost : Nat) : (c.finish now cost).fills = c.fills := by simp [Core.finish]
@[simp] theorem Core.finish_refetch (c : Core) (now cost : Nat) : (c.finish now cost).refetch = c.refetch := by simp [Core.finish]
@[simp] theorem Core.finish_overwritten (c : Core) (now cost : Nat) : (c.finish now cost).overwritten = c.overwritten := by simp [Core.finish]
@[simp] theorem Core.finish_damage (c : Core) (now cost : Nat) : (c.finish now cost).damage = c.damage := by simp [Core.finish]
@[simp] theorem Core.finish_prq (c : Core) (now cost : Nat) : (c.finish now cost).prq = c.prq := by simp [Core.finish]
@[simp] theorem Core.finish_irq (c : Core) (now cost : Nat) : (c.finish now cost).irq = c.irq := by simp [Core.finish]
@[simp] theorem Core.finish_prqSince (c : Core) (now cost : Nat) : (c.finish now cost).prqSince = c.prqSince := by simp [Core.finish]
@[simp] theorem Core.finish_mailbox (c : Core) (now cost : Nat) : (c.finish now cost).mailbox = c.mailbox := by simp [Core.finish]
@[simp] theorem Core.finish_bank (c : Core) (now cost : Nat) : (c.finish now cost).bank = c.bank := by simp [Core.bank]
@[simp] theorem Core.finish_pc (c : Core) (now cost : Nat) : (c.finish now cost).pc = (c.level.finish c.pc c.level.ldepth).1 := rfl
@[simp] theorem Core.finish_level (c : Core) (now cost : Nat) :
    (c.finish now cost).level = (c.level.finish c.pc c.level.ldepth).2 := Core.finishAt_level c c.pc

@[simp] theorem Core.setSide_status (c : Core) (lq : Bool) (l : List QEntry) : (c.setSide lq l).status = c.status := by unfold Core.setSide; split <;> rfl
@[simp] theorem Core.setSide_item (c : Core) (lq : Bool) (l : List QEntry) : (c.setSide lq l).item = c.item := by unfold Core.setSide; split <;> rfl
@[simp] theorem Core.setSide_image (c : Core) (lq : Bool) (l : List QEntry) : (c.setSide lq l).image = c.image := by unfold Core.setSide; split <;> rfl
@[simp] theorem Core.setSide_resident (c : Core) (lq : Bool) (l : List QEntry) : (c.setSide lq l).resident = c.resident := by unfold Core.setSide; split <;> rfl
@[simp] theorem Core.setSide_lastOwner (c : Core) (lq : Bool) (l : List QEntry) : (c.setSide lq l).lastOwner = c.lastOwner := by unfold Core.setSide; split <;> rfl
@[simp] theorem Core.setSide_lstat (c : Core) (lq : Bool) (l : List QEntry) : (c.setSide lq l).lstat = c.lstat := by unfold Core.setSide; split <;> rfl
@[simp] theorem Core.setSide_pc (c : Core) (lq : Bool) (l : List QEntry) : (c.setSide lq l).pc = c.pc := by unfold Core.setSide; split <;> rfl
@[simp] theorem Core.setSide_sregs (c : Core) (lq : Bool) (l : List QEntry) : (c.setSide lq l).sregs = c.sregs := by unfold Core.setSide; split <;> rfl
@[simp] theorem Core.setSide_aregs (c : Core) (lq : Bool) (l : List QEntry) : (c.setSide lq l).aregs = c.aregs := by unfold Core.setSide; split <;> rfl
@[simp] theorem Core.setSide_bank0 (c : Core) (lq : Bool) (l : List QEntry) : (c.setSide lq l).bank0 = c.bank0 := by unfold Core.setSide; split <;> rfl
@[simp] theorem Core.setSide_bank1 (c : Core) (lq : Bool) (l : List QEntry) : (c.setSide lq l).bank1 = c.bank1 := by unfold Core.setSide; split <;> rfl
@[simp] theorem Core.setSide_level0 (c : Core) (lq : Bool) (l : List QEntry) : (c.setSide lq l).level0 = c.level0 := by unfold Core.setSide; split <;> rfl
@[simp] theorem Core.setSide_level1 (c : Core) (lq : Bool) (l : List QEntry) : (c.setSide lq l).level1 = c.level1 := by unfold Core.setSide; split <;> rfl
@[simp] theorem Core.setSide_tl (c : Core) (lq : Bool) (l : List QEntry) : (c.setSide lq l).tl = c.tl := by unfold Core.setSide; split <;> rfl
@[simp] theorem Core.setSide_chk (c : Core) (lq : Bool) (l : List QEntry) : (c.setSide lq l).chk = c.chk := by unfold Core.setSide; split <;> rfl
@[simp] theorem Core.setSide_clause (c : Core) (lq : Bool) (l : List QEntry) : (c.setSide lq l).clause = c.clause := by unfold Core.setSide; split <;> rfl
@[simp] theorem Core.setSide_trapRegs (c : Core) (lq : Bool) (l : List QEntry) : (c.setSide lq l).trapRegs = c.trapRegs := by unfold Core.setSide; split <;> rfl
@[simp] theorem Core.setSide_factor (c : Core) (lq : Bool) (l : List QEntry) : (c.setSide lq l).factor = c.factor := by unfold Core.setSide; split <;> rfl
@[simp] theorem Core.setSide_sys (c : Core) (lq : Bool) (l : List QEntry) : (c.setSide lq l).sys = c.sys := by unfold Core.setSide; split <;> rfl
@[simp] theorem Core.setSide_seq (c : Core) (lq : Bool) (l : List QEntry) : (c.setSide lq l).seq = c.seq := by unfold Core.setSide; split <;> rfl
@[simp] theorem Core.setSide_ports (c : Core) (lq : Bool) (l : List QEntry) : (c.setSide lq l).ports = c.ports := by unfold Core.setSide; split <;> rfl
@[simp] theorem Core.setSide_bufs (c : Core) (lq : Bool) (l : List QEntry) : (c.setSide lq l).bufs = c.bufs := by unfold Core.setSide; split <;> rfl
@[simp] theorem Core.setSide_bindings (c : Core) (lq : Bool) (l : List QEntry) : (c.setSide lq l).bindings = c.bindings := by unfold Core.setSide; split <;> rfl
@[simp] theorem Core.setSide_arrays (c : Core) (lq : Bool) (l : List QEntry) : (c.setSide lq l).arrays = c.arrays := by unfold Core.setSide; split <;> rfl
@[simp] theorem Core.setSide_caches (c : Core) (lq : Bool) (l : List QEntry) : (c.setSide lq l).caches = c.caches := by unfold Core.setSide; split <;> rfl
@[simp] theorem Core.setSide_units (c : Core) (lq : Bool) (l : List QEntry) : (c.setSide lq l).units = c.units := by unfold Core.setSide; split <;> rfl
@[simp] theorem Core.setSide_faults (c : Core) (lq : Bool) (l : List QEntry) : (c.setSide lq l).faults = c.faults := by unfold Core.setSide; split <;> rfl
@[simp] theorem Core.setSide_channels (c : Core) (lq : Bool) (l : List QEntry) : (c.setSide lq l).channels = c.channels := by unfold Core.setSide; split <;> rfl
@[simp] theorem Core.setSide_rows (c : Core) (lq : Bool) (l : List QEntry) : (c.setSide lq l).rows = c.rows := by unfold Core.setSide; split <;> rfl
@[simp] theorem Core.setSide_rowFifo (c : Core) (lq : Bool) (l : List QEntry) : (c.setSide lq l).rowFifo = c.rowFifo := by unfold Core.setSide; split <;> rfl
@[simp] theorem Core.setSide_phase (c : Core) (lq : Bool) (l : List QEntry) : (c.setSide lq l).phase = c.phase := by unfold Core.setSide; split <;> rfl
@[simp] theorem Core.setSide_cancels (c : Core) (lq : Bool) (l : List QEntry) : (c.setSide lq l).cancels = c.cancels := by unfold Core.setSide; split <;> rfl
@[simp] theorem Core.setSide_fills (c : Core) (lq : Bool) (l : List QEntry) : (c.setSide lq l).fills = c.fills := by unfold Core.setSide; split <;> rfl
@[simp] theorem Core.setSide_refetch (c : Core) (lq : Bool) (l : List QEntry) : (c.setSide lq l).refetch = c.refetch := by unfold Core.setSide; split <;> rfl
@[simp] theorem Core.setSide_overwritten (c : Core) (lq : Bool) (l : List QEntry) : (c.setSide lq l).overwritten = c.overwritten := by unfold Core.setSide; split <;> rfl
@[simp] theorem Core.setSide_damage (c : Core) (lq : Bool) (l : List QEntry) : (c.setSide lq l).damage = c.damage := by unfold Core.setSide; split <;> rfl
@[simp] theorem Core.setSide_prq (c : Core) (lq : Bool) (l : List QEntry) : (c.setSide lq l).prq = c.prq := by unfold Core.setSide; split <;> rfl
@[simp] theorem Core.setSide_irq (c : Core) (lq : Bool) (l : List QEntry) : (c.setSide lq l).irq = c.irq := by unfold Core.setSide; split <;> rfl
@[simp] theorem Core.setSide_prqSince (c : Core) (lq : Bool) (l : List QEntry) : (c.setSide lq l).prqSince = c.prqSince := by unfold Core.setSide; split <;> rfl
@[simp] theorem Core.setSide_mailbox (c : Core) (lq : Bool) (l : List QEntry) : (c.setSide lq l).mailbox = c.mailbox := by unfold Core.setSide; split <;> rfl
@[simp] theorem Core.setSide_bank (c : Core) (lq : Bool) (l : List QEntry) : (c.setSide lq l).bank = c.bank := by simp [Core.bank]
@[simp] theorem Core.setSide_level (c : Core) (lq : Bool) (l : List QEntry) : (c.setSide lq l).level = c.level := by simp [Core.level]

@[simp] theorem Core.setAreg_status (c : Core) (a : BitVec 4) (v : Word) : (c.setAreg a v).status = c.status := rfl
@[simp] theorem Core.setAreg_item (c : Core) (a : BitVec 4) (v : Word) : (c.setAreg a v).item = c.item := rfl
@[simp] theorem Core.setAreg_image (c : Core) (a : BitVec 4) (v : Word) : (c.setAreg a v).image = c.image := rfl
@[simp] theorem Core.setAreg_resident (c : Core) (a : BitVec 4) (v : Word) : (c.setAreg a v).resident = c.resident := rfl
@[simp] theorem Core.setAreg_lastOwner (c : Core) (a : BitVec 4) (v : Word) : (c.setAreg a v).lastOwner = c.lastOwner := rfl
@[simp] theorem Core.setAreg_lstat (c : Core) (a : BitVec 4) (v : Word) : (c.setAreg a v).lstat = c.lstat := rfl
@[simp] theorem Core.setAreg_pc (c : Core) (a : BitVec 4) (v : Word) : (c.setAreg a v).pc = c.pc := rfl
@[simp] theorem Core.setAreg_sregs (c : Core) (a : BitVec 4) (v : Word) : (c.setAreg a v).sregs = c.sregs := rfl
@[simp] theorem Core.setAreg_bank0 (c : Core) (a : BitVec 4) (v : Word) : (c.setAreg a v).bank0 = c.bank0 := rfl
@[simp] theorem Core.setAreg_bank1 (c : Core) (a : BitVec 4) (v : Word) : (c.setAreg a v).bank1 = c.bank1 := rfl
@[simp] theorem Core.setAreg_level0 (c : Core) (a : BitVec 4) (v : Word) : (c.setAreg a v).level0 = c.level0 := rfl
@[simp] theorem Core.setAreg_level1 (c : Core) (a : BitVec 4) (v : Word) : (c.setAreg a v).level1 = c.level1 := rfl
@[simp] theorem Core.setAreg_tl (c : Core) (a : BitVec 4) (v : Word) : (c.setAreg a v).tl = c.tl := rfl
@[simp] theorem Core.setAreg_chk (c : Core) (a : BitVec 4) (v : Word) : (c.setAreg a v).chk = c.chk := rfl
@[simp] theorem Core.setAreg_clause (c : Core) (a : BitVec 4) (v : Word) : (c.setAreg a v).clause = c.clause := rfl
@[simp] theorem Core.setAreg_trapRegs (c : Core) (a : BitVec 4) (v : Word) : (c.setAreg a v).trapRegs = c.trapRegs := rfl
@[simp] theorem Core.setAreg_factor (c : Core) (a : BitVec 4) (v : Word) : (c.setAreg a v).factor = c.factor := rfl
@[simp] theorem Core.setAreg_sys (c : Core) (a : BitVec 4) (v : Word) : (c.setAreg a v).sys = c.sys := rfl
@[simp] theorem Core.setAreg_seq (c : Core) (a : BitVec 4) (v : Word) : (c.setAreg a v).seq = c.seq := rfl
@[simp] theorem Core.setAreg_queues (c : Core) (a : BitVec 4) (v : Word) : (c.setAreg a v).queues = c.queues := rfl
@[simp] theorem Core.setAreg_ports (c : Core) (a : BitVec 4) (v : Word) : (c.setAreg a v).ports = c.ports := rfl
@[simp] theorem Core.setAreg_bufs (c : Core) (a : BitVec 4) (v : Word) : (c.setAreg a v).bufs = c.bufs := rfl
@[simp] theorem Core.setAreg_bindings (c : Core) (a : BitVec 4) (v : Word) : (c.setAreg a v).bindings = c.bindings := rfl
@[simp] theorem Core.setAreg_arrays (c : Core) (a : BitVec 4) (v : Word) : (c.setAreg a v).arrays = c.arrays := rfl
@[simp] theorem Core.setAreg_caches (c : Core) (a : BitVec 4) (v : Word) : (c.setAreg a v).caches = c.caches := rfl
@[simp] theorem Core.setAreg_units (c : Core) (a : BitVec 4) (v : Word) : (c.setAreg a v).units = c.units := rfl
@[simp] theorem Core.setAreg_faults (c : Core) (a : BitVec 4) (v : Word) : (c.setAreg a v).faults = c.faults := rfl
@[simp] theorem Core.setAreg_channels (c : Core) (a : BitVec 4) (v : Word) : (c.setAreg a v).channels = c.channels := rfl
@[simp] theorem Core.setAreg_rows (c : Core) (a : BitVec 4) (v : Word) : (c.setAreg a v).rows = c.rows := rfl
@[simp] theorem Core.setAreg_rowFifo (c : Core) (a : BitVec 4) (v : Word) : (c.setAreg a v).rowFifo = c.rowFifo := rfl
@[simp] theorem Core.setAreg_phase (c : Core) (a : BitVec 4) (v : Word) : (c.setAreg a v).phase = c.phase := rfl
@[simp] theorem Core.setAreg_cancels (c : Core) (a : BitVec 4) (v : Word) : (c.setAreg a v).cancels = c.cancels := rfl
@[simp] theorem Core.setAreg_fills (c : Core) (a : BitVec 4) (v : Word) : (c.setAreg a v).fills = c.fills := rfl
@[simp] theorem Core.setAreg_refetch (c : Core) (a : BitVec 4) (v : Word) : (c.setAreg a v).refetch = c.refetch := rfl
@[simp] theorem Core.setAreg_overwritten (c : Core) (a : BitVec 4) (v : Word) : (c.setAreg a v).overwritten = c.overwritten := rfl
@[simp] theorem Core.setAreg_damage (c : Core) (a : BitVec 4) (v : Word) : (c.setAreg a v).damage = c.damage := rfl
@[simp] theorem Core.setAreg_prq (c : Core) (a : BitVec 4) (v : Word) : (c.setAreg a v).prq = c.prq := rfl
@[simp] theorem Core.setAreg_irq (c : Core) (a : BitVec 4) (v : Word) : (c.setAreg a v).irq = c.irq := rfl
@[simp] theorem Core.setAreg_prqSince (c : Core) (a : BitVec 4) (v : Word) : (c.setAreg a v).prqSince = c.prqSince := rfl
@[simp] theorem Core.setAreg_mailbox (c : Core) (a : BitVec 4) (v : Word) : (c.setAreg a v).mailbox = c.mailbox := rfl
@[simp] theorem Core.setAreg_bank (c : Core) (a : BitVec 4) (v : Word) : (c.setAreg a v).bank = c.bank := rfl
@[simp] theorem Core.setAreg_level (c : Core) (a : BitVec 4) (v : Word) : (c.setAreg a v).level = c.level := rfl

@[simp] theorem Core.setChannel_status (c : Core) (k : Nat) (x : Channel) : (c.setChannel k x).status = c.status := rfl
@[simp] theorem Core.setChannel_item (c : Core) (k : Nat) (x : Channel) : (c.setChannel k x).item = c.item := rfl
@[simp] theorem Core.setChannel_image (c : Core) (k : Nat) (x : Channel) : (c.setChannel k x).image = c.image := rfl
@[simp] theorem Core.setChannel_resident (c : Core) (k : Nat) (x : Channel) : (c.setChannel k x).resident = c.resident := rfl
@[simp] theorem Core.setChannel_lastOwner (c : Core) (k : Nat) (x : Channel) : (c.setChannel k x).lastOwner = c.lastOwner := rfl
@[simp] theorem Core.setChannel_lstat (c : Core) (k : Nat) (x : Channel) : (c.setChannel k x).lstat = c.lstat := rfl
@[simp] theorem Core.setChannel_pc (c : Core) (k : Nat) (x : Channel) : (c.setChannel k x).pc = c.pc := rfl
@[simp] theorem Core.setChannel_sregs (c : Core) (k : Nat) (x : Channel) : (c.setChannel k x).sregs = c.sregs := rfl
@[simp] theorem Core.setChannel_aregs (c : Core) (k : Nat) (x : Channel) : (c.setChannel k x).aregs = c.aregs := rfl
@[simp] theorem Core.setChannel_bank0 (c : Core) (k : Nat) (x : Channel) : (c.setChannel k x).bank0 = c.bank0 := rfl
@[simp] theorem Core.setChannel_bank1 (c : Core) (k : Nat) (x : Channel) : (c.setChannel k x).bank1 = c.bank1 := rfl
@[simp] theorem Core.setChannel_level0 (c : Core) (k : Nat) (x : Channel) : (c.setChannel k x).level0 = c.level0 := rfl
@[simp] theorem Core.setChannel_level1 (c : Core) (k : Nat) (x : Channel) : (c.setChannel k x).level1 = c.level1 := rfl
@[simp] theorem Core.setChannel_tl (c : Core) (k : Nat) (x : Channel) : (c.setChannel k x).tl = c.tl := rfl
@[simp] theorem Core.setChannel_chk (c : Core) (k : Nat) (x : Channel) : (c.setChannel k x).chk = c.chk := rfl
@[simp] theorem Core.setChannel_clause (c : Core) (k : Nat) (x : Channel) : (c.setChannel k x).clause = c.clause := rfl
@[simp] theorem Core.setChannel_trapRegs (c : Core) (k : Nat) (x : Channel) : (c.setChannel k x).trapRegs = c.trapRegs := rfl
@[simp] theorem Core.setChannel_factor (c : Core) (k : Nat) (x : Channel) : (c.setChannel k x).factor = c.factor := rfl
@[simp] theorem Core.setChannel_sys (c : Core) (k : Nat) (x : Channel) : (c.setChannel k x).sys = c.sys := rfl
@[simp] theorem Core.setChannel_seq (c : Core) (k : Nat) (x : Channel) : (c.setChannel k x).seq = c.seq := rfl
@[simp] theorem Core.setChannel_queues (c : Core) (k : Nat) (x : Channel) : (c.setChannel k x).queues = c.queues := rfl
@[simp] theorem Core.setChannel_ports (c : Core) (k : Nat) (x : Channel) : (c.setChannel k x).ports = c.ports := rfl
@[simp] theorem Core.setChannel_bufs (c : Core) (k : Nat) (x : Channel) : (c.setChannel k x).bufs = c.bufs := rfl
@[simp] theorem Core.setChannel_bindings (c : Core) (k : Nat) (x : Channel) : (c.setChannel k x).bindings = c.bindings := rfl
@[simp] theorem Core.setChannel_arrays (c : Core) (k : Nat) (x : Channel) : (c.setChannel k x).arrays = c.arrays := rfl
@[simp] theorem Core.setChannel_caches (c : Core) (k : Nat) (x : Channel) : (c.setChannel k x).caches = c.caches := rfl
@[simp] theorem Core.setChannel_units (c : Core) (k : Nat) (x : Channel) : (c.setChannel k x).units = c.units := rfl
@[simp] theorem Core.setChannel_faults (c : Core) (k : Nat) (x : Channel) : (c.setChannel k x).faults = c.faults := rfl
@[simp] theorem Core.setChannel_rows (c : Core) (k : Nat) (x : Channel) : (c.setChannel k x).rows = c.rows := rfl
@[simp] theorem Core.setChannel_rowFifo (c : Core) (k : Nat) (x : Channel) : (c.setChannel k x).rowFifo = c.rowFifo := rfl
@[simp] theorem Core.setChannel_phase (c : Core) (k : Nat) (x : Channel) : (c.setChannel k x).phase = c.phase := rfl
@[simp] theorem Core.setChannel_cancels (c : Core) (k : Nat) (x : Channel) : (c.setChannel k x).cancels = c.cancels := rfl
@[simp] theorem Core.setChannel_fills (c : Core) (k : Nat) (x : Channel) : (c.setChannel k x).fills = c.fills := rfl
@[simp] theorem Core.setChannel_refetch (c : Core) (k : Nat) (x : Channel) : (c.setChannel k x).refetch = c.refetch := rfl
@[simp] theorem Core.setChannel_overwritten (c : Core) (k : Nat) (x : Channel) : (c.setChannel k x).overwritten = c.overwritten := rfl
@[simp] theorem Core.setChannel_damage (c : Core) (k : Nat) (x : Channel) : (c.setChannel k x).damage = c.damage := rfl
@[simp] theorem Core.setChannel_prq (c : Core) (k : Nat) (x : Channel) : (c.setChannel k x).prq = c.prq := rfl
@[simp] theorem Core.setChannel_irq (c : Core) (k : Nat) (x : Channel) : (c.setChannel k x).irq = c.irq := rfl
@[simp] theorem Core.setChannel_prqSince (c : Core) (k : Nat) (x : Channel) : (c.setChannel k x).prqSince = c.prqSince := rfl
@[simp] theorem Core.setChannel_mailbox (c : Core) (k : Nat) (x : Channel) : (c.setChannel k x).mailbox = c.mailbox := rfl
@[simp] theorem Core.setChannel_bank (c : Core) (k : Nat) (x : Channel) : (c.setChannel k x).bank = c.bank := rfl
@[simp] theorem Core.setChannel_level (c : Core) (k : Nat) (x : Channel) : (c.setChannel k x).level = c.level := rfl

@[simp] theorem Core.setSide_side (c : Core) (lq : Bool) (l : List QEntry) : (c.setSide lq l).side lq = l := by
  cases lq <;> rfl

@[simp] theorem Core.setSide_other (c : Core) (lq : Bool) (l : List QEntry) : (c.setSide lq l).side (!lq) = c.side (!lq) := by
  cases lq <;> rfl

/-- An address register that was written reads as written, and the others stand. -/
theorem Core.areg_setAreg (c : Core) (a b : BitVec 4) (v : Word) : (c.setAreg a v).areg b = if b = a then v else c.areg b := by
  unfold Core.areg Core.setAreg
  by_cases h : b = a
  · subst h; simp
  · have : a.toNat ≠ b.toNat := fun e => h (BitVec.eq_of_toNat_eq e.symm)
    simp [h, this]

/-! ### The agenda -/

/-- What is added stands in the agenda, and nothing else is added or lost. -/
@[simp] theorem mem_agendaAdd (l : List Pending) (e x : Pending) : x ∈ agendaAdd l e ↔ x = e ∨ x ∈ l := by
  induction l with
  | nil => simp [agendaAdd]
  | cons y ys ih =>
    unfold agendaAdd
    split
    · simp
    · simp only [List.mem_cons, ih]
      constructor
      · rintro (h | h | h) <;> simp [h]
      · rintro (h | h | h) <;> simp [h]

@[simp] theorem State.report_cores (s : State) (a b c d e : Nat) (f : Bool) : (s.report a b c d e f).cores = s.cores := by
  unfold State.report; split <;> rfl
@[simp] theorem State.report_control (s : State) (a b c d e : Nat) (f : Bool) : (s.report a b c d e f).control = s.control := by
  unfold State.report; split <;> rfl
@[simp] theorem State.report_tags (s : State) (a b c d e : Nat) (f : Bool) : (s.report a b c d e f).tags = s.tags := by
  unfold State.report; split <;> rfl
@[simp] theorem State.report_clock (s : State) (a b c d e : Nat) (f : Bool) : (s.report a b c d e f).clock = s.clock := by
  unfold State.report; split <;> rfl
@[simp] theorem State.report_focus (s : State) (a b c d e : Nat) (f : Bool) : (s.report a b c d e f).focus = s.focus := by
  unfold State.report; split <;> rfl
@[simp] theorem State.report_fabric (s : State) (a b c d e : Nat) (f : Bool) : (s.report a b c d e f).fabric = s.fabric := by
  unfold State.report; split <;> rfl
@[simp] theorem State.report_sites (s : State) (a b c d e : Nat) (f : Bool) : (s.report a b c d e f).sites = s.sites := by
  unfold State.report; split <;> rfl
@[simp] theorem State.report_pages (s : State) (a b c d e : Nat) (f : Bool) : (s.report a b c d e f).pages = s.pages := by
  unfold State.report; split <;> rfl
@[simp] theorem State.report_tiers (s : State) (a b c d e : Nat) (f : Bool) : (s.report a b c d e f).tiers = s.tiers := by
  unfold State.report; split <;> rfl
@[simp] theorem State.report_order (s : State) (a b c d e : Nat) (f : Bool) : (s.report a b c d e f).order = s.order := by
  unfold State.report; split <;> rfl
@[simp] theorem State.report_held (s : State) (a b c d e : Nat) (f : Bool) : (s.report a b c d e f).held = s.held := by
  unfold State.report; split <;> rfl
@[simp] theorem State.report_blocked (s : State) (a b c d e : Nat) (f : Bool) : (s.report a b c d e f).blocked = s.blocked := by
  unfold State.report; split <;> rfl
@[simp] theorem State.report_routed (s : State) (a b c d e : Nat) (f : Bool) : (s.report a b c d e f).routed = s.routed := by
  unfold State.report; split <;> rfl

/-! ### Errors of a core's own structures -/

@[simp] theorem Core.mend_status (c : Core) (part lo n : Nat) : (c.mend part lo n).status = c.status := rfl
@[simp] theorem Core.mend_item (c : Core) (part lo n : Nat) : (c.mend part lo n).item = c.item := rfl
@[simp] theorem Core.mend_image (c : Core) (part lo n : Nat) : (c.mend part lo n).image = c.image := rfl
@[simp] theorem Core.mend_resident (c : Core) (part lo n : Nat) : (c.mend part lo n).resident = c.resident := rfl
@[simp] theorem Core.mend_lastOwner (c : Core) (part lo n : Nat) : (c.mend part lo n).lastOwner = c.lastOwner := rfl
@[simp] theorem Core.mend_lstat (c : Core) (part lo n : Nat) : (c.mend part lo n).lstat = c.lstat := rfl
@[simp] theorem Core.mend_pc (c : Core) (part lo n : Nat) : (c.mend part lo n).pc = c.pc := rfl
@[simp] theorem Core.mend_sregs (c : Core) (part lo n : Nat) : (c.mend part lo n).sregs = c.sregs := rfl
@[simp] theorem Core.mend_aregs (c : Core) (part lo n : Nat) : (c.mend part lo n).aregs = c.aregs := rfl
@[simp] theorem Core.mend_bank0 (c : Core) (part lo n : Nat) : (c.mend part lo n).bank0 = c.bank0 := rfl
@[simp] theorem Core.mend_bank1 (c : Core) (part lo n : Nat) : (c.mend part lo n).bank1 = c.bank1 := rfl
@[simp] theorem Core.mend_level0 (c : Core) (part lo n : Nat) : (c.mend part lo n).level0 = c.level0 := rfl
@[simp] theorem Core.mend_level1 (c : Core) (part lo n : Nat) : (c.mend part lo n).level1 = c.level1 := rfl
@[simp] theorem Core.mend_tl (c : Core) (part lo n : Nat) : (c.mend part lo n).tl = c.tl := rfl
@[simp] theorem Core.mend_chk (c : Core) (part lo n : Nat) : (c.mend part lo n).chk = c.chk := rfl
@[simp] theorem Core.mend_clause (c : Core) (part lo n : Nat) : (c.mend part lo n).clause = c.clause := rfl
@[simp] theorem Core.mend_trapRegs (c : Core) (part lo n : Nat) : (c.mend part lo n).trapRegs = c.trapRegs := rfl
@[simp] theorem Core.mend_factor (c : Core) (part lo n : Nat) : (c.mend part lo n).factor = c.factor := rfl
@[simp] theorem Core.mend_sys (c : Core) (part lo n : Nat) : (c.mend part lo n).sys = c.sys := rfl
@[simp] theorem Core.mend_seq (c : Core) (part lo n : Nat) : (c.mend part lo n).seq = c.seq := rfl
@[simp] theorem Core.mend_queues (c : Core) (part lo n : Nat) : (c.mend part lo n).queues = c.queues := rfl
@[simp] theorem Core.mend_ports (c : Core) (part lo n : Nat) : (c.mend part lo n).ports = c.ports := rfl
@[simp] theorem Core.mend_bufs (c : Core) (part lo n : Nat) : (c.mend part lo n).bufs = c.bufs := rfl
@[simp] theorem Core.mend_bindings (c : Core) (part lo n : Nat) : (c.mend part lo n).bindings = c.bindings := rfl
@[simp] theorem Core.mend_arrays (c : Core) (part lo n : Nat) : (c.mend part lo n).arrays = c.arrays := rfl
@[simp] theorem Core.mend_caches (c : Core) (part lo n : Nat) : (c.mend part lo n).caches = c.caches := rfl
@[simp] theorem Core.mend_units (c : Core) (part lo n : Nat) : (c.mend part lo n).units = c.units := rfl
@[simp] theorem Core.mend_faults (c : Core) (part lo n : Nat) : (c.mend part lo n).faults = c.faults := rfl
@[simp] theorem Core.mend_channels (c : Core) (part lo n : Nat) : (c.mend part lo n).channels = c.channels := rfl
@[simp] theorem Core.mend_overwritten (c : Core) (part lo n : Nat) : (c.mend part lo n).overwritten = c.overwritten := rfl
@[simp] theorem Core.mend_rows (c : Core) (part lo n : Nat) : (c.mend part lo n).rows = c.rows := rfl
@[simp] theorem Core.mend_rowFifo (c : Core) (part lo n : Nat) : (c.mend part lo n).rowFifo = c.rowFifo := rfl
@[simp] theorem Core.mend_phase (c : Core) (part lo n : Nat) : (c.mend part lo n).phase = c.phase := rfl
@[simp] theorem Core.mend_cancels (c : Core) (part lo n : Nat) : (c.mend part lo n).cancels = c.cancels := rfl
@[simp] theorem Core.mend_fills (c : Core) (part lo n : Nat) : (c.mend part lo n).fills = c.fills := rfl
@[simp] theorem Core.mend_refetch (c : Core) (part lo n : Nat) : (c.mend part lo n).refetch = c.refetch := rfl
@[simp] theorem Core.mend_prq (c : Core) (part lo n : Nat) : (c.mend part lo n).prq = c.prq := rfl
@[simp] theorem Core.mend_irq (c : Core) (part lo n : Nat) : (c.mend part lo n).irq = c.irq := rfl
@[simp] theorem Core.mend_prqSince (c : Core) (part lo n : Nat) : (c.mend part lo n).prqSince = c.prqSince := rfl
@[simp] theorem Core.mend_mailbox (c : Core) (part lo n : Nat) : (c.mend part lo n).mailbox = c.mailbox := rfl
@[simp] theorem Core.mend_bank (c : Core) (part lo n : Nat) : (c.mend part lo n).bank = c.bank := rfl
@[simp] theorem Core.mend_level (c : Core) (part lo n : Nat) : (c.mend part lo n).level = c.level := rfl

@[simp] theorem Core.shiftDamage_status (c : Core) (part lo size n : Nat) : (c.shiftDamage part lo size n).status = c.status := rfl
@[simp] theorem Core.shiftDamage_item (c : Core) (part lo size n : Nat) : (c.shiftDamage part lo size n).item = c.item := rfl
@[simp] theorem Core.shiftDamage_image (c : Core) (part lo size n : Nat) : (c.shiftDamage part lo size n).image = c.image := rfl
@[simp] theorem Core.shiftDamage_resident (c : Core) (part lo size n : Nat) : (c.shiftDamage part lo size n).resident = c.resident := rfl
@[simp] theorem Core.shiftDamage_lastOwner (c : Core) (part lo size n : Nat) : (c.shiftDamage part lo size n).lastOwner = c.lastOwner := rfl
@[simp] theorem Core.shiftDamage_lstat (c : Core) (part lo size n : Nat) : (c.shiftDamage part lo size n).lstat = c.lstat := rfl
@[simp] theorem Core.shiftDamage_pc (c : Core) (part lo size n : Nat) : (c.shiftDamage part lo size n).pc = c.pc := rfl
@[simp] theorem Core.shiftDamage_sregs (c : Core) (part lo size n : Nat) : (c.shiftDamage part lo size n).sregs = c.sregs := rfl
@[simp] theorem Core.shiftDamage_aregs (c : Core) (part lo size n : Nat) : (c.shiftDamage part lo size n).aregs = c.aregs := rfl
@[simp] theorem Core.shiftDamage_bank0 (c : Core) (part lo size n : Nat) : (c.shiftDamage part lo size n).bank0 = c.bank0 := rfl
@[simp] theorem Core.shiftDamage_bank1 (c : Core) (part lo size n : Nat) : (c.shiftDamage part lo size n).bank1 = c.bank1 := rfl
@[simp] theorem Core.shiftDamage_level0 (c : Core) (part lo size n : Nat) : (c.shiftDamage part lo size n).level0 = c.level0 := rfl
@[simp] theorem Core.shiftDamage_level1 (c : Core) (part lo size n : Nat) : (c.shiftDamage part lo size n).level1 = c.level1 := rfl
@[simp] theorem Core.shiftDamage_tl (c : Core) (part lo size n : Nat) : (c.shiftDamage part lo size n).tl = c.tl := rfl
@[simp] theorem Core.shiftDamage_chk (c : Core) (part lo size n : Nat) : (c.shiftDamage part lo size n).chk = c.chk := rfl
@[simp] theorem Core.shiftDamage_clause (c : Core) (part lo size n : Nat) : (c.shiftDamage part lo size n).clause = c.clause := rfl
@[simp] theorem Core.shiftDamage_trapRegs (c : Core) (part lo size n : Nat) : (c.shiftDamage part lo size n).trapRegs = c.trapRegs := rfl
@[simp] theorem Core.shiftDamage_factor (c : Core) (part lo size n : Nat) : (c.shiftDamage part lo size n).factor = c.factor := rfl
@[simp] theorem Core.shiftDamage_sys (c : Core) (part lo size n : Nat) : (c.shiftDamage part lo size n).sys = c.sys := rfl
@[simp] theorem Core.shiftDamage_seq (c : Core) (part lo size n : Nat) : (c.shiftDamage part lo size n).seq = c.seq := rfl
@[simp] theorem Core.shiftDamage_queues (c : Core) (part lo size n : Nat) : (c.shiftDamage part lo size n).queues = c.queues := rfl
@[simp] theorem Core.shiftDamage_ports (c : Core) (part lo size n : Nat) : (c.shiftDamage part lo size n).ports = c.ports := rfl
@[simp] theorem Core.shiftDamage_bufs (c : Core) (part lo size n : Nat) : (c.shiftDamage part lo size n).bufs = c.bufs := rfl
@[simp] theorem Core.shiftDamage_bindings (c : Core) (part lo size n : Nat) : (c.shiftDamage part lo size n).bindings = c.bindings := rfl
@[simp] theorem Core.shiftDamage_arrays (c : Core) (part lo size n : Nat) : (c.shiftDamage part lo size n).arrays = c.arrays := rfl
@[simp] theorem Core.shiftDamage_caches (c : Core) (part lo size n : Nat) : (c.shiftDamage part lo size n).caches = c.caches := rfl
@[simp] theorem Core.shiftDamage_units (c : Core) (part lo size n : Nat) : (c.shiftDamage part lo size n).units = c.units := rfl
@[simp] theorem Core.shiftDamage_faults (c : Core) (part lo size n : Nat) : (c.shiftDamage part lo size n).faults = c.faults := rfl
@[simp] theorem Core.shiftDamage_channels (c : Core) (part lo size n : Nat) : (c.shiftDamage part lo size n).channels = c.channels := rfl
@[simp] theorem Core.shiftDamage_overwritten (c : Core) (part lo size n : Nat) : (c.shiftDamage part lo size n).overwritten = c.overwritten := rfl
@[simp] theorem Core.shiftDamage_rows (c : Core) (part lo size n : Nat) : (c.shiftDamage part lo size n).rows = c.rows := rfl
@[simp] theorem Core.shiftDamage_rowFifo (c : Core) (part lo size n : Nat) : (c.shiftDamage part lo size n).rowFifo = c.rowFifo := rfl
@[simp] theorem Core.shiftDamage_phase (c : Core) (part lo size n : Nat) : (c.shiftDamage part lo size n).phase = c.phase := rfl
@[simp] theorem Core.shiftDamage_cancels (c : Core) (part lo size n : Nat) : (c.shiftDamage part lo size n).cancels = c.cancels := rfl
@[simp] theorem Core.shiftDamage_fills (c : Core) (part lo size n : Nat) : (c.shiftDamage part lo size n).fills = c.fills := rfl
@[simp] theorem Core.shiftDamage_refetch (c : Core) (part lo size n : Nat) : (c.shiftDamage part lo size n).refetch = c.refetch := rfl
@[simp] theorem Core.shiftDamage_prq (c : Core) (part lo size n : Nat) : (c.shiftDamage part lo size n).prq = c.prq := rfl
@[simp] theorem Core.shiftDamage_irq (c : Core) (part lo size n : Nat) : (c.shiftDamage part lo size n).irq = c.irq := rfl
@[simp] theorem Core.shiftDamage_prqSince (c : Core) (part lo size n : Nat) : (c.shiftDamage part lo size n).prqSince = c.prqSince := rfl
@[simp] theorem Core.shiftDamage_mailbox (c : Core) (part lo size n : Nat) : (c.shiftDamage part lo size n).mailbox = c.mailbox := rfl
@[simp] theorem Core.shiftDamage_bank (c : Core) (part lo size n : Nat) : (c.shiftDamage part lo size n).bank = c.bank := rfl
@[simp] theorem Core.shiftDamage_level (c : Core) (part lo size n : Nat) : (c.shiftDamage part lo size n).level = c.level := rfl

end Sys2Proof.Machine
end

