-- ==== Sys2Proof/Laws/MemSys.lean ====
section
/-! SUPPORT. Every operation on memory behind the cores keeps its canonical form. -/

namespace Sys2Proof.Machine

/-- The four stores of memory behind the cores, each in its form. -/
structure MemorySystem.Wf (m : MemorySystem) : Prop where
  dram : Memory.wf m.dram = true
  heat : Sparse.wf m.heat = true
  l2 : rising (·.key) m.l2 = true
  cistern : rising (·.key) m.cistern = true

theorem MemorySystem.wf_iff (m : MemorySystem) : m.wf = true ↔ m.Wf := by
  constructor
  · intro h
    simp only [MemorySystem.wf, Bool.and_eq_true] at h
    exact ⟨h.1.1.1, h.1.1.2, h.1.2, h.2⟩
  · intro h
    simp [MemorySystem.wf, h.dram, h.heat, h.l2, h.cistern]

theorem reset_memory_wf : State.reset.mem.Wf := ⟨rfl, rfl, rfl, rfl⟩

/-! ### Fields of the memory system -/

theorem MemorySystem.Wf.unmark {m : MemorySystem} (h : m.Wf) (p c k : Nat) : (m.unmark p c k).Wf := ⟨h.dram, h.heat, h.l2, h.cistern⟩

theorem MemorySystem.Wf.carry {m : MemorySystem} (h : m.Wf) (p q k : Nat) : (m.carry p q k).Wf := by
  unfold MemorySystem.carry
  split
  · split
    · exact ⟨h.dram, h.heat, h.l2, h.cistern⟩
    · exact h
  · exact h

theorem MemorySystem.Wf.warm {m : MemorySystem} (h : m.Wf) (k : Nat) : (m.warm k).Wf := by
  unfold MemorySystem.warm
  split
  · exact ⟨h.dram, poke_wf _ _ h.heat, h.l2, h.cistern⟩
  · exact ⟨h.dram, poke_wf _ _ h.heat, h.l2, h.cistern⟩
  · exact h

theorem MemorySystem.Wf.setDramLine {m : MemorySystem} (h : m.Wf) (k : Nat) (x : BitVec 512) : (m.setDramLine k x).Wf :=
  ⟨pokeN_wf _ _ h.dram, h.heat, h.l2, h.cistern⟩

theorem MemorySystem.Wf.putL2 {m : MemorySystem} (h : m.Wf) (l : L2Line) : ({ m with l2 := upsert (·.key) l m.l2 } : MemorySystem).Wf :=
  ⟨h.dram, h.heat, upsert_rising l h.l2, h.cistern⟩

theorem MemorySystem.Wf.putCistern {m : MemorySystem} (h : m.Wf) (l : CisternLine) :
    ({ m with cistern := upsert (·.key) l m.cistern } : MemorySystem).Wf := ⟨h.dram, h.heat, h.l2, upsert_rising l h.cistern⟩

theorem MemorySystem.Wf.cisternDrop {m : MemorySystem} (h : m.Wf) (k : Nat) : (m.cisternDrop k).Wf :=
  ⟨h.dram, h.heat, h.l2, filter_rising _ h.cistern⟩

theorem MemorySystem.Wf.redirect {m : MemorySystem} (h : m.Wf) (k : Nat) : (m.redirect k).Wf :=
  ⟨h.dram, h.heat, h.l2, map_rising _ (by intro c; split <;> rfl) h.cistern⟩

theorem MemorySystem.Wf.copyMarks {m : MemorySystem} (h : m.Wf) (k : Nat) (d : Option Nat) : (m.copyMarks k d).Wf :=
  ⟨h.dram, h.heat, h.l2, h.cistern⟩

theorem MemorySystem.Wf.l2Drop {m : MemorySystem} (h : m.Wf) (k : Nat) : (m.l2Drop k).Wf :=
  MemorySystem.Wf.redirect (m := { ((m.unmark placeL2 0 k).copyMarks k none) with
      l2 := ((m.unmark placeL2 0 k).copyMarks k none).l2.filter (·.key != k) })
    ⟨h.dram, h.heat, filter_rising _ h.l2, h.cistern⟩ k

/-! ### Operations of the machine -/

theorem State.pickBelow_mem (s : State) (k : Nat) : (s.pickBelow k).2.mem = s.mem := by
  unfold State.pickBelow; split <;> rfl

theorem State.report_mem (s : State) (a b c d e : Nat) (f : Bool) : (s.report a b c d e f).mem = s.mem := by
  unfold State.report; split <;> rfl

theorem State.activateLine_mem (s : State) (k : Nat) : (s.activateLine k).mem = s.mem := by
  unfold State.activateLine
  simp only
  split <;> split <;> rfl

theorem State.correct_wf {s : State} (h : s.mem.Wf) (p key : Nat) (k : ErrMark) : (s.correct p key k).mem.Wf := by
  unfold State.correct
  rw [State.report_mem]
  exact h.unmark _ _ _

theorem State.readFixes_wf {s : State} (h : s.mem.Wf) (p key : Nat) : (s.readFixes p key).mem.Wf := by
  unfold State.readFixes
  split
  · split
    · exact h
    · exact State.correct_wf h _ _ _
  · exact h

theorem State.reportRefetch_mem (s : State) (k : ErrMark) (a b c : Nat) : (s.reportRefetch k a b c).mem = s.mem := by
  unfold State.reportRefetch
  exact State.report_mem ..

theorem State.cisternClean_wf {s : State} (h : s.mem.Wf) (l : CisternLine) : (s.cisternClean l).mem.Wf := by
  unfold State.cisternClean
  split
  · rw [State.activateLine_mem]
    have h' := (((State.readFixes_wf h placeCistern l.key).setDramLine l.key l.data).unmark placeDram 0 l.key).carry
      placeCistern placeDram l.key
    have hw := h'.warm l.key
    exact ⟨hw.dram, hw.heat, hw.l2, upsert_rising _ h'.cistern⟩
  · exact h

theorem State.l2ToCistern_wf {s : State} (h : s.mem.Wf) (l : L2Line) : (s.l2ToCistern l).mem.Wf := by
  unfold State.l2ToCistern
  have h' := State.readFixes_wf h placeL2 l.key
  exact (((h'.putCistern _).putL2 _).unmark _ _ _).carry _ _ _

theorem State.cisternEvict_wf {s : State} (h : s.mem.Wf) (key : Nat) : (s.cisternEvict key).mem.Wf := by
  have after : ∀ {u : State}, u.mem.Wf → (match u.mem.cisternAt key with
      | some c => let u := u.cisternClean c; u.setMem (u.mem.cisternDrop key)
      | none => u).mem.Wf := by
    intro u hu
    split
    · exact (State.cisternClean_wf hu _).cisternDrop _
    · exact hu
  unfold State.cisternEvict
  apply after
  split
  · split
    · exact (State.l2ToCistern_wf h _).l2Drop _
    · exact h.l2Drop _
  · exact h

theorem State.cisternRoom_wf {s : State} (h : s.mem.Wf) (key : Nat) : (s.cisternRoom key).mem.Wf := by
  unfold State.cisternRoom
  simp only
  split
  · exact h
  · split
    · exact State.cisternEvict_wf (by rw [State.pickBelow_mem]; exact h) _
    · rw [State.pickBelow_mem]; exact h

theorem State.cisternFill_wf {s : State} (h : s.mem.Wf) (key : Nat) (owner : Tag) : (s.cisternFill key owner).mem.Wf := by
  unfold State.cisternFill
  split
  · exact h
  · split
    · simp only
      rw [State.activateLine_mem]
      exact (((State.readFixes_wf (State.cisternRoom_wf h key) placeDram key).putCistern _).carry _ _ _).warm _
    · rw [State.activateLine_mem]; exact State.readFixes_wf h _ _

theorem State.writeBackL2_wf {s : State} (h : s.mem.Wf) (l : L2Line) : (s.writeBackL2 l).mem.Wf := by
  unfold State.writeBackL2
  split
  · split
    · apply State.l2ToCistern_wf
      split
      · exact h
      · exact State.cisternRoom_wf h _
    · simp only
      rw [State.activateLine_mem]
      exact ((((State.readFixes_wf h placeL2 l.key).putL2 _).setDramLine _ _).unmark _ _ _).carry _ _ _
  · exact h

theorem State.l2Room_wf {s : State} (h : s.mem.Wf) (key : Nat) : (s.l2Room key).mem.Wf := by
  unfold State.l2Room
  simp only
  split
  · exact h
  · split
    · exact (State.writeBackL2_wf (by rw [State.pickBelow_mem]; exact h) _).l2Drop _
    · rw [State.pickBelow_mem]; exact h

theorem State.scrubCistern_wf {s : State} (h : s.mem.Wf) (key : Nat) : (s.scrubCistern key).mem.Wf := by
  unfold State.scrubCistern
  split
  · exact h
  · split
    · exact h
    · split
      · exact State.correct_wf h _ _ _
      · split
        · exact h
        · simp only
          rw [State.reportRefetch_mem]
          have h' := h.cisternDrop key
          simp only [State.setMem_mem]
          split
          · exact ⟨h'.dram, h'.heat, h'.l2, h'.cistern⟩
          · exact h'

theorem State.l2Fill_wf {s : State} (h : s.mem.Wf) (key : Nat) (owner : Tag) : (s.l2Fill key owner).mem.Wf := by
  unfold State.l2Fill
  split
  · exact h
  · have h' := State.l2Room_wf (State.cisternFill_wf (State.scrubCistern_wf h key) key owner) key
    exact MemorySystem.Wf.redirect ((h'.putL2 _).carry _ _ _) key

theorem State.weirSees_mem (s : State) (pa n : Nat) : (s.weirSees pa n).mem = s.mem := by
  unfold State.weirSees
  generalize s.control.weir = l
  induction l generalizing s with
  | nil => rfl
  | cons e l ih =>
    simp only [List.foldl_cons]
    rw [ih]
    split <;> rfl

theorem State.scrubHome_wf {s : State} (h : s.mem.Wf) (key : Nat) : (s.scrubHome key).mem.Wf := by
  unfold State.scrubHome
  split
  · split
    · exact State.correct_wf h _ _ _
    · split
      · exact h
      · rw [State.reportRefetch_mem]; exact h.l2Drop key
  · exact h

theorem State.scrubCopy_wf {s : State} (h : s.mem.Wf) (key die : Nat) : (s.scrubCopy key die).mem.Wf := by
  unfold State.scrubCopy
  split
  · exact h
  · split
    · simp only
      rw [State.reportRefetch_mem]
      exact ⟨h.dram, h.heat, map_rising _ (by intro l; split <;> rfl) h.l2, h.cistern⟩
    · rw [State.report_mem]; exact h.unmark _ _ _

theorem State.writeHome_wf {s : State} (h : s.mem.Wf) (key off : Nat) (bs : List Byte) (die : Nat) (owner : Tag) :
    (s.writeHome key off bs die owner).mem.Wf := by
  unfold State.writeHome
  simp only
  rw [State.weirSees_mem]
  have hk : ∀ l : L2Line, (if l.key == key then
      { l with data := patchLine l.data off bs, dirty := true, copies := l.copies &&& (1#4 <<< die) } else l).key = l.key := by
    intro l; split <;> rfl
  have hm : ∀ {m : MemorySystem}, m.Wf → ({ m with l2 := m.l2.map fun l => if l.key == key then
      { l with data := patchLine l.data off bs, dirty := true, copies := l.copies &&& (1#4 <<< die) } else l } : MemorySystem).Wf :=
    fun hm => ⟨hm.dram, hm.heat, map_rising _ hk hm.l2, hm.cistern⟩
  apply hm
  by_cases hl : bs.length = 64
  · simp only [hl, if_true]
    exact ((State.l2Fill_wf h key owner).unmark _ _ _).copyMarks _ _
  · simp only [hl, if_false]
    exact (State.l2Fill_wf (State.scrubCopy_wf (State.scrubHome_wf h key) key die) key owner).copyMarks _ _

theorem State.writeDevice_wf (fuel : Nat) : ∀ {s : State}, s.mem.Wf → ∀ (pa : Nat) (bs : List Byte) (die : Nat) (owner : Tag),
    (s.writeDevice fuel pa bs die owner).mem.Wf := by
  induction fuel with
  | zero => intro s h _ _ _ _; exact h
  | succ n ih =>
    intro s h pa bs die owner
    unfold State.writeDevice
    split
    · exact h
    · exact ih (State.writeHome_wf h _ _ _ _ _) _ _ _ _

theorem State.recall_wf {s : State} (h : s.mem.Wf) (key : Nat) : (s.recall key).mem.Wf := by
  unfold State.recall
  split
  · split
    · exact (State.writeBackL2_wf h _).l2Drop _
    · exact h
  · exact h

theorem State.inspectDram_wf {s : State} (h : s.mem.Wf) (key : Nat) : (s.inspectDram key).1.mem.Wf := State.readFixes_wf h _ _

theorem State.inspectCistern_wf {s : State} (h : s.mem.Wf) (key : Nat) : (s.inspectCistern key).1.mem.Wf := by
  unfold State.inspectCistern
  simp only
  split
  · exact State.scrubCistern_wf h key
  · exact State.inspectDram_wf (State.scrubCistern_wf h key) key

theorem State.inspectLine_wf {s : State} (h : s.mem.Wf) (key : Nat) : (s.inspectLine key).1.mem.Wf := by
  unfold State.inspectLine
  split
  · exact State.inspectCistern_wf h key
  · split
    · exact h
    · split
      · exact State.correct_wf h _ _ _
      · split
        · exact h
        · exact State.inspectCistern_wf (by rw [State.reportRefetch_mem]; exact h.l2Drop key) key

theorem State.readHome_wf {s : State} (h : s.mem.Wf) (key die : Nat) (owner : Tag) : (s.readHome key die owner).1.mem.Wf := by
  have hc := State.scrubCopy_wf h key die
  have hi := State.inspectLine_wf hc key
  unfold State.readHome
  simp only
  split
  · exact hc
  · split
    · rename_i e; rw [e] at hi; exact hi
    · rename_i s' e
      rw [e] at hi
      have h' := State.l2Fill_wf hi key owner
      exact ⟨h'.dram, h'.heat, map_rising _ (by intro l; split <;> rfl) h'.l2, h'.cistern⟩

theorem State.agentRead_wf {s : State} (h : s.mem.Wf) (key : Nat) : (s.agentRead key).1.mem.Wf := by
  have hi := State.inspectCistern_wf (State.recall_wf h key) key
  unfold State.agentRead
  simp only
  split
  · rename_i e; rw [e] at hi; exact hi
  · rename_i e; rw [e] at hi; exact State.cisternFill_wf hi _ _

theorem State.agentWriteLine_wf {s : State} (h : s.mem.Wf) (key off : Nat) (bs : List Byte) : (s.agentWriteLine key off bs).mem.Wf := by
  unfold State.agentWriteLine
  simp only
  rw [State.weirSees_mem]
  have hf : ∀ owner, ((((s.recall key).setMem ((s.recall key).mem.l2Drop key)).scrubCistern key).cisternFill key owner).mem.Wf :=
    fun owner => State.cisternFill_wf
      (State.scrubCistern_wf (s := (s.recall key).setMem ((s.recall key).mem.l2Drop key)) ((State.recall_wf h key).l2Drop key) key) key owner
  split
  · refine MemorySystem.Wf.putCistern ?_ _
    split
    · exact (hf _).unmark _ _ _
    · exact State.readFixes_wf (hf _) _ _
  · rw [State.activateLine_mem]
    refine MemorySystem.Wf.setDramLine ?_ _ _
    split
    · exact (hf _).unmark _ _ _
    · exact hf _

theorem State.agentWrite_wf (fuel : Nat) : ∀ {s : State}, s.mem.Wf → ∀ (pa : Nat) (bs : List Byte), (s.agentWrite fuel pa bs).mem.Wf := by
  induction fuel with
  | zero => intro s h _ _; exact h
  | succ n ih =>
    intro s h pa bs
    unfold State.agentWrite
    split
    · exact h
    · exact ih (State.agentWriteLine_wf h _ _ _) _ _

/-- A write of an agent keeps the form of memory. -/
theorem State.agentStore_wf {s : State} (h : s.mem.Wf) (pa : Nat) (bs : List Byte) : (s.agentStore pa bs).mem.Wf :=
  State.agentWrite_wf _ h _ _

theorem State.agentBytes_wf (fuel : Nat) : ∀ {s : State}, s.mem.Wf → ∀ (pa n : Nat), (s.agentBytes fuel pa n).1.mem.Wf := by
  induction fuel with
  | zero => intro s h _ _; exact h
  | succ k ih =>
    intro s h pa n
    unfold State.agentBytes
    split
    · exact h
    · simp only
      split
      · have := ih h (pa + min n (64 - pa % 64)) (n - min n (64 - pa % 64))
        split <;> simp_all
      · have hr := State.agentRead_wf h (pa / 64)
        split
        · rename_i e; rw [e] at hr; exact hr
        · rename_i e; rw [e] at hr
          have := ih hr (pa + min n (64 - pa % 64)) (n - min n (64 - pa % 64))
          split <;> simp_all

/-- A read of an agent keeps the form of memory. -/
theorem State.agentRun_wf {s : State} (h : s.mem.Wf) (pa n : Nat) : (s.agentRun pa n).1.mem.Wf := State.agentBytes_wf _ h _ _

end Sys2Proof.Machine
end

