-- ==== Sys2Proof/Laws/Ops.lean ====
section
/-! SUPPORT. What the shared operations of the sequencer and of the queues can do, said once: reading operands, writing a
result, routing, starting and completing an entry of the LQ or SQ, and taking a trap. -/

namespace Sys2Proof.Machine

/-! ### Operands -/

/-- Reading one operand changes at most the load-return queue of the present trap level, which loses its oldest entry. -/
theorem Core.readOperand_cases (c : Core) (id : Nat) (code : OpCode) :
    (∃ v, c.readOperand id code = .ok [v] c) ∨
    (∃ v rest, c.bank.loads = v :: rest ∧ c.damageIn partLoads c.loadsBase 1 = none ∧
      c.readOperand id code = .ok [v] ((c.shiftDamage partLoads c.loadsBase 64 1).setBank { c.bank with loads := rest })) ∨
    (c.readOperand id code = .stall ∧ c.bank.loads = []) ∨ c.readOperand id code = .illegal ∨
    (∃ inj, c.damageIn partLoads c.loadsBase 1 = some inj ∧ c.readOperand id code = .bad inj) := by
  unfold Core.readOperand
  repeat' split
  all_goals first
    | exact .inl ⟨_, rfl⟩
    | exact .inr (.inr (.inr (.inl rfl)))
    | exact .inr (.inl ⟨_, _, ‹_›, ‹_›, rfl⟩)
    | simp_all

/-- What reading operands keeps. -/
structure SameButLoads (c c' : Core) : Prop where
  pc : c'.pc = c.pc
  sregs : c'.sregs = c.sregs
  aregs : c'.aregs = c.aregs
  arrays : c'.arrays = c.arrays
  caches : c'.caches = c.caches
  queues : c'.queues = c.queues
  seq : c'.seq = c.seq
  sys : c'.sys = c.sys
  factor : c'.factor = c.factor
  clause : c'.clause = c.clause
  trapRegs : c'.trapRegs = c.trapRegs
  ports : c'.ports = c.ports
  bufs : c'.bufs = c.bufs
  bindings : c'.bindings = c.bindings
  channels : c'.channels = c.channels
  rows : c'.rows = c.rows
  tl : c'.tl = c.tl
  chk : c'.chk = c.chk
  level : c'.level = c.level
  resq : c'.bank.resq = c.bank.resq
  tok : c'.bank.tok = c.bank.tok

theorem SameButLoads.rfl' (c : Core) : SameButLoads c c :=
  by constructor <;> rfl

theorem SameButLoads.trans {a b c : Core} (h : SameButLoads a b) (g : SameButLoads b c) : SameButLoads a c :=
  ⟨g.pc.trans h.pc, g.sregs.trans h.sregs, g.aregs.trans h.aregs, g.arrays.trans h.arrays, g.caches.trans h.caches,
    g.queues.trans h.queues, g.seq.trans h.seq, g.sys.trans h.sys, g.factor.trans h.factor, g.clause.trans h.clause,
    g.trapRegs.trans h.trapRegs, g.ports.trans h.ports, g.bufs.trans h.bufs, g.bindings.trans h.bindings,
    g.channels.trans h.channels, g.rows.trans h.rows, g.tl.trans h.tl, g.chk.trans h.chk, g.level.trans h.level,
    g.resq.trans h.resq, g.tok.trans h.tok⟩

theorem SameButLoads.pop (c : Core) (rest : List Word) :
    SameButLoads c ((c.shiftDamage partLoads c.loadsBase 64 1).setBank { c.bank with loads := rest }) := by
  constructor <;> simp

theorem Core.readOperand_same {c c' : Core} {id : Nat} {code : OpCode} {vs : List Word} (h : c.readOperand id code = .ok vs c') :
    SameButLoads c c' := by
  rcases c.readOperand_cases id code with ⟨v, e⟩ | ⟨v, rest, _, _, e⟩ | ⟨e, _⟩ | e | ⟨_, _, e⟩
  · rw [e] at h; cases h; exact .rfl' c
  · rw [e] at h; cases h; exact .pop c rest
  · rw [e] at h; cases h
  · rw [e] at h; cases h
  · rw [e] at h; cases h

/-- Reading the operands of a word changes the load-return queue at most. -/
theorem Core.readAll_same {id : Nat} : (codes : List OpCode) → {c c' : Core} → {vs : List Word} → c.readAll id codes = .ok vs c' →
    SameButLoads c c'
  | [], c, c', vs, h => by cases h; exact .rfl' c
  | k :: ks, c, c', vs, h => by
    unfold Core.readAll at h
    split at h
    · rename_i ws c1 h1
      split at h
      · rename_i xs c2 h2
        cases h
        exact (Core.readOperand_same h1).trans (Core.readAll_same ks h2)
      · rename_i r hr
        exact absurd h (by intro e; exact hr _ _ e)
    · rename_i r hr
      exact absurd h (by intro e; exact hr _ _ e)

/-! ### Words with a result -/

theorem withOperands_ok {s : State} {i : Instr} {codes : List OpCode} {f : List Word → Core → State} {vs : List Word} {c : Core}
    (h : s.core.readAll s.cur.val codes = .ok vs c) : withOperands s i codes f = f vs c := by
  unfold withOperands; rw [h]

theorem withOperands_stall {s : State} {i : Instr} {codes : List OpCode} {f : List Word → Core → State}
    (h : s.core.readAll s.cur.val codes = .stall) : withOperands s i codes f = s.hold := by
  unfold withOperands; rw [h]

theorem withOperands_bad {s : State} {i : Instr} {codes : List OpCode} {f : List Word → Core → State} {inj : Bool}
    (h : s.core.readAll s.cur.val codes = .bad inj) : withOperands s i codes f = s.consumed inj := by
  unfold withOperands; rw [h]

theorem withOperands_illegal {s : State} {i : Instr} {codes : List OpCode} {f : List Word → Core → State}
    (h : s.core.readAll s.cur.val codes = .illegal) : withOperands s i codes f = s.illegal i := by
  unfold withOperands; rw [h]

/-- A two-operand word whose operands can be read and whose destination code is legal: the next state, whole. -/
theorem alu2_ok {s : State} {i : Instr} {d a b : OpCode} {cost : Nat} {f : Word → Word → Word} {vs : List Word} {c : Core}
    (h : s.core.readAll s.cur.val [a, b] = .ok vs c) (hd : okDst d = true) :
    alu2 s i d a b cost f = .next (s.withCore ((c.writeResult d (f (arg0 vs) (arg1 vs))).finish s.now cost)) := by
  simp [alu2, withOperands_ok h, resultWord, hd]

/-- The same for a one-operand word. -/
theorem alu1_ok {s : State} {i : Instr} {d a : OpCode} {cost : Nat} {f : Word → Word} {vs : List Word} {c : Core}
    (h : s.core.readAll s.cur.val [a] = .ok vs c) (hd : okDst d = true) :
    alu1 s i d a cost f = .next (s.withCore ((c.writeResult d (f (arg0 vs))).finish s.now cost)) := by
  simp [alu1, withOperands_ok h, resultWord, hd]

/-- WriteResult: the newest entry is the value, the others move up, and the register that the code names holds it. -/
theorem Core.writeResult_newest (c : Core) (d : OpCode) (v : Word) : (c.writeResult d v).bank.resq[(0 : Fin 16)] = v := by
  simp [pushQueue]

theorem Core.writeResult_older (c : Core) (d : OpCode) (v : Word) (k : Fin 15) :
    (c.writeResult d v).bank.resq[k.succ] = c.bank.resq[k.castSucc] := by
  simp [pushQueue]

theorem Core.writeResult_named (c : Core) (d : OpCode) (v : Word) (k : Fin 32) (h : k.val = d.toNat) :
    (c.writeResult d v).sregs[k] = v := by
  have hd : d.toNat < 32 := h ▸ k.isLt
  simp [Core.writeResult, Core.setSreg, hd, h]

theorem Core.writeResult_others (c : Core) (d : OpCode) (v : Word) (k : Fin 32) (h : k.val ≠ d.toNat) :
    (c.writeResult d v).sregs[k] = c.sregs[k] := by
  unfold Core.writeResult Core.setSreg
  split
  · simp [Ne.symm h]
  · simp

/-! ### Entries of the LQ and the SQ -/

/-- An entry that meets all it waits for begins: it takes its token, its engine's cycle and the value of its address register, and its
instruction runs. -/
theorem State.engine_starts {s : State} {lq delivers forbidden : Bool} {run : State → QEntry → Attempt} {e : QEntry}
    {rest : List QEntry} (hq : s.core.side lq = e :: rest) (he : e.state = .waiting)
    (ht : e.waits lq = true → s.core.hasToken lq = true) (hw : s.wireHolds = false) (hd : s.core.damage = [])
    (hr : s.core.tableRoom e (s.core.areg (storeBase e.instr)) = true)
    (hl : delivers = true → s.core.bank.loads.length < 64)
    (hn : (if lq then s.core.units.lqNext else s.core.units.sqNext) ≤ s.now) (hp : forbidden = true → s.core.phaseForbids = false) :
    s.engine lq delivers forbidden run =
      (let c := if e.waits lq then s.core.takeToken lq else s.core
       let c := { c with units := if lq then { c.units with lqNext := s.now + 1 } else { c.units with sqNext := s.now + 1 } }
       let e' := { e with state := .begun, base := s.core.areg (storeBase e.instr), ties := s.core.bindings }
       (run (s.withCore (c.setSide lq (e' :: rest))) e').settle true lq e') := by
  have hk0 : e.lacks lq = e.waits lq := by simp [QEntry.lacks, he]
  unfold State.engine
  simp only [hq, he, hw, hr, hk0]
  have h1 : (e.waits lq && !s.core.hasToken lq) = false := by
    cases h : e.waits lq
    · rfl
    · simp [ht h]
  have h2 : (delivers && decide (64 ≤ s.core.bank.loads.length)) = false := by
    cases h : delivers
    · rfl
    · have := hl h; simp; omega
  have h3 : decide (s.now < (if lq then s.core.units.lqNext else s.core.units.sqNext)) = false := by simp; exact hn
  rw [h1, h2, h3]
  have hk : (if e.waits lq = true then s.core.takeToken lq else s.core).phaseForbids = s.core.phaseForbids := by
    split
    · unfold Core.takeToken Core.phaseForbids; cases lq <;> simp
    · rfl
  have hk' : (forbidden && Core.phaseForbids
      { (if e.waits lq = true then s.core.takeToken lq else s.core) with
        units := if lq = true then
            { (if e.waits lq = true then s.core.takeToken lq else s.core).units with lqNext := s.now + 1 }
          else { (if e.waits lq = true then s.core.takeToken lq else s.core).units with sqNext := s.now + 1 } }) = false := by
    cases hf : forbidden
    · rfl
    · exact hk.trans (hp hf)
  have hx : (if e.waits lq = true then s.core.takeToken lq else s.core).damage = [] := by
    rw [← hd]; split
    · unfold Core.takeToken; cases lq <;> simp
    · rfl
  have hb : (if e.waits lq = true then s.core.takeToken lq else s.core).bindings = s.core.bindings := by
    split
    · unfold Core.takeToken; cases lq <;> simp
    · rfl
  rw [hk']
  simp [Core.damageIn, hx, hb]

/-- What the completion of an entry keeps of a core. -/
theorem Core.queueDone_same (c : Core) (now : Nat) :
    (c.queueDone now).sregs = c.sregs ∧ (c.queueDone now).aregs = c.aregs ∧ (c.queueDone now).pc = c.pc ∧
      (c.queueDone now).arrays = c.arrays ∧ (c.queueDone now).queues = c.queues ∧ (c.queueDone now).bank = c.bank ∧
      (c.queueDone now).sys = c.sys ∧ (c.queueDone now).caches = c.caches := by
  unfold Core.queueDone
  split <;> exact ⟨rfl, rfl, rfl, rfl, rfl, rfl, rfl, rfl⟩

/-- Completion touches the core that acts, and nothing else. -/
theorem State.complete_core (s : State) (lq : Bool) (e : QEntry) : ∃ c, s.complete lq e = s.withCore c := by
  unfold State.complete
  cases lq <;> simp only <;> repeat' split
  all_goals exact ⟨_, rfl⟩

@[simp] theorem State.complete_mem (s : State) (lq : Bool) (e : QEntry) : (s.complete lq e).mem = s.mem := by
  obtain ⟨c, h⟩ := s.complete_core lq e; rw [h]; rfl
@[simp] theorem State.complete_control (s : State) (lq : Bool) (e : QEntry) : (s.complete lq e).control = s.control := by
  obtain ⟨c, h⟩ := s.complete_core lq e; rw [h]; rfl
@[simp] theorem State.complete_tags (s : State) (lq : Bool) (e : QEntry) : (s.complete lq e).tags = s.tags := by
  obtain ⟨c, h⟩ := s.complete_core lq e; rw [h]; rfl
@[simp] theorem State.complete_mgmt (s : State) (lq : Bool) (e : QEntry) : (s.complete lq e).mgmt = s.mgmt := by
  obtain ⟨c, h⟩ := s.complete_core lq e; rw [h]; rfl
@[simp] theorem State.complete_sites (s : State) (lq : Bool) (e : QEntry) : (s.complete lq e).sites = s.sites := by
  obtain ⟨c, h⟩ := s.complete_core lq e; rw [h]; rfl
@[simp] theorem State.complete_fabric (s : State) (lq : Bool) (e : QEntry) : (s.complete lq e).fabric = s.fabric := by
  obtain ⟨c, h⟩ := s.complete_core lq e; rw [h]; rfl
@[simp] theorem State.complete_clock (s : State) (lq : Bool) (e : QEntry) : (s.complete lq e).clock = s.clock := by
  obtain ⟨c, h⟩ := s.complete_core lq e; rw [h]; rfl
@[simp] theorem State.complete_agenda (s : State) (lq : Bool) (e : QEntry) : (s.complete lq e).agenda = s.agenda := by
  obtain ⟨c, h⟩ := s.complete_core lq e; rw [h]; rfl
@[simp] theorem State.complete_cur (s : State) (lq : Bool) (e : QEntry) : (s.complete lq e).cur = s.cur := by
  obtain ⟨c, h⟩ := s.complete_core lq e; rw [h]; rfl

theorem State.complete_other (s : State) (lq : Bool) (e : QEntry) (i : Fin 96) (h : i ≠ s.cur) :
    (s.complete lq e).cores[i] = s.cores[i] := by
  obtain ⟨c, hc⟩ := s.complete_core lq e; rw [hc]; exact State.withCore_other _ _ _ h

/-- Owed materialisations of a unit that are settled: only the tag unit's list of them changes. -/
theorem State.settleOwed_cases (s : State) (n : Nat) (u : Actor) :
    s.settleOwed n u = s ∨ s.settleOwed n u = s.setTags { s.tags with owed := s.tags.owed.filter fun o => !(o.req.source == n && o.unit == u) } := by
  unfold State.settleOwed; split
  · exact .inl rfl
  · exact .inr rfl

@[simp] theorem State.settleOwed_cores (s : State) (n : Nat) (u : Actor) : (s.settleOwed n u).cores = s.cores := by
  unfold State.settleOwed; split <;> rfl
@[simp] theorem State.settleOwed_mem (s : State) (n : Nat) (u : Actor) : (s.settleOwed n u).mem = s.mem := by
  unfold State.settleOwed; split <;> rfl
@[simp] theorem State.settleOwed_control (s : State) (n : Nat) (u : Actor) : (s.settleOwed n u).control = s.control := by
  unfold State.settleOwed; split <;> rfl
@[simp] theorem State.settleOwed_mgmt (s : State) (n : Nat) (u : Actor) : (s.settleOwed n u).mgmt = s.mgmt := by
  unfold State.settleOwed; split <;> rfl
@[simp] theorem State.settleOwed_sites (s : State) (n : Nat) (u : Actor) : (s.settleOwed n u).sites = s.sites := by
  unfold State.settleOwed; split <;> rfl
@[simp] theorem State.settleOwed_fabric (s : State) (n : Nat) (u : Actor) : (s.settleOwed n u).fabric = s.fabric := by
  unfold State.settleOwed; split <;> rfl
@[simp] theorem State.settleOwed_focus (s : State) (n : Nat) (u : Actor) : (s.settleOwed n u).focus = s.focus := by
  unfold State.settleOwed; split <;> rfl
@[simp] theorem State.settleOwed_agenda (s : State) (n : Nat) (u : Actor) : (s.settleOwed n u).agenda = s.agenda := by
  unfold State.settleOwed; split <;> rfl
@[simp] theorem State.settleOwed_held (s : State) (n : Nat) (u : Actor) : (s.settleOwed n u).held = s.held := by
  unfold State.settleOwed; split <;> rfl

/-! ### Traps -/

/-- A trap at trap level 0 of an item with a handler enters it; otherwise a TERM event is logged and the item's end is posted. -/
theorem State.takeTrap_handler {s : State} {t : TrapReq} {img : ImageInfo} (hi : s.core.image = some img) (hh : img.handler = true)
    (hl : s.core.tl = false) :
    s.takeTrap t = (s.withCore { s.core.enterTrap t img.trapvec with
      seq := { (s.core.enterTrap t img.trapvec).seq with ready := max s.core.seq.free (s.now + 1) } }).letGo := by
  unfold State.takeTrap
  simp [hi, hh, hl]

/-- A trap of the sequencer over empty queues is taken at once where the stall wire is not asserted. -/
theorem State.raise_empty {s : State} {t : TrapReq} (h : s.core.queuesEmpty = true) (hw : s.wire = false) : s.raise t = s.takeTrap t := by
  unfold State.raise; simp [h, hw]

/-- A trap of the sequencer that has to wait stands in its core, and nothing else changes. -/
theorem State.raise_waits {s : State} {t : TrapReq} (h : (s.core.queuesEmpty && !s.wire) = false) :
    s.raise t = s.withCore { s.core with seq := { s.core.seq with trap := some { t with wired := s.wire } } } := by
  unfold State.raise; simp [h]

/-! ### A step -/

/-- Trying actions ends in a state that is not held, or in what the continuation answers. -/
theorem tryMoves_held {k : State → Host.Outcome State Fault Refusal} (hk : ∀ s t, s.held = false → k s = .next t → t.held = false) :
    (ms : List Mover) → (s t : State) → s.held = false → tryMoves k ms s = .next t → t.held = false
  | [], s, t, hs, h => hk s t hs h
  | m :: ms, s, t, hs, h => by
    unfold tryMoves at h
    split at h
    · split at h
      · exact tryMoves_held hk ms s t hs h
      · rename_i u _ _
        cases hu : u.held
        · rw [hu] at h; simp at h; subst h; rfl
        · rw [hu] at h; simp at h; exact tryMoves_held hk ms _ t rfl h
    · cases h
    · cases h

theorem tryEvents_held {k : State → Host.Outcome State Fault Refusal} (hk : ∀ s t, s.held = false → k s = .next t → t.held = false) :
    (es : List Pending) → (s t : State) → s.held = false → tryEvents k es s = .next t → t.held = false
  | [], s, t, hs, h => hk s t hs h
  | e :: es, s, t, hs, h => by
    unfold tryEvents at h
    split at h
    · split at h
      · exact tryEvents_held hk es s t hs h
      · rename_i u _ _
        cases hu : u.held
        · rw [hu] at h; simp at h; subst h; exact hu
        · rw [hu] at h; simp at h; exact tryEvents_held hk es _ t rfl h
    · cases h
    · cases h

end Sys2Proof.Machine
end

