-- ==== Sys2Proof/Laws/Pages.lean ====
section
/-! SUPPORT. Copies and clears of whole pages and rows keep the canonical form of memory. -/

namespace Sys2Proof.Machine

/-- A store whose keys all stand below a bound, followed by one that starts there. -/
theorem keepBelow_wfFrom {w b : Nat} (k : Nat) : {m : Sparse w} → Sparse.wfFrom b m = true → Sparse.wfFrom b (keepBelow m k) = true
  | [], _ => rfl
  | (a, v) :: t, h => by
    simp only [Sparse.wfFrom, Bool.and_eq_true, decide_eq_true_eq] at h
    unfold keepBelow
    split
    · rfl
    · simp only [Sparse.wfFrom, Bool.and_eq_true, decide_eq_true_eq]
      exact ⟨h.1, keepBelow_wfFrom k h.2⟩

theorem keepBelow_lt {w : Nat} (k : Nat) : (m : Sparse w) → ∀ e ∈ keepBelow m k, e.1 < k
  | [], e, he => by simp [keepBelow] at he
  | (a, v) :: t, e, he => by
    unfold keepBelow at he
    split at he
    · simp at he
    · rcases List.mem_cons.1 he with rfl | he
      · simp; omega
      · exact keepBelow_lt k t e he

theorem wfFrom_le {w b : Nat} : {m : Sparse w} → Sparse.wfFrom b m = true → ∀ e ∈ m, b ≤ e.1
  | [], _, e, he => by simp at he
  | (a, v) :: t, h, e, he => by
    simp only [Sparse.wfFrom, Bool.and_eq_true, decide_eq_true_eq] at h
    rcases List.mem_cons.1 he with rfl | he
    · exact h.1.1
    · have := wfFrom_le h.2 e he; omega

/-- Two stores one behind the other. -/
theorem append_wfFrom {w b k : Nat} (hb : b ≤ k) {m' : Sparse w} (h' : Sparse.wfFrom k m' = true) :
    {m : Sparse w} → Sparse.wfFrom b m = true → (∀ e ∈ m, e.1 < k) → Sparse.wfFrom b (m ++ m') = true
  | [], _, _ => Sparse.wfFrom_mono hb h'
  | (a, v) :: t, h, hk => by
    simp only [Sparse.wfFrom, Bool.and_eq_true, decide_eq_true_eq] at h
    simp only [List.cons_append, Sparse.wfFrom, Bool.and_eq_true, decide_eq_true_eq]
    have ha : a < k := hk (a, v) (List.mem_cons_self ..)
    exact ⟨h.1, append_wfFrom (by omega) h' h.2 fun e he => hk e (List.mem_cons_of_mem _ he)⟩

/-- Moving every key of a store by the same distance. -/
theorem shift_wfFrom {w src dst : Nat} : {m : Sparse w} → {b : Nat} → src ≤ b → Sparse.wfFrom b m = true →
    Sparse.wfFrom (b - src + dst) (m.map fun e => (e.1 - src + dst, e.2)) = true
  | [], _, _, _ => rfl
  | (a, v) :: t, b, hb, h => by
    simp only [Sparse.wfFrom, Bool.and_eq_true, decide_eq_true_eq] at h
    simp only [List.map_cons, Sparse.wfFrom, Bool.and_eq_true, decide_eq_true_eq]
    have ih := shift_wfFrom (m := t) (b := a + 1) (src := src) (dst := dst) (by omega) h.2
    refine ⟨⟨by omega, h.1.2⟩, ?_⟩
    rwa [show a - src + dst + 1 = a + 1 - src + dst by omega]

theorem clearIn_wf {w : Nat} {m : Sparse w} (dst n : Nat) (h : m.wf = true) : (clearIn m dst n).wf = true :=
  append_wfFrom (Nat.zero_le dst) (Sparse.wfFrom_mono (by omega) (dropTo_wfFrom (b := 0) (dst + n) h)) (keepBelow_wfFrom dst h)
    (keepBelow_lt dst m)

theorem copyWithin_wf {w : Nat} {m : Sparse w} (src dst n : Nat) (h : m.wf = true) : (copyWithin m src dst n).wf = true := by
  have hs : Sparse.wfFrom src (sliceOf m src n) = true :=
    keepBelow_wfFrom _ (Sparse.wfFrom_mono (by omega) (dropTo_wfFrom (b := 0) src h))
  have hm := shift_wfFrom (dst := dst) (Nat.le_refl src) hs
  rw [show src - src + dst = dst by omega] at hm
  have hd : Sparse.wfFrom (dst + n) (dropTo m (dst + n)) = true :=
    Sparse.wfFrom_mono (by omega) (dropTo_wfFrom (b := 0) _ h)
  have ht : Sparse.wfFrom dst (((sliceOf m src n).map fun e => (e.1 - src + dst, e.2)) ++ dropTo m (dst + n)) = true := by
    refine append_wfFrom (by omega) hd hm ?_
    intro e he
    simp only [List.mem_map] at he
    obtain ⟨x, hx, rfl⟩ := he
    have h1 := keepBelow_lt (src + n) _ x hx
    have h2 := wfFrom_le hs x hx
    simp only
    omega
  have := append_wfFrom (Nat.zero_le dst) ht (keepBelow_wfFrom dst h) (keepBelow_lt dst m)
  simpa [copyWithin, Sparse.wf, List.append_assoc] using this

/-- Keeping some entries, or their halves, of a store. -/
theorem filter_wfFrom {w : Nat} (p : Nat × BitVec w → Bool) : {m : Sparse w} → {b : Nat} → Sparse.wfFrom b m = true →
    Sparse.wfFrom b (m.filter p) = true
  | [], _, _ => rfl
  | (a, v) :: t, b, h => by
    simp only [Sparse.wfFrom, Bool.and_eq_true, decide_eq_true_eq] at h
    have ih := filter_wfFrom p (m := t) h.2
    by_cases hp : p (a, v)
    · simp only [List.filter_cons, hp, if_true, Sparse.wfFrom, Bool.and_eq_true, decide_eq_true_eq]
      exact ⟨h.1, ih⟩
    · simp only [List.filter_cons, hp]
      exact Sparse.wfFrom_mono (by omega) ih

theorem MemorySystem.Wf.dropRow {m : MemorySystem} (h : m.Wf) (pa : Nat) (written : Bool) : (m.dropRow pa written).Wf :=
  ⟨h.dram, h.heat, filter_rising _ h.l2, filter_rising _ h.cistern⟩

theorem State.discardPage_wf {s : State} (h : s.mem.Wf) (page : Nat) : (s.discardPage page).mem.Wf :=
  ⟨h.dram, h.heat, filter_rising _ h.l2, filter_rising _ h.cistern⟩

theorem State.pageWritten_wf {s : State} (h : s.mem.Wf) (page : Nat) : (s.pageWritten page).mem.Wf :=
  ⟨h.dram, h.heat, filter_rising _ h.l2, filter_rising _ h.cistern⟩

/-- The heat counters keep their form when they are halved. -/
theorem halved_wfFrom : {m : Sparse 8} → {b : Nat} → Sparse.wfFrom b m = true →
    Sparse.wfFrom b ((m.map fun (e : Nat × BitVec 8) => (e.1, e.2 >>> 1)).filter fun e => e.2 != 0) = true
  | [], _, _ => rfl
  | (a, v) :: t, b, h => by
    simp only [Sparse.wfFrom, Bool.and_eq_true, decide_eq_true_eq] at h
    have ih := halved_wfFrom (m := t) h.2
    by_cases hv : (v >>> 1 != 0) = true
    · simp only [List.map_cons, List.filter_cons, hv, if_true, Sparse.wfFrom, Bool.and_eq_true, decide_eq_true_eq]
      exact ⟨⟨h.1.1, trivial⟩, ih⟩
    · simp only [List.map_cons, List.filter_cons, hv]
      exact Sparse.wfFrom_mono (by omega) ih

theorem Sparse.moveGranules_wf (old : Memory) : (gs : List (Nat × Nat)) → {m : Memory} → m.wf = true →
    (Sparse.moveGranules old gs m).wf = true
  | [], _, h => h
  | g :: gs, _, h => Sparse.moveGranules_wf old gs (pokeN_wf (w := 8) g.1 _ h)

/-- A byte that lies in no moved granule keeps its value. -/
theorem Sparse.moveGranules_peek (old : Memory) (a : Nat) : (gs : List (Nat × Nat)) → {m : Memory} → m.wf = true →
    (∀ g ∈ gs, a < g.1 ∨ g.1 + (peekN (w := 8) old g.2 16).length ≤ a) → peek (Sparse.moveGranules old gs m) a = peek m a
  | [], _, _, _ => rfl
  | g :: gs, m, h, hg => by
    have hw := pokeN_wf (w := 8) g.1 (peekN (w := 8) old g.2 16) h
    have ih := Sparse.moveGranules_peek old a gs hw fun g' h' => hg g' (List.mem_cons_of_mem _ h')
    have h1 := hg g List.mem_cons_self
    rw [show Sparse.moveGranules old (g :: gs) m =
      Sparse.moveGranules old gs (pokeN (w := 8) m g.1 (peekN (w := 8) old g.2 16)) from rfl, ih, peek_pokeN _ _ _ h]
    exact if_neg (by omega)

/-- Changing the row-intact register of a site keeps the canonical form of memory (R294). -/
theorem State.changeRegion_wf {s : State} (h : s.mem.Wf) (i : Fin 8) (r : Word) : (s.changeRegion i r).mem.Wf := by
  unfold State.changeRegion
  dsimp only
  split
  · exact h
  · exact ⟨Sparse.moveGranules_wf _ _ h.dram, h.heat, h.l2, h.cistern⟩

@[simp] theorem State.changeRegion_cores (s : State) (i : Fin 8) (r : Word) : (s.changeRegion i r).cores = s.cores := by
  unfold State.changeRegion
  dsimp only
  split <;> rfl

end Sys2Proof.Machine
end

