-- ==== Sys2Proof/Laws/PerInstr.lean ====
section
/-! SUPPORT. What holds of every instruction as syntax, one lemma per constructor: an instruction that has a word has it
under a major opcode that R76 gives to a group. -/

namespace Sys2Proof.Laws.MajorOpcode

/-- The major opcodes in use (R76). -/
def majors : List (BitVec 6) := [0, 1, 2, 3, 4, 5, 6, 7, 8, 9, 0xa, 0xc, 0x10, 0x11, 0x12, 0x13, 0x14, 0x15, 0x16, 0x20, 0x21, 0x22, 0x23, 0x24, 0x25, 0x26, 0x27, 0x28, 0x29, 0x30, 0x31, 0x32, 0x33, 0x38, 0x39]

/-- The word of an instruction, where it has one, lies under a major opcode in use. -/
def Statement (i : Instr) : Prop := ∀ w, encode i = some w → fld w 26 6 ∈ majors

theorem add (d a b : OpCode) : Statement (.add d a b) := by
  intro w h; cases h; simp [majors]
theorem sub (d a b : OpCode) : Statement (.sub d a b) := by
  intro w h; cases h; simp [majors]
theorem mul (d a b : OpCode) : Statement (.mul d a b) := by
  intro w h; cases h; simp [majors]
theorem mulh (d a b : OpCode) : Statement (.mulh d a b) := by
  intro w h; cases h; simp [majors]
theorem mulhu (d a b : OpCode) : Statement (.mulhu d a b) := by
  intro w h; cases h; simp [majors]
theorem div (d a b : OpCode) : Statement (.div d a b) := by
  intro w h; cases h; simp [majors]
theorem divu (d a b : OpCode) : Statement (.divu d a b) := by
  intro w h; cases h; simp [majors]
theorem rem (d a b : OpCode) : Statement (.rem d a b) := by
  intro w h; cases h; simp [majors]
theorem remu (d a b : OpCode) : Statement (.remu d a b) := by
  intro w h; cases h; simp [majors]
theorem and_ (d a b : OpCode) : Statement (.and_ d a b) := by
  intro w h; cases h; simp [majors]
theorem or_ (d a b : OpCode) : Statement (.or_ d a b) := by
  intro w h; cases h; simp [majors]
theorem xor_ (d a b : OpCode) : Statement (.xor_ d a b) := by
  intro w h; cases h; simp [majors]
theorem andn (d a b : OpCode) : Statement (.andn d a b) := by
  intro w h; cases h; simp [majors]
theorem shl (d a b : OpCode) : Statement (.shl d a b) := by
  intro w h; cases h; simp [majors]
theorem shr (d a b : OpCode) : Statement (.shr d a b) := by
  intro w h; cases h; simp [majors]
theorem sar (d a b : OpCode) : Statement (.sar d a b) := by
  intro w h; cases h; simp [majors]
theorem min_ (d a b : OpCode) : Statement (.min_ d a b) := by
  intro w h; cases h; simp [majors]
theorem max_ (d a b : OpCode) : Statement (.max_ d a b) := by
  intro w h; cases h; simp [majors]
theorem minu (d a b : OpCode) : Statement (.minu d a b) := by
  intro w h; cases h; simp [majors]
theorem maxu (d a b : OpCode) : Statement (.maxu d a b) := by
  intro w h; cases h; simp [majors]
theorem seq (d a b : OpCode) : Statement (.seq d a b) := by
  intro w h; cases h; simp [majors]
theorem sne (d a b : OpCode) : Statement (.sne d a b) := by
  intro w h; cases h; simp [majors]
theorem slt (d a b : OpCode) : Statement (.slt d a b) := by
  intro w h; cases h; simp [majors]
theorem sle (d a b : OpCode) : Statement (.sle d a b) := by
  intro w h; cases h; simp [majors]
theorem sltu (d a b : OpCode) : Statement (.sltu d a b) := by
  intro w h; cases h; simp [majors]
theorem sleu (d a b : OpCode) : Statement (.sleu d a b) := by
  intro w h; cases h; simp [majors]
theorem clz (d a : OpCode) : Statement (.clz d a) := by
  intro w h; cases h; simp [majors]
theorem popc (d a : OpCode) : Statement (.popc d a) := by
  intro w h; cases h; simp [majors]
theorem mov (d a : OpCode) : Statement (.mov d a) := by
  intro w h; cases h; simp [majors]
theorem bfx (d a b : OpCode) : Statement (.bfx d a b) := by
  intro w h; cases h; simp [majors]
theorem addi (d a : OpCode) (imm : BitVec 14) : Statement (.addi d a imm) := by
  intro w h; cases h; simp [majors]
theorem andi (d a : OpCode) (imm : BitVec 14) : Statement (.andi d a imm) := by
  intro w h; cases h; simp [majors]
theorem ori (d a : OpCode) (imm : BitVec 14) : Statement (.ori d a imm) := by
  intro w h; cases h; simp [majors]
theorem xori (d a : OpCode) (imm : BitVec 14) : Statement (.xori d a imm) := by
  intro w h; cases h; simp [majors]
theorem shli (d a : OpCode) (amount : BitVec 6) : Statement (.shli d a amount) := by
  intro w h; cases h; simp [majors]
theorem shri (d a : OpCode) (amount : BitVec 6) : Statement (.shri d a amount) := by
  intro w h; cases h; simp [majors]
theorem sari (d a : OpCode) (amount : BitVec 6) : Statement (.sari d a amount) := by
  intro w h; cases h; simp [majors]
theorem slti (d a : OpCode) (imm : BitVec 14) : Statement (.slti d a imm) := by
  intro w h; cases h; simp [majors]
theorem sltiu (d a : OpCode) (imm : BitVec 14) : Statement (.sltiu d a imm) := by
  intro w h; cases h; simp [majors]
theorem lui (d : OpCode) (imm : BitVec 20) : Statement (.lui d imm) := by
  intro w h; cases h; simp [majors]
theorem fadd (d a b : OpCode) : Statement (.fadd d a b) := by
  intro w h; cases h; simp [majors]
theorem fsub (d a b : OpCode) : Statement (.fsub d a b) := by
  intro w h; cases h; simp [majors]
theorem fmul (d a b : OpCode) : Statement (.fmul d a b) := by
  intro w h; cases h; simp [majors]
theorem fdiv (d a b : OpCode) : Statement (.fdiv d a b) := by
  intro w h; cases h; simp [majors]
theorem fsqrt (d a : OpCode) : Statement (.fsqrt d a) := by
  intro w h; cases h; simp [majors]
theorem fmin (d a b : OpCode) : Statement (.fmin d a b) := by
  intro w h; cases h; simp [majors]
theorem fmax (d a b : OpCode) : Statement (.fmax d a b) := by
  intro w h; cases h; simp [majors]
theorem fabs (d a : OpCode) : Statement (.fabs d a) := by
  intro w h; cases h; simp [majors]
theorem fneg (d a : OpCode) : Statement (.fneg d a) := by
  intro w h; cases h; simp [majors]
theorem feq (d a b : OpCode) : Statement (.feq d a b) := by
  intro w h; cases h; simp [majors]
theorem flt (d a b : OpCode) : Statement (.flt d a b) := by
  intro w h; cases h; simp [majors]
theorem fle (d a b : OpCode) : Statement (.fle d a b) := by
  intro w h; cases h; simp [majors]
theorem fcvtfi (d a : OpCode) : Statement (.fcvtfi d a) := by
  intro w h; cases h; simp [majors]
theorem fcvtif (d a : OpCode) : Statement (.fcvtif d a) := by
  intro w h; cases h; simp [majors]
theorem branch (disp : BitVec 16) : Statement (.branch disp) := by
  intro w h; cases h; simp [majors]
theorem branchCond (cond : BitVec 4) (a : OpCode) (disp : BitVec 16) : Statement (.branchCond cond a disp) := by
  intro w h; cases h; simp [majors]
theorem call (disp : BitVec 20) : Statement (.call disp) := by
  intro w h; cases h; simp [majors]
theorem jr (a : OpCode) : Statement (.jr a) := by
  intro w h; cases h; simp [majors]
theorem loop (level : BitVec 2) (count : OpCode) (body : BitVec 10) : Statement (.loop level count body) := by
  intro w h; cases h; simp [majors]
theorem loopEnd (lastWord : Nat) : Statement (.loopEnd lastWord) := by
  intro w h; cases h
theorem srr (d : OpCode) (reg : BitVec 14) : Statement (.srr d reg) := by
  intro w h; cases h; simp [majors]
theorem srw (a : OpCode) (reg : BitVec 14) : Statement (.srw a reg) := by
  intro w h; cases h; simp [majors]
theorem trap (code : BitVec 14) : Statement (.trap code) := by
  intro w h; cases h; simp [majors]
theorem safept (n : BitVec 6) : Statement (.safept n) := by
  intro w h; cases h; simp [majors]
theorem waitsc (a : OpCode) (k : BitVec 14) : Statement (.waitsc a k) := by
  intro w h; cases h; simp [majors]
theorem brk (code : BitVec 14) : Statement (.brk code) := by
  intro w h; cases h; simp [majors]
theorem inj (a : OpCode) (kind : BitVec 2) (target : BitVec 4) : Statement (.inj a kind target) := by
  intro w h; cases h; simp [majors]
theorem amov (wn sn : Bool) (a : BitVec 4) (s : OpCode) : Statement (.amov wn sn a s) := by
  intro w h; cases h; simp [majors]
theorem aadd (wn sn : Bool) (a : BitVec 4) (s : OpCode) : Statement (.aadd wn sn a s) := by
  intro w h; cases h; simp [majors]
theorem aaddi (wn sn : Bool) (a : BitVec 4) (imm : BitVec 14) : Statement (.aaddi wn sn a imm) := by
  intro w h; cases h; simp [majors]
theorem aget (wn sn : Bool) (a : BitVec 4) : Statement (.aget wn sn a) := by
  intro w h; cases h; simp [majors]
theorem ldB (wn sn : Bool) (a : BitVec 4) (s : OpCode) (imm : BitVec 8) : Statement (.ldB wn sn a s imm) := by
  intro w h; cases h; simp [majors]
theorem ldBu (wn sn : Bool) (a : BitVec 4) (s : OpCode) (imm : BitVec 8) : Statement (.ldBu wn sn a s imm) := by
  intro w h; cases h; simp [majors]
theorem ldH (wn sn : Bool) (a : BitVec 4) (s : OpCode) (imm : BitVec 8) : Statement (.ldH wn sn a s imm) := by
  intro w h; cases h; simp [majors]
theorem ldHu (wn sn : Bool) (a : BitVec 4) (s : OpCode) (imm : BitVec 8) : Statement (.ldHu wn sn a s imm) := by
  intro w h; cases h; simp [majors]
theorem ldW (wn sn : Bool) (a : BitVec 4) (s : OpCode) (imm : BitVec 8) : Statement (.ldW wn sn a s imm) := by
  intro w h; cases h; simp [majors]
theorem ldWu (wn sn : Bool) (a : BitVec 4) (s : OpCode) (imm : BitVec 8) : Statement (.ldWu wn sn a s imm) := by
  intro w h; cases h; simp [majors]
theorem ldD (wn sn : Bool) (a : BitVec 4) (s : OpCode) (imm : BitVec 8) : Statement (.ldD wn sn a s imm) := by
  intro w h; cases h; simp [majors]
theorem ldroW (wn sn : Bool) (a : BitVec 4) (s : OpCode) (imm : BitVec 8) : Statement (.ldroW wn sn a s imm) := by
  intro w h; cases h; simp [majors]
theorem ldroD (wn sn : Bool) (a : BitVec 4) (s : OpCode) (imm : BitVec 8) : Statement (.ldroD wn sn a s imm) := by
  intro w h; cases h; simp [majors]
theorem ldxW (wn sn : Bool) (a : BitVec 4) (s : OpCode) (imm : BitVec 8) : Statement (.ldxW wn sn a s imm) := by
  intro w h; cases h; simp [majors]
theorem ldxD (wn sn : Bool) (a : BitVec 4) (s : OpCode) (imm : BitVec 8) : Statement (.ldxD wn sn a s imm) := by
  intro w h; cases h; simp [majors]
theorem lv (wn sn : Bool) (row col : BitVec 5) (h1 w1 : BitVec 3) (a : BitVec 4) : Statement (.lv wn sn row col h1 w1 a) := by
  intro w h; cases h; simp [majors]
theorem mld (wn sn : Bool) (feed : BitVec 2) (a : BitVec 4) (s : OpCode) : Statement (.mld wn sn feed a s) := by
  intro w h; cases h; simp [majors]
theorem pset (wn sn : Bool) (a : BitVec 4) (port : BitVec 3) (imm : BitVec 8) : Statement (.pset wn sn a port imm) := by
  intro w h; cases h; simp [majors]
theorem cbset (wn sn : Bool) (a : BitVec 4) (buf : BitVec 4) (imm : BitVec 8) : Statement (.cbset wn sn a buf imm) := by
  intro w h; cases h; simp [majors]
theorem tdef (wn sn : Bool) (tmpl : BitVec 6) (count : BitVec 8) : Statement (.tdef wn sn tmpl count) := by
  intro w h; cases h; simp [majors]
theorem bind (wn sn : Bool) (a : BitVec 4) (entry : BitVec 6) (imm : BitVec 8) : Statement (.bind wn sn a entry imm) := by
  intro w h; cases h; simp [majors]
theorem unbind (wn sn : Bool) (entry : BitVec 6) : Statement (.unbind wn sn entry) := by
  intro w h; cases h; simp [majors]
theorem fence (wn sn : Bool) (inv : Bool) (scope : BitVec 2) : Statement (.fence wn sn inv scope) := by
  intro w h; cases h; simp [majors]
theorem roinv (wn sn : Bool) : Statement (.roinv wn sn) := by
  intro w h; cases h; simp [majors]
theorem roinvRange (wn sn : Bool) (a : BitVec 4) (s : OpCode) : Statement (.roinvRange wn sn a s) := by
  intro w h; cases h; simp [majors]
theorem acq (wn sn : Bool) (a : BitVec 4) (s : OpCode) (scope : BitVec 2) : Statement (.acq wn sn a s scope) := by
  intro w h; cases h; simp [majors]
theorem clean (wn sn : Bool) (a : BitVec 4) (s : OpCode) (scope : BitVec 2) : Statement (.clean wn sn a s scope) := by
  intro w h; cases h; simp [majors]
theorem pf (wn sn : Bool) (a : BitVec 4) (s : OpCode) (target : BitVec 2) : Statement (.pf wn sn a s target) := by
  intro w h; cases h; simp [majors]
theorem tbinit (wn sn : Bool) (a : BitVec 4) (s : OpCode) (imm : BitVec 8) : Statement (.tbinit wn sn a s imm) := by
  intro w h; cases h; simp [majors]
theorem tbarr (wn sn : Bool) (a : BitVec 4) (imm : BitVec 8) : Statement (.tbarr wn sn a imm) := by
  intro w h; cases h; simp [majors]
theorem tbexp (wn sn : Bool) (a : BitVec 4) (s : OpCode) (imm : BitVec 8) : Statement (.tbexp wn sn a s imm) := by
  intro w h; cases h; simp [majors]
theorem tbarrexp (wn sn : Bool) (a : BitVec 4) (s : OpCode) (imm : BitVec 8) : Statement (.tbarrexp wn sn a s imm) := by
  intro w h; cases h; simp [majors]
theorem tbwait (wn sn : Bool) (a : BitVec 4) (s : OpCode) (imm : BitVec 8) : Statement (.tbwait wn sn a s imm) := by
  intro w h; cases h; simp [majors]
theorem tbtest (wn sn : Bool) (a : BitVec 4) (imm : BitVec 8) : Statement (.tbtest wn sn a imm) := by
  intro w h; cases h; simp [majors]
theorem amoAdd (wn sn : Bool) (a : BitVec 4) (s : OpCode) (size : Bool) (scope : BitVec 2) (acq rel ord : Bool) : Statement (.amoAdd wn sn a s size scope acq rel ord) := by
  intro w h; cases h; simp [majors]
theorem amoAnd (wn sn : Bool) (a : BitVec 4) (s : OpCode) (size : Bool) (scope : BitVec 2) (acq rel ord : Bool) : Statement (.amoAnd wn sn a s size scope acq rel ord) := by
  intro w h; cases h; simp [majors]
theorem amoOr (wn sn : Bool) (a : BitVec 4) (s : OpCode) (size : Bool) (scope : BitVec 2) (acq rel ord : Bool) : Statement (.amoOr wn sn a s size scope acq rel ord) := by
  intro w h; cases h; simp [majors]
theorem amoXor (wn sn : Bool) (a : BitVec 4) (s : OpCode) (size : Bool) (scope : BitVec 2) (acq rel ord : Bool) : Statement (.amoXor wn sn a s size scope acq rel ord) := by
  intro w h; cases h; simp [majors]
theorem amoMin (wn sn : Bool) (a : BitVec 4) (s : OpCode) (size : Bool) (scope : BitVec 2) (acq rel ord : Bool) : Statement (.amoMin wn sn a s size scope acq rel ord) := by
  intro w h; cases h; simp [majors]
theorem amoMax (wn sn : Bool) (a : BitVec 4) (s : OpCode) (size : Bool) (scope : BitVec 2) (acq rel ord : Bool) : Statement (.amoMax wn sn a s size scope acq rel ord) := by
  intro w h; cases h; simp [majors]
theorem amoMinu (wn sn : Bool) (a : BitVec 4) (s : OpCode) (size : Bool) (scope : BitVec 2) (acq rel ord : Bool) : Statement (.amoMinu wn sn a s size scope acq rel ord) := by
  intro w h; cases h; simp [majors]
theorem amoMaxu (wn sn : Bool) (a : BitVec 4) (s : OpCode) (size : Bool) (scope : BitVec 2) (acq rel ord : Bool) : Statement (.amoMaxu wn sn a s size scope acq rel ord) := by
  intro w h; cases h; simp [majors]
theorem amoSwap (wn sn : Bool) (a : BitVec 4) (s : OpCode) (size : Bool) (scope : BitVec 2) (acq rel ord : Bool) : Statement (.amoSwap wn sn a s size scope acq rel ord) := by
  intro w h; cases h; simp [majors]
theorem amoFadd (wn sn : Bool) (a : BitVec 4) (s : OpCode) (scope : BitVec 2) (acq rel ord : Bool) : Statement (.amoFadd wn sn a s scope acq rel ord) := by
  intro w h; cases h; simp [majors]
theorem amoFmin (wn sn : Bool) (a : BitVec 4) (s : OpCode) (scope : BitVec 2) (acq rel ord : Bool) : Statement (.amoFmin wn sn a s scope acq rel ord) := by
  intro w h; cases h; simp [majors]
theorem amoFmax (wn sn : Bool) (a : BitVec 4) (s : OpCode) (scope : BitVec 2) (acq rel ord : Bool) : Statement (.amoFmax wn sn a s scope acq rel ord) := by
  intro w h; cases h; simp [majors]
theorem cas (wn sn : Bool) (a : BitVec 4) (s new : OpCode) (size : Bool) : Statement (.cas wn sn a s new size) := by
  intro w h; cases h; simp [majors]
theorem tagnew (wn sn : Bool) : Statement (.tagnew wn sn) := by
  intro w h; cases h; simp [majors]
theorem tagnewNb (wn sn : Bool) : Statement (.tagnewNb wn sn) := by
  intro w h; cases h; simp [majors]
theorem tagret (wn sn : Bool) (s : OpCode) (wait : Bool) : Statement (.tagret wn sn s wait) := by
  intro w h; cases h; simp [majors]
theorem ctxset (wn sn : Bool) (s : OpCode) : Statement (.ctxset wn sn s) := by
  intro w h; cases h; simp [majors]
theorem xtagset (wn sn : Bool) (s : OpCode) : Statement (.xtagset wn sn s) := by
  intro w h; cases h; simp [majors]
theorem stB (wp sp : Bool) (a : BitVec 4) (s : OpCode) (imm : BitVec 8) : Statement (.stB wp sp a s imm) := by
  intro w h; cases h; simp [majors]
theorem stH (wp sp : Bool) (a : BitVec 4) (s : OpCode) (imm : BitVec 8) : Statement (.stH wp sp a s imm) := by
  intro w h; cases h; simp [majors]
theorem stW (wp sp : Bool) (a : BitVec 4) (s : OpCode) (imm : BitVec 8) : Statement (.stW wp sp a s imm) := by
  intro w h; cases h; simp [majors]
theorem stD (wp sp : Bool) (a : BitVec 4) (s : OpCode) (imm : BitVec 8) : Statement (.stD wp sp a s imm) := by
  intro w h; cases h; simp [majors]
theorem relD (wp sp : Bool) (a : BitVec 4) (s : OpCode) (scope : BitVec 2) : Statement (.relD wp sp a s scope) := by
  intro w h; cases h; simp [majors]
theorem sv (wp sp : Bool) (row col : BitVec 5) (h1 w1 : BitVec 3) (a : BitVec 4) : Statement (.sv wp sp row col h1 w1 a) := by
  intro w h; cases h; simp [majors]
theorem stxW (wp sp : Bool) (a : BitVec 4) (s : OpCode) (imm : BitVec 8) : Statement (.stxW wp sp a s imm) := by
  intro w h; cases h; simp [majors]
theorem stxD (wp sp : Bool) (a : BitVec 4) (s : OpCode) (imm : BitVec 8) : Statement (.stxD wp sp a s imm) := by
  intro w h; cases h; simp [majors]
theorem rowcopy (wp sp : Bool) (a : BitVec 4) (imm : BitVec 8) : Statement (.rowcopy wp sp a imm) := by
  intro w h; cases h; simp [majors]
theorem rowfill (wp sp : Bool) (a : BitVec 4) (imm : BitVec 8) : Statement (.rowfill wp sp a imm) := by
  intro w h; cases h; simp [majors]
theorem rowand (wp sp : Bool) (a : BitVec 4) (imm : BitVec 8) : Statement (.rowand wp sp a imm) := by
  intro w h; cases h; simp [majors]
theorem rowor (wp sp : Bool) (a : BitVec 4) (imm : BitVec 8) : Statement (.rowor wp sp a imm) := by
  intro w h; cases h; simp [majors]
theorem rowxor (wp sp : Bool) (a : BitVec 4) (imm : BitVec 8) : Statement (.rowxor wp sp a imm) := by
  intro w h; cases h; simp [majors]
theorem rownot (wp sp : Bool) (a : BitVec 4) (imm : BitVec 8) : Statement (.rownot wp sp a imm) := by
  intro w h; cases h; simp [majors]
theorem rowmaj (wp sp : Bool) (a : BitVec 4) (imm : BitVec 8) : Statement (.rowmaj wp sp a imm) := by
  intro w h; cases h; simp [majors]
theorem patch (tmpl : BitVec 6) (field : BitVec 4) (value : BitVec 16) : Statement (.patch tmpl field value) := by
  intro w h; cases h; simp [majors]
theorem tx (wp wn sp sn : Bool) (tmpl : BitVec 6) (rep1 : BitVec 8) : Statement (.tx wp wn sp sn tmpl rep1) := by
  intro w h; cases h; simp [majors]
theorem vadd (op : WideOp) : Statement (.vadd op) := by
  intro w h; cases h
theorem vsub (op : WideOp) : Statement (.vsub op) := by
  intro w h; cases h
theorem vmul (op : WideOp) : Statement (.vmul op) := by
  intro w h; cases h
theorem vfma (op : WideOp) : Statement (.vfma op) := by
  intro w h; cases h
theorem vfms (op : WideOp) : Statement (.vfms op) := by
  intro w h; cases h
theorem vmin (op : WideOp) : Statement (.vmin op) := by
  intro w h; cases h
theorem vmax (op : WideOp) : Statement (.vmax op) := by
  intro w h; cases h
theorem vabs (op : WideOp) : Statement (.vabs op) := by
  intro w h; cases h
theorem vneg (op : WideOp) : Statement (.vneg op) := by
  intro w h; cases h
theorem vrcp (op : WideOp) : Statement (.vrcp op) := by
  intro w h; cases h
theorem vrsqrt (op : WideOp) : Statement (.vrsqrt op) := by
  intro w h; cases h
theorem vsqrt (op : WideOp) : Statement (.vsqrt op) := by
  intro w h; cases h
theorem vexp2 (op : WideOp) : Statement (.vexp2 op) := by
  intro w h; cases h
theorem vlog2 (op : WideOp) : Statement (.vlog2 op) := by
  intro w h; cases h
theorem vtanh (op : WideOp) : Statement (.vtanh op) := by
  intro w h; cases h
theorem vscale (op : WideOp) : Statement (.vscale op) := by
  intro w h; cases h
theorem viadd (op : WideOp) : Statement (.viadd op) := by
  intro w h; cases h
theorem visub (op : WideOp) : Statement (.visub op) := by
  intro w h; cases h
theorem vimul (op : WideOp) : Statement (.vimul op) := by
  intro w h; cases h
theorem vand (op : WideOp) : Statement (.vand op) := by
  intro w h; cases h
theorem vor (op : WideOp) : Statement (.vor op) := by
  intro w h; cases h
theorem vxor (op : WideOp) : Statement (.vxor op) := by
  intro w h; cases h
theorem vnot (op : WideOp) : Statement (.vnot op) := by
  intro w h; cases h
theorem vshl (op : WideOp) : Statement (.vshl op) := by
  intro w h; cases h
theorem vshr (op : WideOp) : Statement (.vshr op) := by
  intro w h; cases h
theorem vsar (op : WideOp) : Statement (.vsar op) := by
  intro w h; cases h
theorem vimin (op : WideOp) : Statement (.vimin op) := by
  intro w h; cases h
theorem vimax (op : WideOp) : Statement (.vimax op) := by
  intro w h; cases h
theorem viminu (op : WideOp) : Statement (.viminu op) := by
  intro w h; cases h
theorem vimaxu (op : WideOp) : Statement (.vimaxu op) := by
  intro w h; cases h
theorem vcmp (op : WideOp) : Statement (.vcmp op) := by
  intro w h; cases h
theorem vsel (op : WideOp) : Statement (.vsel op) := by
  intro w h; cases h
theorem vrsum (op : WideOp) : Statement (.vrsum op) := by
  intro w h; cases h
theorem vrmax (op : WideOp) : Statement (.vrmax op) := by
  intro w h; cases h
theorem vrmin (op : WideOp) : Statement (.vrmin op) := by
  intro w h; cases h
theorem vcsum (op : WideOp) : Statement (.vcsum op) := by
  intro w h; cases h
theorem vmov (op : WideOp) : Statement (.vmov op) := by
  intro w h; cases h
theorem vbcast (op : WideOp) : Statement (.vbcast op) := by
  intro w h; cases h
theorem vext (op : WideOp) : Statement (.vext op) := by
  intro w h; cases h
theorem vins (op : WideOp) : Statement (.vins op) := by
  intro w h; cases h
theorem viota (op : WideOp) : Statement (.viota op) := by
  intro w h; cases h
theorem vperm (op : WideOp) : Statement (.vperm op) := by
  intro w h; cases h
theorem vcompact (op : WideOp) : Statement (.vcompact op) := by
  intro w h; cases h
theorem vtrans (op : WideOp) : Statement (.vtrans op) := by
  intro w h; cases h
theorem vcvt (op : WideOp) : Statement (.vcvt op) := by
  intro w h; cases h
theorem vq4 (op : WideOp) : Statement (.vq4 op) := by
  intro w h; cases h
theorem vdq4 (op : WideOp) : Statement (.vdq4 op) := by
  intro w h; cases h
theorem mzero (op : WideOp) : Statement (.mzero op) := by
  intro w h; cases h
theorem mload (op : WideOp) : Statement (.mload op) := by
  intro w h; cases h
theorem mma (op : WideOp) : Statement (.mma op) := by
  intro w h; cases h
theorem mdrain (op : WideOp) : Statement (.mdrain op) := by
  intro w h; cases h
theorem mchol (op : WideOp) : Statement (.mchol op) := by
  intro w h; cases h
theorem mlu (op : WideOp) : Statement (.mlu op) := by
  intro w h; cases h
theorem mqr (op : WideOp) : Statement (.mqr op) := by
  intro w h; cases h
theorem mtrs (op : WideOp) : Statement (.mtrs op) := by
  intro w h; cases h
theorem mshift (op : WideOp) : Statement (.mshift op) := by
  intro w h; cases h
theorem mpiv (op : WideOp) : Statement (.mpiv op) := by
  intro w h; cases h
theorem wideOpCompletion (core : Fin 96) (serial : Nat) : Statement (.wideOpCompletion core serial) := by
  intro w h; cases h
theorem termination (core : Fin 96) (status detail : Byte) : Statement (.termination core status detail) := by
  intro w h; cases h
theorem interruptRequest (core : Fin 96) (value : Bool) : Statement (.interruptRequest core value) := by
  intro w h; cases h
theorem preemptionRequest (core : Fin 96) (value : Bool) : Statement (.preemptionRequest core value) := by
  intro w h; cases h
theorem accessedFault (pte : Nat) : Statement (.accessedFault pte) := by
  intro w h; cases h
theorem dirtyFault (pte : Nat) : Statement (.dirtyFault pte) := by
  intro w h; cases h
theorem compressedFault (req : FaultReq) (pte : Nat) : Statement (.compressedFault req pte) := by
  intro w h; cases h
theorem materialisation (req : FaultReq) (pte : Nat) : Statement (.materialisation req pte) := by
  intro w h; cases h
theorem walkMiss (req : FaultReq) : Statement (.walkMiss req) := by
  intro w h; cases h
theorem pageRequest (req : FaultReq) (kind : BitVec 4) : Statement (.pageRequest req kind) := by
  intro w h; cases h
theorem pageRequestSuccess (rid gen : BitVec 16) : Statement (.pageRequestSuccess rid gen) := by
  intro w h; cases h
theorem pageRequestFailure (rid gen : BitVec 16) : Statement (.pageRequestFailure rid gen) := by
  intro w h; cases h
theorem doorbell (q : Fin 16) (tail : BitVec 32) : Statement (.doorbell q tail) := by
  intro w h; cases h
theorem launch (q : Fin 16) (cmd : Command) : Statement (.launch q cmd) := by
  intro w h; cases h
theorem coll (q : Fin 16) (cmd : Command) : Statement (.coll q cmd) := by
  intro w h; cases h
theorem waitGts (q : Fin 16) (cmd : Command) : Statement (.waitGts q cmd) := by
  intro w h; cases h
theorem waitWord (q : Fin 16) (cmd : Command) : Statement (.waitWord q cmd) := by
  intro w h; cases h
theorem waitQevent (q : Fin 16) (cmd : Command) : Statement (.waitQevent q cmd) := by
  intro w h; cases h
theorem signalStore (q : Fin 16) (cmd : Command) : Statement (.signalStore q cmd) := by
  intro w h; cases h
theorem signalAdd (q : Fin 16) (cmd : Command) : Statement (.signalAdd q cmd) := by
  intro w h; cases h
theorem phasefence (q : Fin 16) (cmd : Command) : Statement (.phasefence q cmd) := by
  intro w h; cases h
theorem arm (q : Fin 16) (cmd : Command) : Statement (.arm q cmd) := by
  intro w h; cases h
theorem disarm (q : Fin 16) (cmd : Command) : Statement (.disarm q cmd) := by
  intro w h; cases h
theorem marker (q : Fin 16) (cmd : Command) : Statement (.marker q cmd) := by
  intro w h; cases h
theorem copyStartWord (core : Fin 96) (chan : BitVec 4) (word : Word) : Statement (.copyStartWord core chan word) := by
  intro w h; cases h
theorem agentAccess (op : AgentOp) (addr : Nat) (bytes : List Byte) : Statement (.agentAccess op addr bytes) := by
  intro w h; cases h
theorem ownerHandling (err : ErrorReq) : Statement (.ownerHandling err) := by
  intro w h; cases h
theorem tagRetirement (tag : Tag) : Statement (.tagRetirement tag) := by
  intro w h; cases h
theorem tagretWrite (tag : Tag) : Statement (.tagretWrite tag) := by
  intro w h; cases h
theorem tivaInvalidate (va : Word) : Statement (.tivaInvalidate va) := by
  intro w h; cases h
theorem poolRegisterWrite (offset : Nat) (value : Word) : Statement (.poolRegisterWrite offset value) := by
  intro w h; cases h
theorem alert (site : Fin 8) (row : RowId) : Statement (.alert site row) := by
  intro w h; cases h
theorem strike (die : Fin 4) (zone : Fin 32) : Statement (.strike die zone) := by
  intro w h; cases h
theorem signatureMsg (coll : BitVec 16) (rank : Nat) (sig : Word) (bad : Bool) : Statement (.signatureMsg coll rank sig bad) := by
  intro w h; cases h
theorem runMsg (coll : BitVec 16) (msg : RunMsg) : Statement (.runMsg coll msg) := by
  intro w h; cases h
theorem ackMsg (coll : BitVec 16) (step : Nat) (k : Nat) : Statement (.ackMsg coll step k) := by
  intro w h; cases h
theorem endMsg (coll : BitVec 16) (step rank count : Nat) : Statement (.endMsg coll step rank count) := by
  intro w h; cases h
theorem flitForward (scheduled : Bool) (dest : BitVec 10) : Statement (.flitForward scheduled dest) := by
  intro w h; cases h
theorem siteJoin (site : Fin 8) (ok : Bool) : Statement (.siteJoin site ok) := by
  intro w h; cases h
theorem powerLimit (milliwatts hertz : Nat) : Statement (.powerLimit milliwatts hertz) := by
  intro w h; cases h
theorem wake (cause : WakeCause) : Statement (.wake cause) := by
  intro w h; cases h
theorem tolWrite (tol : BitVec 32) : Statement (.tolWrite tol) := by
  intro w h; cases h
theorem attestationRequest (addr : Word) : Statement (.attestationRequest addr) := by
  intro w h; cases h
theorem replayRelease (held : HeldChoice) : Statement (.replayRelease held) := by
  intro w h; cases h
theorem divergence (kind : BitVec 4) (obj : BitVec 40) : Statement (.divergence kind obj) := by
  intro w h; cases h
theorem registerWrite (offset : Nat) (value : Word) : Statement (.registerWrite offset value) := by
  intro w h; cases h
theorem illegalWord (word : IWord) : Statement (.illegalWord word) := by
  intro w h; cases h
theorem tierCommandWrite (site : Fin 8) (value : Word) : Statement (.tierCommandWrite site value) := by
  intro w h; cases h
theorem ret : Statement .ret := by
  intro w h; cases h; simp [majors]
theorem nop : Statement .nop := by
  intro w h; cases h; simp [majors]
theorem done : Statement .done := by
  intro w h; cases h; simp [majors]
theorem eret : Statement .eret := by
  intro w h; cases h; simp [majors]
theorem phb : Statement .phb := by
  intro w h; cases h; simp [majors]
theorem phc : Statement .phc := by
  intro w h; cases h; simp [majors]
theorem tokenPush : Statement .tokenPush := by
  intro w h; cases h
theorem trapEntry : Statement .trapEntry := by
  intro w h; cases h
theorem preemption : Statement .preemption := by
  intro w h; cases h
theorem resumption : Statement .resumption := by
  intro w h; cases h
theorem preemptionTimeout : Statement .preemptionTimeout := by
  intro w h; cases h
theorem errorClear : Statement .errorClear := by
  intro w h; cases h
theorem waitWordRead : Statement .waitWordRead := by
  intro w h; cases h
theorem priorityAging : Statement .priorityAging := by
  intro w h; cases h
theorem weirFire : Statement .weirFire := by
  intro w h; cases h
theorem pendingFiring : Statement .pendingFiring := by
  intro w h; cases h
theorem itemPlacement : Statement .itemPlacement := by
  intro w h; cases h
theorem gangPlacement : Statement .gangPlacement := by
  intro w h; cases h
theorem nextPhaseDispatch : Statement .nextPhaseDispatch := by
  intro w h; cases h
theorem itemLoad : Statement .itemLoad := by
  intro w h; cases h
theorem syncGroupStart : Statement .syncGroupStart := by
  intro w h; cases h
theorem go : Statement .go := by
  intro w h; cases h
theorem itemRetire : Statement .itemRetire := by
  intro w h; cases h
theorem copyCommand : Statement .copyCommand := by
  intro w h; cases h
theorem completionPop : Statement .completionPop := by
  intro w h; cases h
theorem rowCommand : Statement .rowCommand := by
  intro w h; cases h
theorem rowCompletionPop : Statement .rowCompletionPop := by
  intro w h; cases h
theorem calendarSlot : Statement .calendarSlot := by
  intro w h; cases h
theorem requestData : Statement .requestData := by
  intro w h; cases h
theorem patrol : Statement .patrol := by
  intro w h; cases h
theorem tagnewRead : Statement .tagnewRead := by
  intro w h; cases h
theorem tiallInvalidate : Statement .tiallInvalidate := by
  intro w h; cases h
theorem compressTier : Statement .compressTier := by
  intro w h; cases h
theorem moveTier : Statement .moveTier := by
  intro w h; cases h
theorem heatHalving : Statement .heatHalving := by
  intro w h; cases h
theorem refresh : Statement .refresh := by
  intro w h; cases h
theorem heartbeat : Statement .heartbeat := by
  intro w h; cases h
theorem takeover : Statement .takeover := by
  intro w h; cases h
theorem handBack : Statement .handBack := by
  intro w h; cases h
theorem phaseCommit : Statement .phaseCommit := by
  intro w h; cases h
theorem errorRecord : Statement .errorRecord := by
  intro w h; cases h
theorem transfer : Statement .transfer := by
  intro w h; cases h
theorem lostMsg : Statement .lostMsg := by
  intro w h; cases h
theorem abortMsg : Statement .abortMsg := by
  intro w h; cases h
theorem portUp : Statement .portUp := by
  intro w h; cases h
theorem portDown : Statement .portDown := by
  intro w h; cases h
theorem rootPortLinkDown : Statement .rootPortLinkDown := by
  intro w h; cases h
theorem resetDevice : Statement .resetDevice := by
  intro w h; cases h
theorem stage1 : Statement .stage1 := by
  intro w h; cases h
theorem stage2 : Statement .stage2 := by
  intro w h; cases h
theorem idleEntry : Statement .idleEntry := by
  intro w h; cases h
theorem waitGtsComplete : Statement .waitGtsComplete := by
  intro w h; cases h
theorem rootPortRetrain : Statement .rootPortRetrain := by
  intro w h; cases h
theorem attestationReport : Statement .attestationReport := by
  intro w h; cases h

end Sys2Proof.Laws.MajorOpcode
end

