-- ==== Sys2Proof/Tests/Slice0.lean ====
section
/-! SUPPORT. The model's own tests: words written out from the encodings of R71, well-formedness with an ill-formed term for each
check, single steps with results taken from the spec, and for each statement with hypotheses a state and operands that meet them. -/

namespace Sys2Proof.Tests

open Sys2Proof Sys2Proof.Machine

set_option Elab.async false

/-! ### Small states -/

/-- An image with a handler at 64, one live map and 64 templates. -/
def image : ImageInfo := { fetchImage with handler := true, trapvec := 64, lmcount := 1, tmcount := 64 }

/-- A core that runs an item at trap level 0 over empty queues. -/
def core : Core :=
  { Core.reset with
    status := .running, item := some fetchItem, image := some image, seq := { Core.reset.seq with mode := .run }
    arrays := { CoreArrays.empty with livemaps := [0] } }

/-- A state in full service in which `c` is core 0 and its unit `a` acts. -/
def stateOf (c : Core) (a : Actor) : State :=
  { State.reset with
    cores := State.reset.cores.set 0 c
    focus := { Focus.zero with actor := a }
    sites := State.reset.sites.map fun u => { u with joined := true }
    mgmt := { State.reset.mgmt with stage := .stage2 } }

/-- Core 0's sequencer acts. -/
def seqOf (c : Core) : State := stateOf c .seq

/-- An entry of a queue with its captured operands; the window of the scratchpad starts at address 0. -/
def entry (i : Instr) (caps : List Word) : QEntry :=
  { instr := i, word := wordOf i, caps := caps, base := 0, spbase := 1, landbase := 0, order := 0, ties := [], state := .waiting }

/-- `i` stands alone in the LQ or the SQ of core 0, whose unit acts. -/
def queued (lq : Bool) (c : Core) (i : Instr) (caps : List Word) : State :=
  stateOf (c.setSide lq [entry i caps]) (if lq then .lq else .sq)

/-- A core with s-registers 1 and 2 and address register 1 set. -/
def coreWith (x y a : Word) : Core := { core with sregs := (core.sregs.set 1 x).set 2 y, aregs := core.aregs.set 1 a }

/-- The next state of an answer, or a state to compare with. -/
def nextOf (a : Host.Outcome State Fault Refusal) : State :=
  match a with
  | .next s => s
  | .fault _ => State.reset
  | .refused _ => State.reset


/-! ### States that meet the hypotheses of the statements: words of the sequencer -/

theorem witness_DecodeOfEncode :
    Instr.wf (.ldxD false false 1 49 0) = true ∧ encode (.ldxD false false 1 49 0) = some 0x84287100 := by decide

theorem witness_EncodeOfDecode : decodeWord 0x84287100 = .ok (.ldxD false false 1 49 0) := by rfl

/-- Core 0 with `addi %s6, %s6, -1` at the pc. -/
def fetching : State := seqOf { core with arrays := { core.arrays with imem := poke [] 0 0x0461BFFF } }

theorem witness_StepRunsDecodedWord :
    fetching.held = false ∧ fetching.blocked = false ∧ (∀ e ∈ fetching.agenda, fetching.now < e.due) ∧ fetching.sluiceMoves = [] ∧
    fetching.walkerMoves = [] ∧ (∀ j : Fin 96, fetching.queueMoves j = []) ∧ (∀ j : Fin 96, j ≠ 0 → fetching.wordMoves j = []) ∧
    fetching.mgmt.idle < 2 ∧ (fetching.cores[0]).status = .running ∧
    (fetching.cores[0]).seq.mode = .run ∧ (fetching.cores[0]).seq.trap = none ∧ fetching.mayFetch 0 = true ∧
    (fetching.cores[0]).pc ≤ 262140 ∧
    (nextOf (exec (.addi 6 6 0x3FFF) { fetching with focus := { Focus.zero with core := 0, actor := .seq } })).held = false ∧
    (nextOf (exec (.addi 6 6 0x3FFF) { fetching with focus := { Focus.zero with core := 0, actor := .seq } })).blocked = false := by
  decide +kernel

theorem witness_StepRunsDecodedWord_word :
    decodeWord (peek (fetching.cores[0]).arrays.imem ((fetching.cores[0]).pc / 4)) = .ok (.addi 6 6 0x3FFF) := by rfl

theorem witness_OperandCodes :
    core.bank.loads = [] ∧ (core.setBank { core.bank with loads := [7, 8] }).bank.loads = [7, 8] ∧
    (0 : OpCode).toNat = 0 ∧ (31 : OpCode).toNat = 31 ∧ (32 : OpCode).toNat = 32 + 0 ∧ (47 : OpCode).toNat = 32 + 15 ∧
    54 ≤ (54 : OpCode).toNat ∧ 54 ≤ (63 : OpCode).toNat ∧ okDst 0 = true ∧ okDst 31 = true ∧ okDst 63 = true ∧
    core.readOperand 0 48 = .stall ∧ core.readOperand 0 49 = .ok [0] core ∧ core.readOperand 0 51 = .ok [BitVec.allOnes 64] core ∧
    (seqOf (core.setBank { core.bank with loads := [7, 8] })).core.bank.loads = [7, 8] ∧
    (seqOf (core.setBank { core.bank with loads := [7] })).core.bank.loads = [7] ∧ (seqOf core).actor = .seq ∧
    (seqOf core).mgmt.stage = .stage2 ∧ ((seqOf core).core.side true).length < 32 := by decide +kernel

/-- Two load returns feed one word: the earlier field takes the older (R72). -/
theorem test_older_first :
    (nextOf (exec (.sub 3 48 48) (seqOf (core.setBank { core.bank with loads := [7, 2] })))).core.sregs[(3 : Fin 32)] = 5 := by decide +kernel

theorem witness_IntegerWords :
    (∃ f, integerForm (.divu 5 1 2) = some (5, [1, 2], 18, f)) ∧ okDst 5 = true ∧ okDst 31 = true ∧ okDst 63 = true ∧
    (seqOf (coreWith 100 7 0)).core.readAll 0 [1, 2] = .ok [100, 7] (seqOf (coreWith 100 7 0)).core ∧
    (∃ f, integerForm (.lui 63 0x80000) = some (63, [], 1, f)) ∧
    (seqOf core).core.readAll 0 [] = .ok [] (seqOf core).core :=
  ⟨⟨_, rfl⟩, by decide +kernel, by decide +kernel, by decide +kernel, by decide +kernel, ⟨_, rfl⟩, by decide +kernel⟩

theorem witness_FloatWords :
    (∃ f, floatForm (.fdiv 0 1 2) = some (0, [1, 2], 12, f)) ∧ okDst 0 = true ∧
    (seqOf (coreWith 0x3F800000 0x40000000 0)).core.readAll 0 [1, 2] =
      .ok [0x3F800000, 0x40000000] (seqOf (coreWith 0x3F800000 0x40000000 0)).core :=
  ⟨⟨_, rfl⟩, by decide +kernel, by decide +kernel⟩

theorem witness_ResultWordStops :
    (∃ cost f, integerForm (.add 32 54 1) = some (32, [54, 1], cost, f)) ∧ (seqOf core).core.readAll 0 [54, 1] = .illegal ∧
    (∃ cost f, floatForm (.fadd 62 48 1) = some (62, [48, 1], cost, f)) ∧ (seqOf core).core.readAll 0 [48, 1] = .stall ∧
    (seqOf core).core.readAll 0 [1, 2] = .ok [0, 0] (seqOf core).core ∧ okDst 32 = false ∧ okDst 62 = false :=
  ⟨⟨_, _, rfl⟩, by decide +kernel, ⟨_, _, rfl⟩, by decide +kernel, by decide +kernel, by decide +kernel, by decide +kernel⟩

/-- A core in the body of one loop whose last word is the one at the pc. -/
def atEnd (rem : Nat) : Core :=
  { core with pc := 8, level0 := { (core.level0.setLoop 0 ⟨4, 8, rem⟩) with ldepth := 1 } }

theorem witness_Transfers :
    (seqOf core).core.atLoopEnd = false ∧ ((0 : Nat) : Int) = (seqOf core).core.pc + 4 + 4 * (0xFFFF : BitVec 16).toInt ∧
    ((262140 : Nat) : Int) = (seqOf { core with pc := 262136 }).core.pc + 4 + 4 * (0 : BitVec 16).toInt ∧ 262140 ≤ 262140 ∧
    (seqOf core).core.readAll 0 [50] = .ok [1] (seqOf core).core ∧ condHolds 2 1 = true ∧ condHolds 1 1 = false ∧
    (seqOf (coreWith 262140 0 0)).core.readAll 0 [1] = .ok [262140] (seqOf (coreWith 262140 0 0)).core ∧ 262140 % 4 = 0 ∧
    ((4 : Nat) : Int) = (seqOf core).core.pc + 4 + 4 * (0 : BitVec 20).toInt ∧ (seqOf core).core.level.rs.length < 16 ∧
    (seqOf { core with level0 := { core.level0 with rs := [12] } }).core.level.rs = [12] ∧
    (seqOf (atEnd 2)).core.atLoopEnd = true ∧
    ((seqOf core).core.pc : Int) + 4 + 4 * (0xFFFE : BitVec 16).toInt < 0 ∧
    262140 < ((seqOf { core with pc := 262140 }).core.pc : Int) + 4 + 4 * (0 : BitVec 16).toInt ∧
    (seqOf (coreWith 2 0 0)).core.readAll 0 [1] = .ok [2] (seqOf (coreWith 2 0 0)).core ∧ (2 : Word).toNat % 4 ≠ 0 ∧
    (seqOf (coreWith 262144 0 0)).core.readAll 0 [1] = .ok [262144] (seqOf (coreWith 262144 0 0)).core ∧ 262140 < (262144 : Word).toNat ∧
    (0 ≤ ((seqOf core).core.pc : Int) + 4 + 4 * (0 : BitVec 20).toInt ∧
      ((seqOf core).core.pc : Int) + 4 + 4 * (0 : BitVec 20).toInt ≤ 262140) ∧
    16 ≤ (seqOf { core with level0 := { core.level0 with rs := List.replicate 16 4 } }).core.level.rs.length ∧
    (seqOf core).core.level.rs = [] := by decide +kernel

/-- Two nested loops, the inner one's body inside the outer one's. -/
def nested : SeqLevel := { ((core.level0.setLoop 0 ⟨4, 16, 2⟩).setLoop 1 ⟨8, 12, 1⟩) with ldepth := 2 }

/-- A transfer from the inner body to the outer one leaves the inner level, one inside the inner body none (R106). -/
theorem witness_Transfers_leave :
    (1 < nested.ldepth ∧ nested.inBody 1 8 ∧ ¬ nested.inBody 1 16 ∧ ∀ j, j < 1 → nested.inBody j 8 → nested.inBody j 16) ∧
    (∀ k, k < nested.ldepth → nested.inBody k 12 → nested.inBody k 8) := by
  refine ⟨⟨by decide, by unfold SeqLevel.inBody; decide, by unfold SeqLevel.inBody; decide, ?_⟩, ?_⟩
  · intro j hj _
    have : j = 0 := by omega
    subst this; unfold SeqLevel.inBody; decide
  · intro k hk _
    have hd : nested.ldepth = 2 := by decide
    have : k = 0 ∨ k = 1 := by omega
    rcases this with rfl | rfl <;> (unfold SeqLevel.inBody; decide)

theorem witness_LoopWords :
    ((seqOf (coreWith 3 0 0)).core.atLoopEnd = false ∧
      (seqOf (coreWith 3 0 0)).core.readAll 0 [1] = .ok [3] (seqOf (coreWith 3 0 0)).core ∧
      (0 : BitVec 2).toNat = (seqOf (coreWith 3 0 0)).core.level.ldepth ∧ (3 : Word).toNat < 2 ^ 32 ∧
      (seqOf (coreWith 3 0 0)).core.pc + 4 * (2 : BitVec 10).toNat ≤ 262140 ∧ (3 : Word) ≠ 0) ∧
    (∀ k, (seqOf (coreWith 3 0 0)).core.level.ldepth = k + 1 → False) ∧
    ((seqOf core).core.readAll 0 [49] = .ok [0] (seqOf core).core ∧
      (0 : BitVec 2).toNat = (seqOf core).core.level.ldepth) ∧
    (core.level0.ldepth ≤ 4 ∧ core.level0.ldepth = 0) ∧
    ((atEnd 2).level0.ldepth = 0 + 1 ∧ ((atEnd 2).level0.loopAt 0).last = 8 ∧ 1 < ((atEnd 2).level0.loopAt 0).rem ∧
      ((atEnd 2).level0.loopAt 0).last ≠ 4 ∧ ((atEnd 1).level0.loopAt 0).rem ≤ 1 ∧ (atEnd 1).level0.ldepth = 1) ∧
    (nested.ldepth ≤ 4 ∧ nested.ldepth = 0 + 2 ∧ (nested.loopAt (0 + 1)).last = 12 ∧ (nested.loopAt (0 + 1)).rem ≤ 1 ∧
      (nested.loopAt 0).last ≠ 12) := by
  refine ⟨by decide +kernel, ?_, by decide +kernel, by decide +kernel, by decide +kernel, by decide +kernel⟩
  intro k h
  have : (seqOf (coreWith 3 0 0)).core.level.ldepth = 0 := by decide +kernel
  omega

theorem witness_SystemRegisterRead :
    (seqOf core).sysReg (0x30 : BitVec 14).toNat = some (seqOf core).core.factor.fcol ∧
    (seqOf core).core.readStalls (0x30 : BitVec 14).toNat = false ∧ okDst 1 = true ∧
    (seqOf { core with queues := { core.queues with cq := [entry .nop []] } }).core.queues.cq ≠ [] ∧
    (seqOf { core with queues := { core.queues with lq := [entry .nop []] } }).core.queues.lq ≠ [] ∧
    (seqOf core).sysReg (0x3FFF : BitVec 14).toNat = none := by decide +kernel

theorem witness_SystemRegisterWrite :
    (seqOf (coreWith 5 0 0)).core.readAll 0 [1] = .ok [5] (seqOf (coreWith 5 0 0)).core ∧
    (∀ n ∈ [0x10, 0x31, 0x34, 0x41, 0x42, 0x43], (coreWith 5 0 0).writeStalls n 5 = false ∧ sysAccess n = .rw) ∧
    (∀ n ∈ [0x22, 0x24, 0x25, 0x26, 0x27, 0x38], (coreWith 5 0 0).writeStalls n 5 = false ∧ sysAccess n = .trapLevel) ∧
    (seqOf { coreWith 5 0 0 with tl := true }).core.tl = true ∧ (seqOf core).core.tl = false ∧
    sysAccess 0x02 = .ro ∧ sysAccess 0x05 = .absent ∧
    (seqOf { coreWith 5 0 0 with queues := { core.queues with cq := [entry .nop []] } }).core.queues.cq ≠ [] ∧
    ((5 : Word).getLsbD 0 ≠ core.chk ∧
      (seqOf { coreWith 5 0 0 with queues := { core.queues with sq := [entry .nop []] } }).core.queuesEmpty = false) := by decide +kernel

theorem witness_ControlWords :
    (seqOf { core with tl := true }).core.tl = true ∧
    ((seqOf core).core.tl = false ∧ (seqOf core).core.image = some image ∧ (0 : BitVec 6).toNat < image.lmcount ∧
      liveMapOk (seqOf core).core ((seqOf core).core.arrays.livemaps.getD (0 : BitVec 6).toNat 0) = true ∧
      (seqOf core).core.irq = false ∧ (seqOf core).core.prq = false) ∧
    (seqOf core).core.readAll 0 [49] = .ok [0] (seqOf core).core ∧
    (0 : Word).toNat + (0 : BitVec 14).toNat ≤ (seqOf core).sched (seqOf core).core ∧
    (seqOf core).sched (seqOf core).core < (0 : Word).toNat + (1 : BitVec 14).toNat := by decide +kernel

/-- A core whose item may be pre-empted, with a save area. -/
def mild : Core :=
  { core with
    item := some { fetchItem with flags := 8 }
    sys := { core.sys with savearea := 0x10001 } }

theorem witness_SafeptTakesRequests :
    ((seqOf { mild with prq := true }).core.tl = false ∧ (seqOf { mild with prq := true }).core.image = some image ∧
      (0 : BitVec 6).toNat < image.lmcount ∧
      liveMapOk (seqOf { mild with prq := true }).core ((seqOf { mild with prq := true }).core.arrays.livemaps.getD 0 0) = true ∧
      (seqOf { mild with prq := true }).core.irq = false ∧ (seqOf { mild with prq := true }).core.prq = true ∧
      (seqOf { mild with prq := true }).core.preemptible = true ∧ (seqOf { mild with prq := true }).core.phase = none) ∧
    ((seqOf { mild with irq := true }).core.irq = true ∧ (seqOf { mild with irq := true }).core.interruptible = true ∧
      image.handler = true ∧ (seqOf { mild with irq := true }).core.queuesEmpty = true ∧ (seqOf { mild with irq := true }).wire = false) := by
  decide +kernel

/-- A trap of the word at the pc. -/
def someTrap : TrapReq := { src := 0, cause := 1, info := 9, va := none, pc := some 0, flow := none, order := 0, cycle := 0 }

theorem witness_TrapEntryEffect :
    ((seqOf core).core.image = some image ∧ image.handler = true ∧ (seqOf core).core.tl = false) ∧
    (let s := seqOf { core with seq := { core.seq with trap := some someTrap } }
     s.core.seq.trap = some someTrap ∧ s.core.isEnding = false ∧ someTrap.wired = false ∧ s.core.xlatPending = false ∧ s.wireHolds = false ∧ s.lqStill = true ∧ s.cqStill = true ∧ s.sqStill = true) ∧
    (seqOf { core with image := none }).core.image = none ∧
    ((seqOf { core with image := some fetchImage }).core.image = some fetchImage ∧ fetchImage.handler = false) ∧
    (seqOf { core with tl := true }).core.tl = true := by decide +kernel

theorem witness_TrapWords :
    (seqOf core).core.image = some image ∧ image.handler = true ∧ (seqOf core).core.tl = false ∧
    (seqOf core).core.queuesEmpty = true ∧ (seqOf core).wire = false := by decide +kernel

theorem witness_ReturnFromTrap :
    (seqOf { core with tl := true }).core.tl = true ∧ (seqOf { core with tl := true }).core.atLoopEnd = false ∧
    (seqOf { core with tl := true }).core.queuesEmpty = true ∧ (seqOf { core with tl := true }).core.queues.parkL.length ≤ 32 ∧
    (seqOf { core with tl := true }).core.queues.parkS.length ≤ 32 := by decide +kernel

/-- A core inside a protected phase that opened at cycle 0. -/
def phased : Core := (nextOf (exec .phb (seqOf core))).core

theorem witness_ProtectedPhase :
    ((seqOf core).core.phase = none ∧ (seqOf core).core.tl = false ∧ (seqOf core).core.queuesEmpty = true) ∧
    (∃ r, (seqOf phased).core.phase = some r ∧ r.cancelled = false ∧ r.lastDone = 0) ∧ (seqOf phased).core.tl = false ∧
    (seqOf phased).core.queuesEmpty = true ∧
    (let c := { phased with seq := { phased.seq with mode := .phcHold 0 } }
     (seqOf c).core.seq.mode = .phcHold 0 ∧ (seqOf c).core.queuesEmpty = true ∧ (seqOf c).now < 0 + 750 ∧
       0 + 750 ≤ ({ seqOf c with clock := { Clock.reset with cycle := 750 } } : State).now) :=
  ⟨by decide +kernel, ⟨_, rfl, by decide +kernel, by decide +kernel⟩, by decide +kernel, by decide +kernel, by decide +kernel⟩

/-- MODE.RAS is set for core 0. -/
def rasOf (c : Core) : State := let s := seqOf c; { s with mgmt := { s.mgmt with rasMode := 1 } }

theorem witness_Injection :
    (0 : BitVec 2).toNat < 2 ∧ (1 : BitVec 2).toNat < 2 ∧ (seqOf core).core.readAll 0 [49] = .ok [0] (seqOf core).core ∧
    (seqOf core).mgmt.rasMode.getLsbD 0 = false ∧
    ((rasOf (coreWith 0x7FFFFF 0 0)).core.readAll 0 [1] = .ok [0x7FFFFF] (rasOf (coreWith 0x7FFFFF 0 0)).core ∧
      (rasOf (coreWith 0x7FFFFF 0 0)).mgmt.rasMode.getLsbD 0 = true ∧ (0x7FFFFF : Word).toNat < 2 ^ 23 ∧
      (rasOf (coreWith 0x7FFFFF 0 0)).mem.mark 3 0 ((0x7FFFFF : Word).toNat / 8) = none) ∧
    ((rasOf (coreWith 1023 0 0)).core.readAll 0 [1] = .ok [1023] (rasOf (coreWith 1023 0 0)).core ∧ (1023 : Word).toNat < 1024 ∧
      (rasOf (coreWith 1023 0 0)).mem.mark 4 0 ((1023 : Word).toNat * 512) = none) := by decide +kernel


/-! ### States that meet the hypotheses of the statements: words of the Access Sequencer -/

/-- The hypotheses of `CanStart`, evaluated. -/
def startsB (s : State) (lq delivers forbidden : Bool) (i : Instr) (e : QEntry) (rest : List QEntry) : Bool :=
  decide (s.actor = if lq then .lq else .sq) && decide (s.core.side lq = e :: rest) && decide (e.instr = i) &&
    decide (e.state = .waiting) && (!e.waits lq || s.core.hasToken lq) && !s.wireHolds &&
    s.core.tableRoom e (s.core.areg (storeBase i)) && decide (s.core.damageIn partQueue e.order 1 = none) &&
    (!delivers || decide (s.core.bank.loads.length < 64)) &&
    decide ((if lq then s.core.units.lqNext else s.core.units.sqNext) ≤ s.now) && (!forbidden || !s.core.phaseForbids)

theorem canStart {s : State} {lq delivers forbidden : Bool} {i : Instr} {e : QEntry} {rest : List QEntry}
    (h : startsB s lq delivers forbidden i e rest = true) : CanStart s lq delivers forbidden i e rest := by
  simp only [startsB, Bool.and_eq_true, decide_eq_true_eq, Bool.or_eq_true, Bool.not_eq_true'] at h
  obtain ⟨⟨⟨⟨⟨⟨⟨⟨⟨⟨h1, h2⟩, h3⟩, h4⟩, h5⟩, h6⟩, g1⟩, g2⟩, h7⟩, h8⟩, h9⟩ := h
  refine ⟨h1, h2, h3, h4, ?_, h6, g1, g2, ?_, h8, ?_⟩
  · intro w; rcases h5 with h | h
    · rw [h] at w; cases w
    · exact h
  · intro w; rcases h7 with h | h
    · rw [h] at w; cases w
    · exact h
  · intro w; rcases h9 with h | h
    · rw [h] at w; cases w
    · exact h

def segsOf (r : Except Stop (List Seg)) : Option (List Seg) :=
  match r with
  | .ok l => some l
  | .error _ => none

theorem segs_ok {r : Except Stop (List Seg)} {l : List Seg} (h : segsOf r = some l) : r = .ok l := by
  cases r with
  | ok x => simp [segsOf] at h; rw [h]
  | error e => simp [segsOf] at h

def bytesOf (r : ReadOut) : Option (List Byte) :=
  match r with
  | .bytes bs _ => some bs
  | _ => none

def isBytes (r : ReadOut) : Bool :=
  match r with
  | .bytes _ _ => true
  | _ => false

theorem bytes_ex {r : ReadOut} (h : isBytes r = true) : ∃ bs u, r = .bytes bs u := by
  cases r with
  | bytes x u => exact ⟨x, u, rfl⟩
  | bad _ _ _ _ => simp [isBytes] at h
  | own _ _ => simp [isBytes] at h

theorem bytes_of {r : ReadOut} {bs : List Byte} (h : bytesOf r = some bs) : ∃ u, r = .bytes bs u := by
  cases r with
  | bytes x u => simp [bytesOf] at h; exact ⟨u, by rw [h]⟩
  | bad _ _ _ _ => simp [bytesOf] at h
  | own _ _ => simp [bytesOf] at h

/-- A load in the LQ whose address register names the top of the scratchpad. -/
def loading (i : Instr) : State := queued true (coreWith 0 0 0x7FFFF8) i [0]

/-- A run of the scratchpad. -/
def spRun (va : Word) (n off : Nat) : Seg := { va := va, len := n, target := .sp off, owner := 0, leaf := none }

theorem witness_Routing :
    routedForm (.ldD false false 1 49 0) = some (true, [49]) ∧ (seqOf core).actor = .seq ∧
    Instr.wf (.ldD false false 1 49 0) = true ∧ (seqOf core).mgmt.stage = .stage2 ∧
    (seqOf core).core.readAll 0 [49] = .ok [0] (seqOf core).core ∧ ((seqOf core).core.side true).length < 32 ∧
    32 ≤ ((seqOf (core.setSide true (List.replicate 32 (entry .nop [])))).core.side true).length ∧
    routedForm (.stD false false 1 49 0) = some (false, [49]) ∧ Instr.wf (.stD false false 1 49 0) = true ∧
    ((seqOf core).core.side false).length < 32 := by decide +kernel

theorem witness_AddressWords :
    CanStart (loading (.amov false false 1 49)) true false false (.amov false false 1 49) (entry (.amov false false 1 49) [0]) [] ∧
    CanStart (loading (.aadd false false 15 49)) true false false (.aadd false false 15 49) (entry (.aadd false false 15 49) [0]) [] ∧
    CanStart (loading (.aaddi false false 0 0x2000)) true false false (.aaddi false false 0 0x2000) (entry (.aaddi false false 0 0x2000) [0]) [] ∧
    CanStart (loading (.aget false false 1)) true true false (.aget false false 1) (entry (.aget false false 1) [0]) [] :=
  ⟨canStart (by decide +kernel), canStart (by decide +kernel), canStart (by decide +kernel), canStart (by decide +kernel)⟩

theorem witness_LoadWords (i : Instr) (hi : i = .ldD false false 1 49 0 ∨ i = .ldB false false 1 49 7) :
    ∃ a k n signed kind segs bs u', loadForm i = some (a, k, n, signed, kind) ∧ CanStart (loading i) true true false i (entry i [0]) [] ∧
      ((loading i).started true (entry i [0]) []).mapAccess ((entry i [0]).running (loading i))
        (loadAddress (loading i).core a (arg0 (entry i [0]).caps) k n) n (tagOf (loading i).core kind) kind
        (reaches n kind (loadAddress (loading i).core a (arg0 (entry i [0]).caps) k n)) = .ok segs ∧
      plainRuns segs ∧ segs.all ((((loading i).started true (entry i [0]) []).learn segs).ready (kind == .ro)) = true ∧
      (((loading i).started true (entry i [0]) []).learn segs).readSegs (kind == .ro) segs = .bytes bs u' ∧ bs.length = n := by
  rcases hi with rfl | rfl
  · obtain ⟨u, h⟩ := bytes_of (r := (((loading (.ldD false false 1 49 0)).started true (entry (.ldD false false 1 49 0) [0]) []).learn
      [spRun 0x7FFFF8 8 0x7FFFF8]).readSegs false [spRun 0x7FFFF8 8 0x7FFFF8]) (bs := [0, 0, 0, 0, 0, 0, 0, 0]) (by decide +kernel)
    exact ⟨1, 0, 8, false, .read, [spRun 0x7FFFF8 8 0x7FFFF8], _, u, rfl, canStart (by decide +kernel), segs_ok (by decide +kernel),
      by simp [plainRuns, spRun], by decide +kernel, h, rfl⟩
  · obtain ⟨u, h⟩ := bytes_of (r := (((loading (.ldB false false 1 49 7)).started true (entry (.ldB false false 1 49 7) [0]) []).learn
      [spRun 0x7FFFFF 1 0x7FFFFF]).readSegs false [spRun 0x7FFFFF 1 0x7FFFFF]) (bs := [0]) (by decide +kernel)
    exact ⟨1, 7, 1, true, .read, [spRun 0x7FFFFF 1 0x7FFFFF], _, u, rfl, canStart (by decide +kernel), segs_ok (by decide +kernel),
      by simp [plainRuns, spRun], by decide +kernel, h, rfl⟩

/-- Line 0 of memory stands clean in its home slice. -/
def cached (s : State) : State := s.setMem { s.mem with l2 := [{ key := 0, data := 0, dirty := false, copies := 0 }] }

theorem witness_LoadedBytes :
    8388600 + 8 ≤ 2 ^ 23 ∧ (∀ k ∈ (seqOf core).mem.marks, k.place ≠ 3) ∧
    (0 < 8 ∧ 56 % 64 + 8 ≤ 64 ∧ (cached (seqOf core)).mem.l2At (56 / 64) = some { key := 0, data := 0, dirty := false, copies := 0 } ∧
      (cached (seqOf core)).mem.mark 1 0 (56 / 64) = none ∧ (∀ x ∈ (cached (seqOf core)).core.caches.l1, x.key / 2 ≠ 56 / 64) ∧ (cached (seqOf core)).core.caches.stores = []) := by
  decide +kernel

/-- A store in the SQ of 8 bytes at the top of the scratchpad. -/
def storing (i : Instr) : State := queued false (coreWith 0 0 0x7FFFF8) i [0x1122334455667788]

theorem witness_StoreWords :
    storeForm (.stD false false 1 1 0) = some (1, 0, 8, .write) ∧
    CanStart (storing (.stD false false 1 1 0)) false false true (.stD false false 1 1 0) (entry (.stD false false 1 1 0) [0x1122334455667788]) [] ∧
    ((storing (.stD false false 1 1 0)).started false (entry (.stD false false 1 1 0) [0x1122334455667788]) []).mapAccess
      ((entry (.stD false false 1 1 0) [0x1122334455667788]).running (storing (.stD false false 1 1 0))) (loadAddress (storing (.stD false false 1 1 0)).core 1 0 0 8) 8
      (tagOf (storing (.stD false false 1 1 0)).core .write) .write
      (reaches 8 .write (loadAddress (storing (.stD false false 1 1 0)).core 1 0 0 8)) = .ok [spRun 0x7FFFF8 8 0x7FFFF8] ∧
    plainRuns [spRun 0x7FFFF8 8 0x7FFFF8] ∧
    ((storing (.stD false false 1 1 0)).started false (entry (.stD false false 1 1 0) [0x1122334455667788]) []).sitesJoined
      [spRun 0x7FFFF8 8 0x7FFFF8] = true :=
  ⟨rfl, canStart (by decide +kernel), segs_ok (by decide +kernel), by simp [plainRuns, spRun], by decide +kernel⟩

theorem witness_StoreWords_rel :
    CanStart (storing (.relD false false 1 1 3)) false false true (.relD false false 1 1 3) (entry (.relD false false 1 1 3) [0x1122334455667788]) [] ∧
    ((storing (.relD false false 1 1 3)).core.areg 1).toNat % 8 = 0 ∧ (storing (.relD false false 1 1 3)).core.damageIn partBinding 0 64 = none ∧
    ((storing (.relD false false 1 1 3)).started false (entry (.relD false false 1 1 3) [0x1122334455667788]) []).mapAccess
      ((entry (.relD false false 1 1 3) [0x1122334455667788]).running (storing (.relD false false 1 1 3))) ((storing (.relD false false 1 1 3)).core.areg 1) 8
      (storing (.relD false false 1 1 3)).core.sys.ctx .write false = .ok [spRun 0x7FFFF8 8 0x7FFFF8] ∧
    ((storing (.relD false false 1 1 3)).started false (entry (.relD false false 1 1 3) [0x1122334455667788]) []).sitesJoined
      [spRun 0x7FFFF8 8 0x7FFFF8] = true :=
  ⟨canStart (by decide +kernel), by decide +kernel, by decide +kernel, segs_ok (by decide +kernel), by decide +kernel⟩

theorem witness_StoredBytes :
    (let w : StorePiece := { store := 1, va := 62, pa := 62, data := [1, 2], owner := 0, home := false }
     0 < w.data.length ∧ w.pa % 64 + w.data.length ≤ 64 ∧ (cached (seqOf core)).lineFits (w.pa / 64) ∧ (seqOf core).lineFits (w.pa / 64)) ∧
    (8388606 + ([1, 2] : List Byte).length ≤ 2 ^ 23 ∧ (seqOf core).core.arrays.sp.wf = true) :=
  ⟨⟨by decide, by decide, .inl (by decide +kernel), .inr (by decide +kernel)⟩, by decide +kernel⟩

/-- A block move of one register between the first register and scratchpad bytes from 0 on. -/
def moving (lq : Bool) (i : Instr) : State := queued lq (coreWith 0 0 0) i []

def spRuns (n : Nat) : List Seg := (List.range n).map fun k => spRun (BitVec.ofNat 64 (64 * k)) 64 (64 * k)

theorem witness_BlockMoves_lv :
    let i : Instr := .lv false false 0 0 0 0 1
    CanStart (moving true i) true false false i (entry i []) [] ∧
    (((moving true i).started true (entry i []) []).core.setSide true []).conflict (moving true i).now [] (xferRegs 0 0 0 0) = false ∧
    ((moving true i).started true (entry i []) []).mapAccess ((entry i []).running (moving true i)) ((moving true i).core.areg 1)
      (4096 * (xferRegs 0 0 0 0).length) (moving true i).core.sys.ctx .read false = .ok (spRuns 64) ∧
    (spRuns 64).all ((((moving true i).started true (entry i []) []).learn (spRuns 64)).ready false) = true ∧
    ∃ bs u', (((moving true i).started true (entry i []) []).learn (spRuns 64)).readSegs false (spRuns 64) = .bytes bs u' :=
  ⟨canStart (by decide +kernel), by decide +kernel, segs_ok (by decide +kernel), by decide +kernel, bytes_ex (by decide +kernel)⟩

theorem witness_BlockMoves_sv :
    let i : Instr := .sv false false 0 0 0 0 1
    let s := (moving false i).started false (entry i []) []
    CanStart (moving false i) false false true i (entry i []) [] ∧
    (s.core.setSide false []).conflict (moving false i).now (xferRegs 0 0 0 0) [] = false ∧
    (s.inspectReads (xferRegs 0 0 0 0) []).2 = none ∧
    ((s.inspectReads (xferRegs 0 0 0 0) []).1.viewBlock (xferRegs 0 0 0 0)).1.length = 4096 ∧
    ((s.inspectReads (xferRegs 0 0 0 0) []).1.viewBlock (xferRegs 0 0 0 0)).2.mapAccess ((entry i []).running (moving false i))
      ((moving false i).core.areg 1) 4096 (s.inspectReads (xferRegs 0 0 0 0) []).1.core.sys.ctx .write false =
      .ok (spRuns 64) ∧
    ((s.inspectReads (xferRegs 0 0 0 0) []).1.viewBlock (xferRegs 0 0 0 0)).2.sitesJoined (spRuns 64) = true :=
  ⟨canStart (by decide +kernel), by decide +kernel, by decide +kernel, by decide +kernel, segs_ok (by decide +kernel), by decide +kernel⟩

/-- `mld` of feed A: two rows of 64 bytes each, the second one due. -/
def feeding (mprog : Word) : State :=
  queued true { coreWith 0 0 0 with sys := { core.sys with mprog := mprog } } (.mld false false 0 1 1) [0x0040000200000040]

theorem witness_MatrixLoads (m : Word) (h : m = 0 ∨ m = 1) :
    let i : Instr := .mld false false 0 1 1
    let e := entry i [0x0040000200000040]
    let s := feeding m
    CanStart s true false false i e [] ∧ bitsAt (arg0 e.caps) 48 16 ≠ 0 ∧ bitsAt (arg0 e.caps) 48 16 % 64 = 0 ∧
    bitsAt (arg0 e.caps) 48 16 ≤ 4096 ∧ bitsAt s.core.sys.mprog 0 16 < bitsAt (arg0 e.caps) 32 16 ∧
    s.core.feedHeld 0 s.now + bitsAt (arg0 e.caps) 48 16 ≤ 65536 ∧ (s.started true e []).core.entriesHeld ≤ 8192 ∧
    (∃ segs, (s.started true e []).mapAccess (e.running s)
        (s.core.areg 1 + BitVec.ofNat 64 (bitsAt s.core.sys.mprog 0 16) * (BitVec.truncate 32 (arg0 e.caps)).signExtend 64)
        (bitsAt (arg0 e.caps) 48 16) s.core.sys.ctx .read false = .ok segs ∧ segs.all (((s.started true e []).learn segs).ready false) = true ∧
      ∃ bs u', ((s.started true e []).learn segs).readSegs false segs = .bytes bs u') ∧
    (bitsAt s.core.sys.mprog 0 16 + 1 < bitsAt (arg0 e.caps) 32 16 ∨ bitsAt s.core.sys.mprog 0 16 + 1 = bitsAt (arg0 e.caps) 32 16) := by
  rcases h with rfl | rfl
  · exact ⟨canStart (by decide +kernel), by decide, by decide, by decide, by decide, by decide +kernel, by decide +kernel,
      ⟨[spRun 0 64 0], segs_ok (by decide +kernel), by decide +kernel, zeroBytes 64, bytes_of (by decide +kernel)⟩, by decide +kernel⟩
  · exact ⟨canStart (by decide +kernel), by decide, by decide, by decide, by decide, by decide +kernel, by decide +kernel,
      ⟨[spRun 64 64 64], segs_ok (by decide +kernel), by decide +kernel, zeroBytes 64, bytes_of (by decide +kernel)⟩, by decide +kernel⟩


/-! ### Configuration, synchronisation, barriers, tags and rows -/

/-- The scratchpad of a core begins with some bytes. -/
def holding (c : Core) (off : Nat) (bs : List Byte) : Core := { c with arrays := { c.arrays with sp := pokeN (w := 8) c.arrays.sp off bs } }

/-- The translation of a page of memory at address 0 for every access. -/
def pageZero : XlatEntry := { root := 0, page := 0, pte := 0x17F, pteAddr := 0, level := 0 }

/-- A page of memory is mapped at address 0 for every access, and its first line stands in its home slice. -/
def mapped (c : Core) : Core :=
  { c with caches := { c.caches with tlb := [pageZero] } }

/-- A descriptor of an input port: FP32, rows of 64 bytes, each count 1. -/
def portDesc : BitVec 512 :=
  BitVec.ofNat 512 (0x0001004000000000 + 2 ^ 128 + 2 ^ 192 + 2 ^ 256 + 2 ^ 320)

theorem witness_ConfigurationWords_pset :
    let i : Instr := .pset false false 1 0 0
    let s := queued true (holding (coreWith 0 0 0) 0 (leBytes 64 portDesc.toNat)) i []
    let e := entry i []
    CanStart s true false false i e [] ∧ (loadAddress s.core 1 0 0 64).toNat % 64 = 0 ∧
    (s.started true e []).mapAccess (e.running s) (loadAddress s.core 1 0 0 64) 64 s.core.sys.ctx .read false = .ok [spRun 0 64 0] ∧
    [spRun 0 64 0].all (((s.started true e []).learn [spRun 0 64 0]).ready false) = true ∧
    (∃ u', ((s.started true e []).learn [spRun 0 64 0]).readSegs false [spRun 0 64 0] = .bytes (leBytes 64 portDesc.toNat) u') ∧
    PortDesc.wf (BitVec.ofNat 512 (leNat (leBytes 64 portDesc.toNat))) = true :=
  ⟨canStart (by decide +kernel), by decide +kernel, segs_ok (by decide +kernel), by decide +kernel, bytes_of (by decide +kernel), by decide +kernel⟩

/-- A buffer of 256 slots of 32 KiB: the whole scratchpad. -/
def bufDesc : BitVec 128 := BitVec.ofNat 128 (2 ^ 64 * 256 + 2 ^ 32 * 32768)

theorem witness_ConfigurationWords_cbset :
    let i : Instr := .cbset false false 1 15 0
    let s := queued true (holding (coreWith 0 0 0) 0 (leBytes 16 bufDesc.toNat)) i []
    let e := entry i []
    CanStart s true false true i e [] ∧ (loadAddress s.core 1 0 0 16).toNat % 16 = 0 ∧
    (s.started true e []).mapAccess (e.running s) (loadAddress s.core 1 0 0 16) 16 s.core.sys.ctx .read false = .ok [spRun 0 16 0] ∧
    [spRun 0 16 0].all (((s.started true e []).learn [spRun 0 16 0]).ready false) = true ∧
    (∃ u', ((s.started true e []).learn [spRun 0 16 0]).readSegs false [spRun 0 16 0] = .bytes (leBytes 16 bufDesc.toNat) u') ∧
    bufDescOk (BitVec.ofNat 128 (leNat (leBytes 16 bufDesc.toNat))) = true :=
  ⟨canStart (by decide +kernel), by decide +kernel, segs_ok (by decide +kernel), by decide +kernel, bytes_of (by decide +kernel), by decide +kernel⟩

theorem witness_ConfigurationWords_tdef :
    let i : Instr := .tdef false false 63 1
    let s := cached (queued true (mapped (coreWith 0 0 0)) i [])
    let e := entry i []
    let g : List Seg := [{ va := 2016, len := 32, target := .line 2016, owner := 0, leaf := some pageZero }]
    CanStart s true false false i e [] ∧ s.core.image = some image ∧ (63 : BitVec 6).toNat + (1 : BitVec 8).toNat ≤ image.tmcount ∧
    (s.started true e []).mapAccess { e.running s with spbase := 0 } (s.core.handle + BitVec.ofNat 64 (image.tmoff + 32 * (63 : BitVec 6).toNat))
      (32 * (1 : BitVec 8).toNat) 0 .read false = .ok g :=
  ⟨canStart (by decide +kernel), by decide +kernel, by decide +kernel, segs_ok (by decide +kernel)⟩

theorem witness_ConfigurationWords_template :
    let i : Instr := .tdef false false 0 1
    let s := cached (queued true (mapped (coreWith 0 0 0)) i [])
    let e := entry i []
    let g : List Seg := [{ va := 0, len := 32, target := .line 0, owner := 0, leaf := some pageZero }]
    CanStart s true false false i e [] ∧ s.core.image = some image ∧ (0 : BitVec 6).toNat + (1 : BitVec 8).toNat ≤ image.tmcount ∧
    (s.started true e []).mapAccess { e.running s with spbase := 0 } (s.core.handle + BitVec.ofNat 64 (image.tmoff + 32 * (0 : BitVec 6).toNat))
      (32 * (1 : BitVec 8).toNat) 0 .read false = .ok g ∧
    g.all (((s.started true e []).learn g).ready false) = true ∧ (∃ bs u', ((s.started true e []).learn g).readSegs false g = .bytes bs u') :=
  ⟨canStart (by decide +kernel), by decide +kernel, by decide +kernel, segs_ok (by decide +kernel), by decide +kernel, bytes_ex (by decide +kernel)⟩

/-- A binding of one byte to the address 0. -/
def bindDesc : BitVec 256 := BitVec.ofNat 256 (2 ^ 64)

theorem witness_ConfigurationWords_bind :
    let i : Instr := .bind false false 1 63 0
    let s := queued true (holding (coreWith 0 0 0) 0 (leBytes 32 bindDesc.toNat)) i []
    let e := entry i []
    CanStart s true false false i e [] ∧ (loadAddress s.core 1 0 0 32).toNat % 32 = 0 ∧
    (s.started true e []).mapAccess (e.running s) (loadAddress s.core 1 0 0 32) 32 s.core.sys.ctx .read false = .ok [spRun 0 32 0] ∧
    [spRun 0 32 0].all (((s.started true e []).learn [spRun 0 32 0]).ready false) = true ∧
    (∃ u', ((s.started true e []).learn [spRun 0 32 0]).readSegs false [spRun 0 32 0] = .bytes (leBytes 32 bindDesc.toNat) u') ∧
    bindingOk (BitVec.ofNat 256 (leNat (leBytes 32 bindDesc.toNat))) = true ∧
    CanStart (queued true core (.unbind false false 63) []) true false false (.unbind false false 63) (entry (.unbind false false 63) []) [] :=
  ⟨canStart (by decide +kernel), by decide +kernel, segs_ok (by decide +kernel), by decide +kernel, bytes_of (by decide +kernel),
    by decide +kernel, canStart (by decide +kernel)⟩

/-- A word of the LQ on the mapped page, with `v` captured. -/
def touching (i : Instr) (caps : List Word) : State := cached (queued true (mapped (coreWith 0 0 0x10000)) i caps)

theorem witness_SynchronisationWords :
    CanStart (touching (.fence false false true 3) []) true false false (.fence false false true 3) (entry (.fence false false true 3) []) [] ∧
    CanStart (touching (.fence false false false 2) []) true false false (.fence false false false 2) (entry (.fence false false false 2) []) [] ∧
    CanStart (touching (.roinv false false) []) true false false (.roinv false false) (entry (.roinv false false) []) [] ∧
    CanStart (touching (.roinvRange false false 1 1) [64]) true false false (.roinvRange false false 1 1) (entry (.roinvRange false false 1 1) [64]) [] ∧
    CanStart (touching (.clean false false 1 1 3) [0x100000000]) true false false (.clean false false 1 1 3)
      (entry (.clean false false 1 1 3) [0x100000000]) [] ∧ (arg0 [0x100000000]).toNat ≤ 2 ^ 32 ∧
    CanStart (touching (.pf false false 1 1 0) [0]) true false false (.pf false false 1 1 0) (entry (.pf false false 1 1 0) [0]) [] :=
  ⟨canStart (by decide +kernel), canStart (by decide +kernel), canStart (by decide +kernel), by
    refine ⟨canStart ?_, canStart ?_, ?_, canStart ?_⟩ <;> decide +kernel⟩

/-- A word of the LQ on the first line of memory, without the window. -/
def bare (i : Instr) (caps : List Word) : QEntry := { entry i caps with spbase := 0 }

def onLine (i : Instr) (caps : List Word) (a : Word) : State :=
  cached (stateOf ((mapped (coreWith 0 0 a)).setSide true [bare i caps]) .lq)

def lineRun (n : Nat) : Seg := { va := 0, len := n, target := .line 0, owner := 0, leaf := some pageZero }

theorem witness_SynchronisationWords_acq (scope : BitVec 2) (h : scope = 2 ∨ scope = 3) :
    let i : Instr := .acq false false 1 49 scope
    let e := bare i [0]
    let s := onLine i [0] 0
    CanStart s true true false i e [] ∧ (s.core.areg 1 + arg0 e.caps).toNat % 8 = 0 ∧ s.core.damageIn partBinding 0 64 = none ∧
    (s.started true e []).mapAccess (e.running s) (s.core.areg 1 + arg0 e.caps) 8 s.core.sys.ctx .read false = .ok [lineRun 8] ∧
    (s.started true e []).sitesJoined [lineRun 8] = true ∧ (s.started true e []).atHome (scope == 3) (lineRun 8) = true ∧
    ∃ bs u', (((s.started true e []).learn [lineRun 8]).orderRun (lineRun 8)).readPoint (scope == 3) (lineRun 8) = .bytes bs u' := by
  rcases h with rfl | rfl <;>
  exact ⟨canStart (by decide +kernel), by decide +kernel, by decide +kernel, segs_ok (by decide +kernel), by decide +kernel, by decide +kernel,
    bytes_ex (by decide +kernel)⟩

/-- The state after a read. -/
def afterRead (r : ReadOut) : State :=
  match r with
  | .bytes _ u => u
  | .bad _ _ _ u => u
  | .own _ u => u

theorem bytes_at {r : ReadOut} {bs : List Byte} (h : bytesOf r = some bs) : r = .bytes bs (afterRead r) := by
  cases r with
  | bytes x u => simp [bytesOf] at h; rw [h]; rfl
  | bad _ _ _ _ => simp [bytesOf] at h
  | own _ _ => simp [bytesOf] at h

theorem turn_free {s : State} {g : Seg} {ord : Bool} (h : s.core.itemFlag Item.log = false) : s.atomicTurn g ord = some s := by
  simp [State.atomicTurn, h]

theorem witness_AtomicWords (i : Instr) (scope : BitVec 2) (acq rel ord : Bool)
    (h : (i = .amoAdd false false 1 1 true 2 false false false ∧ scope = 2 ∧ acq = false ∧ rel = false ∧ ord = false) ∨
      (i = .amoSwap false false 1 1 true 3 true true true ∧ scope = 3 ∧ acq = true ∧ rel = true ∧ ord = true)) :
    let e := bare i [7]
    let s := onLine i [7] 0
    let b := if rel then (s.started true e []).releaseAt s.core.bindings (s.core.areg 1) scope else s.started true e []
    (∃ f, atomicForm i = some (1, 8, scope, acq, rel, ord, f)) ∧ CanStart s true true true i e [] ∧ s.core.itemFlag Item.log = false ∧
    (s.core.areg 1).toNat % 8 = 0 ∧
    b.mapAccess (e.running s) (s.core.areg 1) 8 s.core.sys.ctx .atomic false = .ok [lineRun 8] ∧
    b.sitesJoined [lineRun 8] = true ∧ b.atHome (scope == 3) (lineRun 8) = true ∧
    ∃ u', ((b.learn [lineRun 8]).orderRun (lineRun 8)).readPoint (scope == 3) (lineRun 8) = .bytes (zeroBytes 8) u' ∧
      u'.core.itemFlag Item.log = false ∧ u'.atomicTurn (lineRun 8) ord = some u' := by
  rcases h with ⟨rfl, rfl, rfl, rfl, rfl⟩ | ⟨rfl, rfl, rfl, rfl, rfl⟩
  all_goals
    exact ⟨⟨_, rfl⟩, canStart (by decide +kernel), by decide +kernel, by decide +kernel, segs_ok (by decide +kernel), by decide +kernel,
      by decide +kernel, _, bytes_at (by decide +kernel), by decide +kernel, turn_free (by decide +kernel)⟩

/-- Command 1 is active, its item 5 waits to be placed again, and a replay log of one entry stands at 4096. -/
def replaying (s : State) : State :=
  { s with
    order := { OrderLog.reset with replay := true, replayBase := 4096, replayCount := 1 }
    control := { s.control with
      requeued := [{ fetchItem with command := some 1, lin := 5, flags := 4, replay := true }]
      commands := [{ id := 1, queue := 0, cmd := 0, wait := .items, left := 1, tags := [], ends := [], started := true }] } }

/-- An ordered atomic of a logged item that replay holds: the next entry of its granule names item 5. -/
theorem witness_AtomicWords_held :
    let i : Instr := .amoAdd false false 1 1 true 2 false false true
    let e := bare i [7]
    let c := { (mapped (coreWith 0 0 0)).setSide true [e] with item := some { fetchItem with command := some 1, flags := 4, replay := true } }
    let s := { replaying (stateOf c .lq) with mem := { (cached (stateOf c .lq)).mem with dram := pokeN [] 4096 (vecBytes (logEntry 0 0 1 0 5)) } }
    CanStart s true true true i e [] ∧ (s.core.areg 1).toNat % 8 = 0 ∧
    (s.started true e []).mapAccess (e.running s) (s.core.areg 1) 8 s.core.sys.ctx .atomic false = .ok [lineRun 8] ∧
    (s.started true e []).sitesJoined [lineRun 8] = true ∧ (s.started true e []).atHome false (lineRun 8) = true ∧
    ∃ u', (((s.started true e []).learn [lineRun 8]).orderRun (lineRun 8)).readPoint false (lineRun 8) = .bytes (zeroBytes 8) u' ∧
      u'.atomicTurn (lineRun 8) true = none :=
  ⟨canStart (by decide +kernel), by decide +kernel, segs_ok (by decide +kernel), by decide +kernel, by decide +kernel, _,
    bytes_at (by decide +kernel), by decide +kernel⟩

theorem witness_AtomicWords_cas (x : Word) (_h : x = 0 ∨ x = 1) :
    let i : Instr := .cas false false 1 1 2 false
    let e := bare i [x, 9]
    let s := onLine i [x, 9] 0
    let b := (s.started true e []).releaseAt s.core.bindings (s.core.areg 1) 2
    CanStart s true true true i e [] ∧ (s.core.areg 1).toNat % 4 = 0 ∧
    b.mapAccess (e.running s) (s.core.areg 1) 4 s.core.sys.ctx .atomic false = .ok [lineRun 4] ∧
    b.sitesJoined [lineRun 4] = true ∧ b.atHome false (lineRun 4) = true ∧
    ∃ u', ((b.learn [lineRun 4]).orderRun (lineRun 4)).readPoint false (lineRun 4) = .bytes (zeroBytes 4) u' := by
  rcases _h with rfl | rfl
  all_goals
    exact ⟨canStart (by decide +kernel), by decide +kernel, segs_ok (by decide +kernel), by decide +kernel, by decide +kernel,
      bytes_of (by decide +kernel)⟩

theorem witness_AtomicWords_misaligned :
    CanStart (onLine (.amoAdd false false 1 1 true 2 false false false) [7] 4) true true true (.amoAdd false false 1 1 true 2 false false false)
      (bare (.amoAdd false false 1 1 true 2 false false false) [7]) [] ∧
    ((onLine (.amoAdd false false 1 1 true 2 false false false) [7] 4).core.areg 1).toNat % 8 ≠ 0 ∧
    CanStart (queued false (coreWith 0 0 4) (.relD false false 1 1 3) [0]) false false true (.relD false false 1 1 3)
      (entry (.relD false false 1 1 3) [0]) [] ∧ (core.phase = none ∧ core.seq.trap = none) :=
  ⟨canStart (by decide +kernel), by decide +kernel, canStart (by decide +kernel), by decide +kernel⟩

theorem witness_AtomicWords_misaligned_others (size : Bool) :
    CanStart (onLine (.cas false false 1 1 2 size) [0, 9] 2) true true true (.cas false false 1 1 2 size)
      (bare (.cas false false 1 1 2 size) [0, 9]) [] ∧
    ((onLine (.cas false false 1 1 2 size) [0, 9] 2).core.areg 1).toNat % (if size then 8 else 4) ≠ 0 ∧
    CanStart (onLine (.acq false false 1 49 2) [4] 0) true true false (.acq false false 1 49 2) (bare (.acq false false 1 49 2) [4]) [] ∧
    ((onLine (.acq false false 1 49 2) [4] 0).core.areg 1 + arg0 [4]).toNat % 8 ≠ 0 ∧
    (onLine (.cas false false 1 1 2 size) [0, 9] 2).core.phase = none ∧ (onLine (.cas false false 1 1 2 size) [0, 9] 2).core.seq.trap = none := by
  cases size <;> exact ⟨canStart (by decide +kernel), by decide +kernel, canStart (by decide +kernel), by decide +kernel⟩

/-- A barrier word on the 16 bytes at the top of the scratchpad. -/
def atBarrier (i : Instr) (caps : List Word) : State := queued true (coreWith 0 0 0x7FFFF0) i caps

theorem witness_BarrierWords :
    (8388592 = (loadAddress (atBarrier (.tbarr false false 1 0) []).core 1 0 0 16).toNat ∧ 8388592 < 2 ^ 23 ∧ 8388592 % 16 = 0 ∧
      (∀ m ∈ (atBarrier (.tbarr false false 1 0) []).mem.marks, m.place ≠ 3)) ∧
    CanStart (atBarrier (.tbinit false false 1 1 0) [65535]) true false true (.tbinit false false 1 1 0) (entry (.tbinit false false 1 1 0) [65535]) [] ∧
    CanStart (atBarrier (.tbarr false false 1 0) []) true true true (.tbarr false false 1 0) (entry (.tbarr false false 1 0) []) [] ∧
    CanStart (atBarrier (.tbexp false false 1 1 0) [0xFFFFFFFF]) true false true (.tbexp false false 1 1 0)
      (entry (.tbexp false false 1 1 0) [0xFFFFFFFF]) [] ∧
    CanStart (atBarrier (.tbarrexp false false 1 1 0) [64]) true true true (.tbarrexp false false 1 1 0)
      (entry (.tbarrexp false false 1 1 0) [64]) [] ∧
    CanStart (atBarrier (.tbwait false false 1 1 0) [15]) true true false (.tbwait false false 1 1 0) (entry (.tbwait false false 1 1 0) [15]) [] ∧
    Barrier.ph ((atBarrier (.tbwait false false 1 1 0) [15]).core.barrier 8388592) ≠ (arg0 [15]).toNat % 16 ∧
    CanStart (atBarrier (.tbwait false false 1 1 0) [16]) true true false (.tbwait false false 1 1 0) (entry (.tbwait false false 1 1 0) [16]) [] ∧
    Barrier.ph ((atBarrier (.tbwait false false 1 1 0) [16]).core.barrier 8388592) = (arg0 [16]).toNat % 16 ∧
    CanStart (atBarrier (.tbtest false false 1 0) []) true true false (.tbtest false false 1 0) (entry (.tbtest false false 1 0) []) [] :=
  ⟨by decide +kernel, canStart (by decide +kernel), canStart (by decide +kernel), canStart (by decide +kernel), by
    refine ⟨canStart ?_, canStart ?_, ?_, canStart ?_, ?_, canStart ?_⟩ <;> decide +kernel⟩

theorem witness_BarrierPhaseRule :
    (Barrier.arr 0 = 0 ∧ Barrier.pending 0 = 0) ∧ ¬ (Barrier.arr (Barrier.fresh 1) = 0 ∧ Barrier.pending (Barrier.fresh 1) = 0) ∧
    64 ≤ Barrier.pending (Barrier.expect (Barrier.fresh 1) 64) ∧ 0 < Barrier.arr (Barrier.fresh 1) := by decide +kernel

/-- A tag word in the LQ, with tag 65535 live and tag 7 granted to core 0. -/
def tagging (i : Instr) (caps : List Word) : State :=
  let s := queued true core i caps
  s.setTags { s.tags with tags := [(65535, .live)], granted := [(0, 7)] }

theorem witness_TagWords :
    CanStart (tagging (.tagnew false false) []) true true true (.tagnew false false) (entry (.tagnew false false) []) [] ∧
    (tagging (.tagnew false false) []).tags.granted.find? (·.1 == (tagging (.tagnew false false) []).cur.val) = some (0, 7) ∧
    CanStart (tagging (.tagnewNb false false) []) true true true (.tagnewNb false false) (entry (.tagnewNb false false) []) [] ∧
    CanStart (tagging (.tagret false false 1 false) [65535]) true false true (.tagret false false 1 false)
      (entry (.tagret false false 1 false) [65535]) [] ∧
    (tagging (.tagret false false 1 false) [65535]).tags.isLive 65535 = true ∧
    CanStart (tagging (.ctxset false false 1) [65535]) true false true (.ctxset false false 1) (entry (.ctxset false false 1) [65535]) [] ∧
    (tagging (.ctxset false false 1) [65535]).core.queues.sq = [] ∧
    CanStart (tagging (.xtagset false false 1) [0]) true false true (.xtagset false false 1) (entry (.xtagset false false 1) [0]) [] ∧
    (tagging (.xtagset false false 1) [0]).tags.isLive 0 = true :=
  ⟨canStart (by decide +kernel), by decide +kernel, canStart (by decide +kernel), canStart (by decide +kernel), by decide +kernel,
    canStart (by decide +kernel), by decide +kernel, canStart (by decide +kernel), by decide +kernel⟩

/-- A `tagret` of a tag that is live, and of one that is not. -/
theorem witness_TagWords_retires (wait : Bool) :
    let i : Instr := .tagret false false 1 wait
    CanStart (tagging i [65535]) true false true i (entry i [65535]) [] ∧ (entry i [65535]).caps.length = 1 ∧ arg0 [65535] ≠ 0 ∧
    (arg0 [65535]).toNat < 65536 ∧ (tagging i [65535]).tags.isLive (arg0 [65535]).toNat = true ∧
    CanStart (tagging i [7]) true false true i (entry i [7]) [] ∧ (entry i [7]).caps.length = 1 ∧ arg0 [7] ≠ 0 ∧
    (arg0 [7]).toNat < 65536 ∧ (tagging i [7]).tags.isLive (arg0 [7]).toNat = false := by
  cases wait <;> exact ⟨canStart (by decide +kernel), by decide +kernel, by decide +kernel, by decide +kernel, by decide +kernel,
    canStart (by decide +kernel), by decide +kernel⟩

/-- A `tagret` with WAIT has begun: its tag is free again, or still retiring. -/
theorem witness_TagWords_waits :
    let e : QEntry := { entry (.tagret false false 1 true) [65535, 1] with state := .begun }
    let s := stateOf (core.setSide true [e]) .lq
    let r := s.setTags { s.tags with tags := [(65535, .retiring)] }
    (s.actor = .lq ∧ s.core.side true = [e] ∧ e.state = .begun ∧ e.caps = [65535, 1] ∧ s.core.phaseForbids = false ∧
      ∀ k ∈ s.tags.tags, k.1 = (65535 : Word).toNat → k.2 ≠ .retiring) ∧
    (r.actor = .lq ∧ r.core.side true = [e] ∧ r.core.phaseForbids = false ∧ ((65535 : Word).toNat, TagState.retiring) ∈ r.tags.tags) := by
  decide +kernel

/-- A request for a tag has not been made yet, and one has reached the allocator with no tag granted. -/
theorem witness_TagWords_asks (nb : Bool) :
    CanStart (queued true core (if nb then .tagnewNb false false else .tagnew false false) []) true true true
      (if nb then .tagnewNb false false else .tagnew false false) (entry (if nb then .tagnewNb false false else .tagnew false false) []) [] ∧
    (seqOf core).tags.granted.find? (·.1 == 0) = none ∧ (seqOf core).tags.asks 0 = false ∧
    (let s := (seqOf core).setTags { TagUnit.reset with arrived := [{ source := 95, waits := nb }] }
     s.tags.arrived = [{ source := 95, waits := nb }] ∧ s.tags.waiters = [] ∧ lowestFree 1 s.tags.tags = 1) ∧
    (let s := (seqOf core).setTags { TagUnit.reset with arrived := [{ source := 0, waits := false }], waiters := [.walker] }
     s.tags.arrived = [{ source := 0, waits := false }] ∧ s.tags.waiters ≠ []) := by
  cases nb
  all_goals exact ⟨canStart (by decide +kernel), by decide +kernel⟩

theorem lowest_all : (k n : Nat) → lowestFree n ((List.range' n k).map fun t => (t, TagState.live)) = n + k
  | 0, _ => rfl
  | k + 1, n => by simp [List.range'_succ, lowestFree, lowest_all k (n + 1)]; omega

/-- Every tag is in use, and a request that may wait has reached the allocator. -/
theorem witness_TagWords_full :
    let t : TagUnit := { TagUnit.reset with
      tags := (List.range' 1 65535).map fun t => (t, .live), arrived := [{ source := 0, waits := true }] }
    t.arrived = [{ source := 0, waits := true }] ∧ t.waiters = [] ∧ 65535 < lowestFree 1 t.tags :=
  ⟨rfl, rfl, by simp only [lowest_all]; decide⟩

/-- Requests of the sources 0 and 95 arrive in one cycle, in either order, with `m` tags in use from 1 up. -/
def twoAsks (m : Nat) (other wj wk : Bool) : TagUnit :=
  let a : TagAsk := { source := 0, waits := wj }
  let b : TagAsk := { source := 95, waits := wk }
  { TagUnit.reset with tags := (List.range' 1 m).map fun t => (t, .live), arrived := if other then [b, a] else [a, b] }

/-- With every tag free, with one left, and with none. -/
theorem witness_TagWords_two (other wj wk : Bool) :
    (∀ m, (twoAsks m other wj wk).waiters = [] ∧ lowestFree 1 (twoAsks m other wj wk).tags = 1 + m ∧
      ((twoAsks m other wj wk).arrived = [{ source := 0, waits := wj }, { source := 95, waits := wk }] ∨
        (twoAsks m other wj wk).arrived = [{ source := 95, waits := wk }, { source := 0, waits := wj }])) ∧
    (lowestFree 1 (twoAsks 0 other wj wk).tags ≤ 65535 ∧
      lowestFree 1 (assign (twoAsks 0 other wj wk).tags (lowestFree 1 (twoAsks 0 other wj wk).tags) .live) ≤ 65535) ∧
    lowestFree 1 (twoAsks 65534 other wj wk).tags ≤ 65535 ∧ 65535 < lowestFree 1 (twoAsks 65535 other wj wk).tags := by
  refine ⟨fun m => ⟨rfl, by simp only [twoAsks, lowest_all], ?_⟩, ?_, ?_, ?_⟩
  · cases other
    · exact .inl rfl
    · exact .inr rfl
  · simp only [twoAsks]; decide
  · simp only [twoAsks, lowest_all]; decide
  · simp only [twoAsks, lowest_all]; decide

/-- The last tag taken by the first of two requests leaves none. -/
theorem assign_end : (k n : Nat) → assign ((List.range' n k).map fun t => (t, TagState.live)) (n + k) .live =
    (List.range' n (k + 1)).map fun t => (t, TagState.live)
  | 0, _ => rfl
  | k + 1, n => by
    rw [List.range'_succ, List.range'_succ]
    simp only [List.map_cons, assign]
    rw [if_neg (by omega), if_neg (by omega)]
    rw [show n + (k + 1) = n + 1 + k by omega, assign_end k (n + 1)]

theorem witness_TagWords_last (other wj wk : Bool) :
    65535 < lowestFree 1 (assign (twoAsks 65534 other wj wk).tags (lowestFree 1 (twoAsks 65534 other wj wk).tags) .live) := by
  simp only [twoAsks, lowest_all, assign_end]; decide

/-- A row descriptor of 1 MiB: destination 0, sources at multiples of 1 MiB, no barrier. -/
def rowDesc (n : Nat) : BitVec 512 :=
  BitVec.ofNat 512 (2 ^ 256 * 1048576 + (if 0 < n then 2 ^ 84 else 0) + (if 1 < n then 2 ^ 149 else 0) + (if 2 < n then 2 ^ 214 else 0))

theorem aligned_of {l : List Word} (h : l.all (fun v => v.toNat % 1024 == 0) = true) : ∀ v ∈ l, v.toNat % 1024 = 0 := by
  simpa using h

theorem witness_RowWords (i : Instr) (fn : Nat) (h : (i = .rowcopy false false 1 0 ∧ fn = 0) ∨ (i = .rowfill false false 1 0 ∧ fn = 1) ∨
      (i = .rowmaj false false 1 0 ∧ fn = 6)) :
    let s := queued false (holding (coreWith 0 0 0x7FFFC0) 0x7FFFC0 (leBytes 64 (rowDesc (rowSources fn)).toNat)) i []
    rowForm i = some (fn, 1, 0) ∧ CanStart s false false true i (entry i []) [] ∧ (entry i []).caps = [] ∧
    (loadAddress s.core 1 0 0 64).toNat < 2 ^ 23 ∧ (loadAddress s.core 1 0 0 64).toNat % 64 = 0 ∧ (∀ m ∈ s.mem.marks, m.place ≠ 3) ∧
    rowDesc (rowSources fn) = BitVec.ofNat 512 (leNat (s.core.spBytes (loadAddress s.core 1 0 0 64).toNat 64)) ∧
    RowDesc.wf (rowDesc (rowSources fn)) fn = true ∧ RowDesc.len (rowDesc (rowSources fn)) ≠ 0 ∧
    RowDesc.len (rowDesc (rowSources fn)) % 1024 = 0 ∧
    (∀ v ∈ RowDesc.operands (rowDesc (rowSources fn)) fn, v.toNat % 1024 = 0) ∧ s.core.rows.length < 4 := by
  rcases h with ⟨rfl, rfl⟩ | ⟨rfl, rfl⟩ | ⟨rfl, rfl⟩
  all_goals
    exact ⟨rfl, canStart (by decide +kernel), rfl, by decide +kernel, by decide +kernel, by decide +kernel, by decide +kernel, by decide +kernel,
      by decide +kernel, by decide +kernel, aligned_of (by decide +kernel), by decide +kernel⟩

/-- Template 63 is loaded with a record. -/
def templated (r : BitVec 256) : State :=
  seqOf { core with arrays := { core.arrays with templates := poke core.arrays.templates 63 r, tvalid := 1 <<< 63 } }

/-- A record of one register per place: opcode, latency bound, the four descriptors, the formats, IMM and OPS. -/
def record (code lat d a b c : Nat) (fmtD fmtA fmtB imm ops : Nat) : BitVec 256 :=
  BitVec.ofNat 256 (code + 2 ^ 8 * lat + 2 ^ 16 * d + 2 ^ 40 * a + 2 ^ 64 * b + 2 ^ 88 * c + 2 ^ 122 * fmtD + 2 ^ 127 * fmtA + 2 ^ 132 * fmtB +
    2 ^ 144 * imm + 2 ^ 176 * ops)

/-- Descriptors: register `n` of row 0, a scalar code, a port, nothing. -/
def inReg (n : Nat) : Nat := 4096 * n
def inScalar (x : Nat) : Nat := 2 ^ 23 + x
def inPort (p : Nat) : Nat := 2 ^ 22 + 4096 * p
def nothing : Nat := 3 * 2 ^ 22

/-- `vadd` in FP32 of register 1 and a scalar in s1. -/
def vaddRecord : BitVec 256 := record 0 255 (inReg 0) (inReg 1) (inScalar 1) nothing 0 0 0 0 0

theorem witness_ClauseWords :
    (templated vaddRecord).core.tdefPending 63 = false ∧ (templated vaddRecord).core.clauseError 63 = none ∧ (templated vaddRecord).core.arrays.tvalid.getLsbD 63 = true ∧
    (0xFFFF : BitVec 16).toNat < 2 ^ patchWidth ((templated vaddRecord).core.clauseFor 63) 15 ∧
    (63 : BitVec 16).toNat < 2 ^ patchWidth ((templated vaddRecord).core.clauseFor 63) 2 ∧
    Rec.ok ((templated vaddRecord).core.clauseFor 63) = true ∧ (templated vaddRecord).core.cqHeld < 64 ∧
    (templated vaddRecord).core.readAll (templated vaddRecord).cur.val (Rec.scalarCodes ((templated vaddRecord).core.clauseFor 63)) =
      .ok [0] (templated vaddRecord).core ∧ (templated vaddRecord).core.queues.unplaced = [] := by decide +kernel


/-- The CQ is full, and repetitions of an earlier `tx` stand unplaced. -/
theorem witness_ClauseWords_waits :
    let c := (templated vaddRecord).core
    let f := { c with queues := { c.queues with cq := List.replicate 64 (entry (.tx false false false false 63 0) []) } }
    let u := { c with queues := { c.queues with unplaced := [entry (.tx false false false false 63 0) []] } }
    64 ≤ f.cqHeld ∧ f.tdefPending 63 = false ∧ f.clauseError 63 = none ∧ f.arrays.tvalid.getLsbD 63 = true ∧
    u.queues.unplaced = entry (.tx false false false false 63 0) [] :: [] := by decide +kernel

/-! ### Wide operations -/

/-- An operation of a record. -/
def opOf (r : BitVec 256) : WideOp :=
  { record := r, word := 0xE641FC00, wp := false, wn := false, sp := false, sn := false, capA := 0, capB := 0, capC := 0 }

/-- An operation alone at the head of the CQ. -/
def wideEntry (op : WideOp) : QEntry := entry (wideInstr op) []

def wideOn (c : Core) (op : WideOp) : State := stateOf { c with queues := { c.queues with cq := [wideEntry op] } } .cq

/-- The hypotheses of `CanIssue`, evaluated. -/
def issuesB (s : State) (op : WideOp) (e : QEntry) (rest : List QEntry) : Bool :=
  decide (s.core.queues.cq = e :: rest) && decide (e.state = .waiting) && s.core.cqTokens op && !s.wireHolds &&
    decide (s.core.units.cqNext ≤ s.now) && s.core.unitFree op.record s.now &&
    (Rec.portsOf op.record).all (fun p => s.core.portOk op.record p) && Rec.feedOk op.record &&
    decide (s.minLatency op.record ≤ Rec.lat op.record) && s.core.inputsReady (s.core.popSources op.record) &&
    s.core.feedsReady op.record &&
    (decide (descKind (Rec.desc op.record 0) ≠ 1) ||
      s.core.outputReady (descPort (Rec.desc op.record 0)) (s.core.pushCount op.record (s.core.columnsAsked op.record))) &&
    !s.core.conflict s.now (s.core.readsOf op.record) (s.core.writesOf op.record) && (s.core.zeroStop op.record).isNone &&
    decide (s.mem.marks = [] ∧ s.core.damage = [])

theorem canIssue {s : State} {op : WideOp} {e : QEntry} {rest : List QEntry} (h : issuesB s op e rest = true) : CanIssue s op e rest := by
  simp only [issuesB, Bool.and_eq_true, decide_eq_true_eq, Bool.or_eq_true, Bool.not_eq_true', List.all_eq_true,
    Option.isNone_iff_eq_none] at h
  obtain ⟨⟨⟨⟨⟨⟨⟨⟨⟨⟨⟨⟨⟨⟨h1, h2⟩, h3⟩, h4⟩, h5⟩, h6⟩, h7⟩, h8⟩, h9⟩, h10⟩, h11⟩, h12⟩, h13⟩, h14⟩, h15⟩ := h
  exact ⟨h1, .inl h2, fun _ => h3, h4, h5, h6, h7, h8, h9, h10, h11, fun k => h12.resolve_left fun n => n k, h13, h14, h15⟩

/-- `viadd` in INT32 of registers 1 and 2; its latency bound is its minimum. -/
def viaddRecord : BitVec 256 := record 0x20 5 (inReg 0) (inReg 1) (inReg 2) nothing 6 6 6 0 0

/-- `vcompact` in INT32. -/
def compactRecord : BitVec 256 := record 0x4A 255 (inReg 0) (inReg 1) (inReg 2) nothing 6 6 6 0 0

/-- `mpiv` of a whole FP32 tile in sixteen registers, `mzero`, `mload`, `mdrain` and `mma` with both feeds. -/
def mzeroRecord : BitVec 256 := record 0x60 4 nothing nothing nothing nothing 0 0 0 0 1
def mmaRecord : BitVec 256 := record 0x62 17 nothing nothing nothing nothing 0 0 0 0 (4 + 8 + 2 ^ 16)

/-- A block of 16 registers as 4 rows of 4, added to a record. -/
def fourByFour : BitVec 256 := BitVec.ofNat 256 (2 ^ 112 * 3 + 2 ^ 117 * 3)

def mloadRecord : BitVec 256 := record 0x61 136 nothing (inReg 28) nothing nothing 0 0 0 0 0 ||| fourByFour
def mdrainRecord : BitVec 256 := record 0x63 136 (inReg 28) nothing nothing nothing 0 0 0 0 2 ||| fourByFour

/-- `mdrain` into port 3, and a core whose port 3 takes 4,096 FP32 bytes a push. -/
def mdrainPortRecord : BitVec 256 := record 0x63 136 (inPort 3) nothing nothing nothing 0 0 0 0 2
def outPort : Core :=
  core.setPort 3 ⟨true, BitVec.ofNat 512 (2 ^ 8 + 2 ^ 32 * 4096 + 2 ^ 48 + 2 ^ 128 + 2 ^ 192 + 2 ^ 256 + 2 ^ 320), 0, none⟩

/-- `mchol` of the last column of an order-1 leading tile, and `mshift` of an order-1 tile. -/
def mcholRecord : BitVec 256 := record 0x64 32 nothing nothing nothing nothing 0 0 0 0 (2 ^ 23)
def mshiftRecord : BitVec 256 := record 0x68 8 nothing (2 ^ 23 + 0) nothing nothing 0 0 0 0 (2 ^ 16)

/-- A core whose feeds hold a group each. -/
def fed : Core := { core with arrays := { core.arrays with feedA := zeroBytes 512, feedB := zeroBytes 512 } }

/-- A core whose first cell of bank 0 holds 4. -/
def four : Core := { core with arrays := { core.arrays with acc0 := poke [] 0 (cellOfFp32 0x40800000) } }

theorem witness_WideAcceptance :
    (wideForm (wideInstr (opOf viaddRecord)) = some (opOf viaddRecord, 0x20) ∧ Rec.wop viaddRecord = 0x20 ∧ Rec.ok viaddRecord = true ∧
      CanIssue (wideOn core (opOf viaddRecord)) (opOf viaddRecord) (wideEntry (opOf viaddRecord)) []) ∧
    (Rec.ok mzeroRecord = true ∧ CanIssue (wideOn core (opOf mzeroRecord)) (opOf mzeroRecord) (wideEntry (opOf mzeroRecord)) []) ∧
    (Rec.ok mmaRecord = true ∧ CanIssue (wideOn fed (opOf mmaRecord)) (opOf mmaRecord) (wideEntry (opOf mmaRecord)) []) ∧
    (Rec.ok mloadRecord = true ∧ CanIssue (wideOn core (opOf mloadRecord)) (opOf mloadRecord) (wideEntry (opOf mloadRecord)) []) ∧
    (Rec.ok mdrainRecord = true ∧ CanIssue (wideOn core (opOf mdrainRecord)) (opOf mdrainRecord) (wideEntry (opOf mdrainRecord)) []) ∧
    (Rec.ok mdrainPortRecord = true ∧ descKind (Rec.desc mdrainPortRecord 0) = 1 ∧
      CanIssue (wideOn outPort (opOf mdrainPortRecord)) (opOf mdrainPortRecord) (wideEntry (opOf mdrainPortRecord)) []) ∧
    (Rec.ok mcholRecord = true ∧ CanIssue (wideOn four (opOf mcholRecord)) (opOf mcholRecord) (wideEntry (opOf mcholRecord)) []) :=
  ⟨⟨by decide +kernel, by decide +kernel, by decide +kernel, canIssue (by decide +kernel)⟩,
    by and_intros <;> first | exact canIssue (by decide +kernel) | decide +kernel⟩

/-- The window of an operation with its data and its factor plan. -/
def windowOf (op : WideOp) (dst : List Nat) (data : List (List Byte × List Byte)) (f : Option FactorPlan) : Window :=
  { serial := 0, entry := wideEntry op, op := op, issue := 0, bound := 255, due := 5, src := [], dst := dst, dataA := data, dataB := data,
    dataC := [], push := none, slots := [], effects := [], factor := f, overSrc := [], overDst := [], fixed := [], closed := false,
    reads := [] }

/-- A core that executes one operation. -/
def executing (c : Core) (w : Window) : State := stateOf { c with queues := { c.queues with windows := [w] } } .cq

theorem alone (c : Core) (w : Window) (h : w.serial = 0 ∧ w.overSrc = [] ∧ w.overDst = [] ∧ w.fixed = []) (hf : w.factor = none ∨
    ∃ f, w.factor = some f ∧ f.breaks = false) : Alone (executing c w).cores[(0 : Fin 96)] 0 w := by
  refine ⟨by simp [executing, stateOf, State.reset], h.1, h.2.1, h.2.2.1, h.2.2.2, fun f hw => ?_⟩
  rcases hf with n | ⟨g, hg, hb⟩
  · rw [n] at hw; cases hw
  · rw [hg] at hw; cases hw; exact hb

/-- A register of zeros as an operand holds it. -/
def zeroData : List (List Byte × List Byte) := [(zeroReg, [])]

theorem witness_VectorResults (r : BitVec 256) (h : r = viaddRecord ∨ r = compactRecord) :
    let w := windowOf (opOf r) [0] zeroData none
    let s := executing core w
    let out := vecResult w.op.record (w.source 1 w.dataA) (w.source 2 w.dataB) (w.source 3 w.dataC)
      ((Rec.block w.op.record 0).map s.cores[(0 : Fin 96)].vreg)
    Alone s.cores[(0 : Fin 96)] 0 w ∧ Rec.wop w.op.record < 0x60 ∧ descKind (Rec.desc w.op.record 0) = 0 ∧ Rec.blockOk w.op.record 0 = true ∧
    CoreArrays.wf s.cores[(0 : Fin 96)].arrays = true ∧ (∀ x ∈ out, x.length = 4096) ∧ s.mem.marks = [] := by
  rcases h with rfl | rfl
  all_goals
    exact ⟨alone _ _ (by decide) (.inl rfl), by decide +kernel, by decide +kernel, by decide +kernel, by decide +kernel, by decide +kernel, rfl⟩
theorem chunks_length {α : Type} (n : Nat) (hn : 0 < n) : ∀ (k : Nat) (xs : List α), xs.length = n * k → (chunks n k xs).length = k := by
  intro k
  induction k with
  | zero => intro xs _; rfl
  | succ k ih =>
    intro xs h
    have hx : xs.isEmpty = false := by
      cases xs with
      | nil => simp [Nat.mul_add] at h; omega
      | cons a b => rfl
    simp only [chunks, hx]
    simp only [Bool.false_eq_true, if_false, List.length_cons]
    rw [ih]
    simp [h, Nat.mul_add]

theorem drain_length (cells : List (BitVec 40)) : (drainBytes 0 false cells).length = 4 * cells.length := by
  unfold drainBytes
  induction cells with
  | nil => rfl
  | cons c cs ih =>
    simp only [List.flatMap_cons, List.length_append, ih, List.length_cons]
    have : (leBytes (fmtWidth 0 / 8) ((floatOf 0).put rcRNE 0 0 false (cellNum c))).length = 4 := by
      rfl
    omega

theorem witness_ArrayResults (r : BitVec 256) (dst : List Nat) (data : List (List Byte × List Byte)) :
    Alone (executing core (windowOf (opOf r) dst data none)).cores[(0 : Fin 96)] 0 (windowOf (opOf r) dst data none) ∧
    (executing core (windowOf (opOf r) dst data none)).mem.marks = [] ∧
    Rec.wop mzeroRecord = 0x60 ∧ Rec.wop mmaRecord = 0x62 ∧
    (Rec.wop mloadRecord = 0x61 ∧ (loadCells (Rec.fmtA mloadRecord) ((List.replicate 16 (zeroReg, ([] : List Byte))).flatMap (·.1))).length = 16384 ∧
      (List.replicate 16 (zeroReg, ([] : List Byte))).length = (Rec.block mloadRecord 1).length) ∧
    (Rec.wop mdrainRecord = 0x63 ∧ descKind (Rec.desc mdrainRecord 0) = 0 ∧ Rec.blockOk mdrainRecord 0 = true ∧
      CoreArrays.wf core.arrays = true ∧ (core.drainOut mdrainRecord).length = 4096 * Rec.regs mdrainRecord) ∧
    (Rec.wop mdrainPortRecord = 0x63 ∧ descKind (Rec.desc mdrainPortRecord 0) = 1) := by
  refine ⟨alone _ _ ⟨rfl, rfl, rfl, rfl⟩ (.inl rfl), rfl, by decide +kernel, by decide +kernel, ⟨by decide +kernel, ?_, by decide +kernel⟩,
    ⟨by decide +kernel, by decide +kernel, by decide +kernel, by decide +kernel, ?_⟩, by decide +kernel⟩
  · have hf : Rec.fmtA mloadRecord = 0 := by decide +kernel
    have hz : zeroReg.length = 4096 := by decide +kernel
    rw [hf]; unfold loadCells
    rw [List.length_map, chunks_length _ (by decide) _ _ (by
      simp only [List.flatMap_replicate, List.length_flatten, List.map_replicate, List.sum_replicate_nat, hz]; rfl)]
  · have hf : Rec.fmtD mdrainRecord = 0 := by decide +kernel
    have hs : Rec.sat mdrainRecord = false := by decide +kernel
    have hr : Rec.regs mdrainRecord = 16 := by decide +kernel
    unfold Core.drainOut
    rw [hf, hs, hr, drain_length]
    simp [bankCells]

/-- The plan of an issue without a breakdown. -/
def plain : FactorPlan := { first := 0, cols := 1, breaks := false, nothing := false, pivot := 3 }

/-- `mlu` of an order-1 leading tile into a pivot register. -/
def mluRecord : BitVec 256 := record 0x65 36 nothing nothing nothing nothing 0 0 0 0 (2 ^ 23)

theorem witness_FactorResults (r : BitVec 256) (h : r = mcholRecord ∨ r = mluRecord) :
    let w := windowOf (opOf r) [3] [] (some plain)
    let s := executing four w
    Alone s.cores[(0 : Fin 96)] 0 w ∧ s.mem.marks = [] ∧ Rec.isColumns w.op.record = true ∧
    (∃ f, s.cores[(0 : Fin 96)].columnRun w.op.record = some f ∧ f.broke = none) ∧ w.push = none ∧
    (s.cores[(0 : Fin 96)].pivotOut w).length = 4096 ∧ Rec.wop mluRecord = 0x65 ∧
    (Rec.wop mshiftRecord = 0x68 ∧ (executing four (windowOf (opOf mshiftRecord) [] [] none)).cores[(0 : Fin 96)].factor.act = false ∧
      Rec.order mshiftRecord ≤ (if Rec.op mshiftRecord 1 1 = 1 then core.factor.col else Rec.op mshiftRecord 16 7)) := by
  have run : ∀ o : Option FactorRun, (match o with | some f => f.broke.isNone | none => false) = true → ∃ f, o = some f ∧ f.broke = none := by
    intro o ho
    cases o with
    | none => cases ho
    | some f => exact ⟨f, rfl, by simpa using ho⟩
  rcases h with rfl | rfl
  all_goals
    exact ⟨alone _ _ (by decide) (.inr ⟨plain, rfl, rfl⟩), rfl, by decide +kernel, run _ (by decide +kernel), rfl, by decide +kernel,
      by decide +kernel, by decide +kernel⟩

theorem witness_LaneValues :
    let r (code ops : Nat) : BitVec 256 := record code 5 (inReg 0) (inReg 1) (inReg 2) nothing 6 6 6 0 ops
    (∀ code ∈ [0x20, 0x21, 0x22, 0x23, 0x24, 0x25, 0x26, 0x27, 0x28, 0x29, 0x2A, 0x2B, 0x2C, 0x2D, 0x2F], Rec.wop (r code 0) = code ∧
      Rec.fmtD (r code 0) = 6 ∧ Rec.fmtA (r code 0) = 6 ∧ Rec.fmtB (r code 0) = 6 ∧ Rec.sat (r code 0) = false) ∧
    Rec.wop (r 0x2E 2) = 0x2E ∧ Rec.ops (r 0x2E 2) = 2 := by decide +kernel

theorem witness_ExactArithmetic :
    (fp32.decode 0x3F800000).toRat.isSome = true ∧ 0x3F800000 < 2 ^ fp32.width ∧ (e4m3.decode 0x7E).toRat.isSome = true ∧ 0x7E < 2 ^ e4m3.width ∧
    (e5m2.decode 0x7B).toRat.isSome = true ∧ 0x7B < 2 ^ e5m2.width ∧ fp32 ∈ [fp32, bf16, fp16, e4m3, e5m2, xf40] := by decide +kernel


/-- A record of an operation of lanes: its formats, OPS, the rounding code and SAT. -/
def laneRecord (code fmtD fmtA fmtB ops rc : Nat) (sat : Bool) : BitVec 256 :=
  record code 255 (inReg 0) (inReg 1) (inReg 2) nothing fmtD fmtA fmtB 0 ops ||| BitVec.ofNat 256 (2 ^ 137 * rc + 2 ^ 140 * natOfBool sat)

/-- Every integer format, with SAT and without; every comparison of every float format, of numbers and of a NaN. -/
theorem witness_LaneValues_integer :
    (∀ d ∈ intFormats, ∀ code ∈ [0x20, 0x21, 0x22], ∀ sat ∈ [false, true], let r := laneRecord code d.1 d.1 d.1 0 0 sat
      (Rec.fmtD r, d.2) ∈ intFormats ∧ Rec.fmtA r = Rec.fmtD r ∧ Rec.fmtB r = Rec.fmtD r ∧ Rec.wop r = code ∧ Rec.sat r = sat ∧
        2 ^ d.2.width - 1 < 2 ^ d.2.width) ∧
    (∀ d ∈ floatFormats, ∀ ops ∈ [0, 1, 2, 3, 4, 5], let r := laneRecord 0x2E 8 d.1 d.1 ops 0 false
      (Rec.fmtA r, d.2.1, d.2.2) ∈ floatFormats ∧ Rec.fmtB r = Rec.fmtA r ∧ Rec.wop r = 0x2E ∧ Rec.ops r = ops) ∧
    fp32.decode 0x7FC00000 = .nan ∧ (fp32.decode 0).toRat.isSome = true := by decide +kernel

/-- Block 0x00, every code, on numbers, on a NaN and on a negative number. -/
theorem witness_LaneValues_float :
    (∀ code ∈ List.range 16, Rec.wop (laneRecord code 0 1 1 0 0 false) = code) ∧
    (Num.toRat (.fin true 3 (-1))).isSome = true ∧ Num.toRat (.fin true 1 0) = some (-1) ∧ ((-1 : Rat) < 0) ∧
    ((0x09, Num.fin true 0 4, Num.inf true) ∈ [(0x09, Num.fin true 0 4, Num.inf true), (0x09, .inf true, .fin true 0 0)]) := by decide +kernel

/-- Reductions of four lanes, of floats and of integers, and running sums. -/
theorem witness_LaneValues_reductions :
    (∀ code ∈ [0x40, 0x41, 0x42, 0x43], Rec.wop (laneRecord code 0 0 0 0 0 false) = code ∧ fmtFloat (Rec.fmtA (laneRecord code 0 0 0 0 0 false)) = true ∧
      fmtFloat (Rec.fmtA (laneRecord code 6 6 6 0 0 true)) = false) ∧
    [1, 2, 3, 4].length = 2 ^ 2 ∧ [1, 2, 3, 4] ≠ ([] : List Nat) ∧ 3 < [1, 2, 3, 4].length := by decide +kernel

theorem absent_lanes (w k : Nat) : (Src.absent.lanes w k).length = 32768 / w := by simp [Src.lanes]

/-- Register by register, and across a block of 16 registers. -/
theorem witness_LaneValues_registers (k : Nat) :
    (∀ code ∈ [0x00, 0x0F, 0x20, 0x2F, 0x40, 0x42, 0x43, 0x44, 0x45, 0x46, 0x47, 0x48, 0x49, 0x4A, 0x4C, 0x4D, 0x4E],
      let r := laneRecord code 0 0 0 1023 0 false
      Rec.wop r = code ∧ 0 < Rec.regs r ∧ fmtWidth (Rec.fmtA r) = fmtWidth (Rec.fmtD r) ∧ fmtWidth (Rec.fmtB r) = fmtWidth (Rec.fmtD r) ∧
        Rec.fmtD r ≠ 5 ∧ Rec.ops r < fmtLanes (Rec.fmtD r) ∧ Rec.fmtA r = Rec.fmtD r ∧ fmtWidth (Rec.fmtD r) = 32 ∧ fmtLanes (Rec.fmtD r) = 32768 / 32) ∧
    (Src.absent.lanes 32 k).length = 32768 / 32 ∧
    (Rec.wop (laneRecord 0x4B 0 0 0 0 0 false ||| fourByFour) = 0x4B ∧ (Src.absent.lanes 32 k).length = 1024) ∧
    (Rec.wop (laneRecord 0x4A 2 2 2 0 0 false ||| fourByFour) = 0x4A ∧ (Src.absent.lanes 16 k).length = 2048) :=
  ⟨by decide +kernel, by simp [absent_lanes], ⟨by decide +kernel, by simp [absent_lanes]⟩, by decide +kernel, by simp [absent_lanes]⟩

/-- Conversions that widen and that narrow, in their last part, and a value of every kind. -/
theorem witness_LaneValues_conversions :
    (let r := laneRecord 0x4C 3 0 0 3 4 false
     fmtLanes (Rec.fmtA r) = 1024 ∧ fmtLanes (Rec.fmtD r) = 4096 ∧ Rec.op r 0 2 * 1024 + 1024 ≤ 4096 ∧ (Rec.fmtD r, e4m3, 8) ∈ floatFormats) ∧
    (let r := laneRecord 0x4C 6 9 0 3 0 false
     fmtLanes (Rec.fmtA r) = 4096 ∧ fmtLanes (Rec.fmtD r) = 1024 ∧ Rec.op r 0 2 * 1024 + 1024 ≤ 4096 ∧ (Rec.fmtD r, (⟨32, true⟩ : IFmt)) ∈ intFormats) ∧
    (List.replicate 1024 (0 : Nat)).length = 1024 ∧ laneNum 0 0x7FC00000 = .nan ∧ laneNum 0 0xFF800000 = .inf true ∧
    (roundInt 0 0 8 (laneNum 0 0x3FC00000)).isSome = true := by decide +kernel

/-- Q4 blocks with a NaN and without, the largest exponent and the smallest, a whole register and one part of it. -/
theorem witness_LaneValues_q4 :
    (∀ type ∈ [0, 1, 2, 3], Rec.op (laneRecord 0x4D 5 0 0 type 0 false) 0 2 = type) ∧
    (∃ x ∈ [0, 0x7FC00000], laneNum 0 x = .nan) ∧ (∀ x ∈ [0, 0x3F800000, 0xFF800000], laneNum 0 x ≠ .nan) ∧
    Rec.op (laneRecord 0x4D 5 0 0 12 0 false) 2 2 * 32 + 32 ≤ 128 ∧ (List.replicate (32 * 32) (0 : Nat)).length = 32 * 32 ∧
    (zeroBytes 4096).length = 4096 ∧ Rec.fmtD (laneRecord 0x4E 2 5 5 1 0 false) < 3 ∧
    Rec.op (laneRecord 0x4E 2 5 5 1 0 false) 0 2 * fmtLanes 2 + fmtLanes 2 ≤ 4096 := by decide +kernel

/-- A bank, and tiles of the orders 1 and 2 with a column of zeros and with another. -/
theorem witness_ExactArithmetic_tiles :
    ((List.replicate 16384 (0 : BitVec 40)).length = 16384 ∧ 127 < 128) ∧
    (let t : Tile := { n := 2, cells := #[0x3F800000, 0, 0x40000000, 0x3F800000], flags := FpFlags.none }
     t.cells.size = t.n * t.n ∧ 1 < t.n ∧ t.n ≤ 128 ∧ t.zeroColumn 0 = false ∧ t.get 1 0 % 2 ^ 31 ≠ 0 ∧ t.breaks 1 false 0 = none ∧ t.breaks 3 false 1 = none) ∧
    (let t : Tile := { n := 1, cells := #[0x80000000], flags := FpFlags.none }
     t.cells.size = t.n * t.n ∧ t.zeroColumn 0 = true ∧ (t.breaks 2 false 0).isSome = true ∧ t.breaks 2 true 0 = none ∧ t.get 0 0 % 2 ^ 31 = 0) ∧
    Sparse.wf ([] : Sparse 40) = true ∧
    (four.goesOn mcholRecord = false ∧ Rec.begins mcholRecord = true ∧ four.goesOn mluRecord = false) ∧
    ({ four with factor := { four.factor with fcol := fcolWord true 1 false 0 0 } }.goesOn (record 0x64 32 nothing nothing nothing nothing 0 0 0 0 0) = true) ∧
    (four.goesOn (record 0x64 32 nothing nothing nothing nothing 0 0 0 0 0) = false ∧
      Rec.begins (record 0x64 32 nothing nothing nothing nothing 0 0 0 0 0) = false) ∧
    (List.replicate 128 (0 : Nat)).length = 128 := by decide +kernel

/-- `mshift` of the last row of an order-1 tile. -/
def shiftRecord : BitVec 256 := record 0x68 8 nothing (inScalar 1) nothing nothing 0 0 0 0 0

/-- An `mtrs` of one right-hand side into port 3. -/
def mtrsRecord : BitVec 256 := record 0x67 255 (inPort 3) (inPort 2) nothing nothing 0 0 0 0 0

theorem witness_FactorResults_shift (act : Bool) :
    let w := windowOf (opOf shiftRecord) [] [] none
    let c := if act then { four with factor := { four.factor with fcol := fcolWord true 1 false 0 0 } } else four
    let s := executing c w
    Alone s.cores[(0 : Fin 96)] 0 w ∧ s.mem.marks = [] ∧ Rec.wop w.op.record = 0x68 ∧ (∃ sigma, w.source 1 w.dataA = .lane sigma) ∧
    (0 : Nat) = (if Rec.op w.op.record 1 1 = 1 then s.cores[(0 : Fin 96)].factor.col else Rec.op w.op.record 16 7) ∧ 0 < Rec.order w.op.record ∧
    s.cores[(0 : Fin 96)].factor.act = act ∧ s.cores[(0 : Fin 96)].factor.bank = Rec.bank w.op.record := by
  cases act <;> exact ⟨alone _ _ (by decide) (.inl rfl), rfl, by decide +kernel, ⟨0, by decide +kernel⟩, by decide +kernel⟩

theorem witness_FactorResults_solve (p : PushPlan) :
    let w := { windowOf (opOf mtrsRecord) [] zeroData none with push := some p }
    Alone (executing four w).cores[(0 : Fin 96)] 0 w ∧ Rec.wop w.op.record = 0x67 ∧ w.push = some p ∧ (executing four w).mem.marks = [] :=
  ⟨alone _ _ ⟨rfl, rfl, rfl, rfl⟩ (.inl rfl), show Rec.wop mtrsRecord = 0x67 by decide +kernel, rfl, rfl⟩

/-! ### The Sluice, the Weir, LAUNCH and COLL -/

/-- A page table at 0x10000 that maps the first GiB onto itself, then some bytes. -/
def tabled (s : State) (data : List (Nat × List Byte)) : State :=
  let tables := pokeN (w := 8) (pokeN (w := 8) s.mem.dram 0x10000 (leBytes 8 0x20001)) 0x20000 (leBytes 8 0x6F)
  s.setMem { s.mem with dram := data.foldl (fun d e => pokeN (w := 8) d e.1 e.2) tables }

/-- Full service with queue 15 open on the page table, and the bytes in memory; the queue's unit acts. -/
def serving (data : List (Nat × List Byte)) : State :=
  let s := tabled (stateOf Core.reset .seq) data
  { (s.setControl { s.control with
      queues := s.control.queues.set 15 { SluiceQueue.reset with ctl := 0x110, root := 0x10000, head := 5, tail := 6 }
      cpool := (2 ^ 96 - 1 : Nat) }) with
    focus := { Focus.zero with queue := 15 }
    fabric := { s.fabric with regs := [] } }

/-- The same with page 0 in flight. -/
def flying (data : List (Nat × List Byte)) : State :=
  let s := serving data
  s.setMem { s.mem with inFlight := [0] }

/-- The same with every site but that of the page tables' first lines still to join. -/
def joining (data : List (Nat × List Byte)) : State :=
  let s := serving data
  { s with sites := s.sites.map fun u => { u with joined := false } }

/-- An active command of queue 2 that asks for nothing. -/
def other : ActiveCmd := { id := 9, queue := 2, cmd := 7, wait := .items, left := 0, tags := [], ends := [], started := true }

theorem xlat_of {r : State × AgentXlat} {x : AgentXlat} (h : r.2 = x) : r = (r.1, x) := by rw [← h]

/-- A MARKER with a completion word. -/
def worded (at_ : Nat) : Command := BitVec.ofNat 512 (7 + 2 ^ 9 + 2 ^ 32 * 0x55 + 2 ^ 64 * at_)

theorem witness_CommandCompletion :
    (((serving []).writeBackAll.writeCompletion ((serving []).queueRoot other.queue) other.cmd 1 0).2 = true ∧ cmdWord other.cmd = 0) ∧
    ((flying []).writeBackAll.writeCompletion ((flying []).queueRoot 15) (worded 0x1008) 1 0).2 = false ∧
    cmdWord (worded 0x1008) ≠ 0 ∧ (cmdWord (worded 0x1008)).toNat % 8 = 0 ∧
    (let r := (serving []).sluiceXlat 0x10000 (cmdWord (worded 0x1008)) .write
     r = (r.1, .pa 0x1008) ∧ r.1.siteHolds 0x1008 = false ∧ (r.1.mem.region 0x1008).cached = true) ∧
    (let r := (joining []).sluiceXlat 0x10000 (cmdWord (worded 0x1008)) .write
     r = (r.1, .pa 0x1008) ∧ r.1.siteHolds 0x1008 = true) ∧
    (let r := (flying []).sluiceXlat 0x10000 (cmdWord (worded 0x1008)) .write
     r = (r.1, .wait)) ∧
    (let r := (serving []).sluiceXlat 0x10000 (cmdWord (worded 0x80000000)) .write
     r = (r.1, .fail) ∧ cmdWord (worded 0x80000000) ≠ 0 ∧ (cmdWord (worded 0x80000000)).toNat % 8 = 0) ∧
    (∀ e ∈ [(0, (1 : Byte), (0 : Byte))], e.2.1.toNat = 1) := by
  refine ⟨by decide +kernel, by decide +kernel, by decide +kernel, by decide +kernel, ⟨xlat_of ?_, ?_⟩, ⟨xlat_of ?_, ?_⟩, xlat_of ?_,
    ⟨xlat_of ?_, ?_⟩, ?_⟩ <;> decide +kernel

theorem witness_SluiceCommands :
    let s := serving []
    let t := s.setControl { s.control with commands := [other] }
    let fence : Command := BitVec.ofNat 512 (5 + 2 ^ 128 * 4)
    let gts (v : Nat) : Command := BitVec.ofNat 512 (3 + 2 ^ 192 * v)
    let qevent (v : Nat) : Command := BitVec.ofNat 512 (3 + 2 ^ 128 * 2 + 2 ^ 140 * 15 + 2 ^ 192 * v)
    CommandAlone s ∧ CommandAlone t ∧ CommandAlone (flying []) ∧
    (cmdOk 7 = true ∧ s.completing? 15 7 = none ∧ s.wordGoes 15 7 .items = true) ∧
    (cmdOk (worded 0x1008) = true ∧ (flying []).completing? 15 (worded 0x1008) = none ∧
      (flying []).wordGoes 15 (worded 0x1008) .items = false) ∧
    (cmdOk fence = true ∧ (∀ a ∈ s.control.commands, fence.getLsbD (128 + a.queue) = false) ∧ s.wordGoes 15 fence (.fence []) = true ∧
      ∃ a ∈ t.control.commands, fence.getLsbD (128 + a.queue) = true) ∧
    (cmdOk (qevent 0) = true ∧ ((s.queue (bitsAt (qevent 0) 140 4)).qdone.ult (cmdValue (qevent 0))) = false ∧
      s.wordGoes 15 (qevent 0) .qevent = true) ∧
    (cmdOk (qevent 1) = true ∧ ((s.queue (bitsAt (qevent 1) 140 4)).qdone.ult (cmdValue (qevent 1))) = true) ∧
    (cmdOk (gts 0) = true ∧ (cmdValue (gts 0)).toNat ≤ s.clock.gts ∧ s.wordGoes 15 (gts 0) .gts = true) ∧
    (cmdOk (gts 1) = true ∧ s.clock.gts < (cmdValue (gts 1)).toNat) ∧ (cmdOk 0 = false ∧ s.completing? 15 0 = none) := by
  have empty : ∀ s : State, s.control.commands = [] → CommandAlone s := fun s h =>
    ⟨fun a ha => (by rw [h] at ha; cases ha), fun a ha => (by rw [h] at ha; cases ha)⟩
  refine ⟨empty _ rfl, ⟨by decide +kernel, ?_⟩, empty _ rfl, by decide +kernel⟩
  intro a ha
  have : a = other := by simpa [State.setControl] using ha
  subst this
  exact ⟨by decide, fun ids => by simp [other]⟩

/-- The value of a word read. -/
def valueOf (r : State × WordRead) : Option Word :=
  match r.2 with
  | .value v => some v
  | _ => none

theorem value_of {r : State × WordRead} {v : Word} (h : valueOf r = some v) : r = (r.1, .value v) := by
  obtain ⟨a, b⟩ := r
  cases b <;> simp [valueOf] at h
  rw [h]

def agentData (r : State × AgentData) : Option (List Byte) :=
  match r.2 with
  | .bytes bs => some bs
  | _ => none

theorem agent_of {r : State × AgentData} {bs : List Byte} (h : agentData r = some bs) : r = (r.1, .bytes bs) := by
  obtain ⟨a, b⟩ := r
  cases b <;> simp [agentData] at h
  rw [h]

/-- WAIT WORD and SIGNAL on the word at 0x1000. -/
def waitWord (cmp : Nat) : Command := BitVec.ofNat 512 (3 + 2 ^ 128 + 2 ^ 136 * cmp + 2 ^ 192 * 5 + 2 ^ 256 * 0xFF + 2 ^ 320 * 0x1000)
def signalWord (add scope : Nat) : Command := BitVec.ofNat 512 (4 + 2 ^ 128 * add + 2 ^ 136 * scope + 2 ^ 192 * 5 + 2 ^ 320 * 0x1000)

def fives : List (Nat × List Byte) := [(0x1000, leBytes 8 5)]

theorem witness_SluiceCommands_word :
    let s := serving fives
    let r := (s.begun 15 (waitWord 0) .word).sluiceXlat (s.queueRoot 15) (cmdTarget (waitWord 0)) .read
    let q := (s.begun 15 (signalWord 1 2) .access).sluiceXlat (s.queueRoot 15) (cmdTarget (signalWord 1 2)) .write
    let z := (s.begun 15 (signalWord 1 3) .access).sluiceXlat (s.queueRoot 15) (cmdTarget (signalWord 1 3)) .write
    cmdOk (waitWord 0) = true ∧ r = (r.1, .pa 0x1000) ∧ r.1.wordAllowed 0x1000 = true ∧ (r.1.readWord 0x1000) = ((r.1.readWord 0x1000).1, .value 5) ∧
    weirHolds (cmdCmp (waitWord 0)) 5 (cmdValue (waitWord 0)) (cmdMask (waitWord 0)) = true ∧
    weirHolds (cmdCmp (waitWord 1)) 5 (cmdValue (waitWord 1)) (cmdMask (waitWord 1)) = false ∧
    s.waiting 15 .access = none ∧
    (cmdOk (signalWord 1 2) = true ∧ q = (q.1, .pa 0x1000) ∧ q.1.siteHolds 0x1000 = false ∧ bitsAt (signalWord 1 2) 136 2 = 2 ∧
      (q.1.mem.region 0x1000).cached = true ∧ q.1.agentRun 0x1000 8 = ((q.1.agentRun 0x1000 8).1, .bytes (leBytes 8 5))) ∧
    (cmdOk (signalWord 1 3) = true ∧ z = (z.1, .pa 0x1000) ∧ z.1.siteHolds 0x1000 = false ∧ bitsAt (signalWord 1 3) 136 2 = 3 ∧
      (z.1.mem.region 0x1000).cached = true ∧
      z.1.writeBackAll.agentRun 0x1000 8 = ((z.1.writeBackAll.agentRun 0x1000 8).1, .bytes (leBytes 8 5))) := by
  intro s r q z
  and_intros <;> first
    | exact xlat_of (by decide +kernel)
    | exact value_of (by decide +kernel)
    | exact agent_of (by decide +kernel)
    | decide +kernel

theorem witness_SluiceCommands_waiting :
    let g : ActiveCmd := { other with id := 3, queue := 15, cmd := 3, wait := .gts }
    let x : ActiveCmd := { other with id := 4, queue := 15, cmd := waitWord 0, wait := .word }
    let s := (serving fives).setControl { (serving fives).control with commands := [g, x] }
    let r := s.sluiceXlat (s.queueRoot 15) (cmdTarget x.cmd) .read
    s.waiting s.focus.queue .gts = some g ∧ (cmdValue g.cmd).toNat ≤ s.clock.gts ∧ s.waiting s.focus.queue .word = some x ∧
    r = (r.1, .pa 0x1000) ∧ r.1.wordAllowed 0x1000 = true ∧ (r.1.readWord 0x1000) = ((r.1.readWord 0x1000).1, .value 5) ∧
    weirHolds (cmdCmp x.cmd) 5 (cmdValue x.cmd) (cmdMask x.cmd) = true := by
  intro g x s r
  exact ⟨by decide +kernel, by decide +kernel, by decide +kernel, xlat_of (by decide +kernel), by decide +kernel, value_of (by decide +kernel),
    by decide +kernel⟩

def sluiceBytes (r : State × SluiceRead) : Option (List Byte) :=
  match r.2 with
  | .bytes bs => some bs
  | _ => none

theorem sluice_of {r : State × SluiceRead} {bs : List Byte} (h : sluiceBytes r = some bs) : r = (r.1, .bytes bs) := by
  obtain ⟨a, b⟩ := r
  cases b <;> simp [sluiceBytes] at h
  rw [h]

/-- ARM and DISARM of entry 63 for queue 15; ARM on the word at 0x1000 with the command at 0x2000. -/
def armWord : Command :=
  BitVec.ofNat 512 (6 + 2 ^ 128 * 63 + 2 ^ 144 * 15 + 2 ^ 192 * 5 + 2 ^ 256 * 0xFF + 2 ^ 320 * 0x1000 + 2 ^ 384 * 0x2000)
def disarmWord : Command := BitVec.ofNat 512 (6 + 2 ^ 128 * 63 + 2 ^ 135)

/-- An armed entry of queue 15. -/
def watch : WeirEntry :=
  { index := 63, rearm := false, cmp := 0, tq := 15, value := 5, mask := 0xFF, addr := 0x1000, bound := 7, serial := 4 }

theorem witness_WeirCommands :
    let s := serving (fives ++ [(0x2000, leBytes 8 7)])
    let r := (s.begun 15 armWord .access).sluiceXlat ((s.begun 15 armWord .access).queueRoot 15) (cmdTarget armWord) .read
    let v := r.1.sluiceRead (r.1.queueRoot 15) (cmdBound armWord) 3 64
    cmdOk armWord = true ∧ s.waiting 15 .access = none ∧ r = (r.1, .pa 0x1000) ∧ r.1.mem.region 0x1000 = .dram ∧
    v = (v.1, .bytes (leBytes 64 7)) ∧ (v.1.readWord 0x1000) = ((v.1.readWord 0x1000).1, .value 5) ∧
    weirHolds (cmdCmp armWord) 5 (cmdValue armWord) (cmdMask armWord) = true := by
  intro s r v
  exact ⟨by decide +kernel, by decide +kernel, xlat_of (by decide +kernel), by decide +kernel, sluice_of (by decide +kernel),
    value_of (by decide +kernel), by decide +kernel⟩

/-- Entry 63 of the Weir holds `e`, and queue 15 holds some fired commands. -/
def weired (e : WeirEntry) (n : Nat) : State :=
  let s := serving []
  let s := s.setControl { s.control with weir := [e] }
  { s.setQueue 15 { s.control.queues[(15 : Fin 16)] with fired := List.replicate n (7, 5) } with focus := { s.focus with entry := 63 } }

theorem witness_WeirCommands_disarm :
    let s := weired watch 0
    CommandAlone s ∧ cmdOk disarmWord = true ∧ bitsAt disarmWord 128 6 = 63 ∧ watch ∈ s.control.weir ∧
    (s.dropEntry 63).wordGoes 15 disarmWord .items = true ∧ cmdWord disarmWord = 0 :=
  ⟨⟨fun a ha => (by cases ha), fun a ha => (by cases ha)⟩, by decide +kernel⟩

/-- A firing of the entry, at a stage. -/
def firing (id : Nat) (stage : FiringStage) : Firing := { id := id, entry := 63, serial := 4, tq := 15, bound := 7, stage := stage }

/-- Entry 63 of the Weir with some firings on their way. -/
def fired (fs : List Firing) (n : Nat) : State :=
  let s := weired watch n
  s.setControl { s.control with firings := fs, weirCount := 9 }

/-- A write that satisfies the compare of the entry, one that does not, one beside it, and one while a firing is pending. -/
theorem witness_WeirCommands_write :
    let s := serving fives
    let s := s.setControl { s.control with weir := [watch] }
    (s.control.weir = [watch] ∧ (0x1007 < watch.addr + 8 ∧ watch.addr < 0x1007 + 1) ∧
      (∀ f ∈ s.control.firings, f.serial = watch.serial → f.stage ≠ .pending) ∧
      weirHolds watch.cmp (BitVec.ofNat 64 (s.mem.number watch.addr 8)) watch.value watch.mask = true) ∧
    ¬ (0x1008 < watch.addr + 8 ∧ watch.addr < 0x1008 + 8) ∧
    (let x := { watch with value := 6 }
     weirHolds x.cmp (BitVec.ofNat 64 (s.mem.number x.addr 8)) x.value x.mask = false) ∧
    (∃ f ∈ (fired [firing 1 .pending] 16).control.firings, f.serial = watch.serial ∧ f.stage = .pending) := by
  and_intros <;> first | decide +kernel | exact ⟨firing 1 .pending, by decide +kernel⟩

/-- An entry of the agenda for the firing of entry 62, due now. -/
def lowerFiring : Pending := ⟨0, entryFocus 62, .pendingFiring⟩

theorem witness_WeirCommands_firing :
    ((fired [firing 1 .raised] 0).control.firings.find? (fun f => f.entry == (fired [firing 1 .raised] 0).focus.entry.val && f.stage == .raised) =
      some (firing 1 .raised)) ∧
    ((weired watch 0).control.firings.find? (fun f => f.entry == (weired watch 0).focus.entry.val && f.stage == .raised) = none) ∧
    (fired [firing 1 (.flying 0)] 15).lowerFires = false ∧
    ({ weired watch 0 with agenda := [lowerFiring] } : State).lowerFires = true ∧
    (let s := fired [firing 1 (.flying 0)] 15
     (s.queue (firing 1 (.flying 0)).tq).fired.length < 16 ∧ s.order.weir = false) ∧
    (let s := fired [firing 1 .pending, firing 2 (.flying 0)] 16
     16 ≤ (s.queue (firing 2 (.flying 0)).tq).fired.length ∧
       ∃ x ∈ s.control.firings, x.serial = (firing 2 (.flying 0)).serial ∧ x.stage = .pending ∧ x.id ≠ (firing 2 (.flying 0)).id) ∧
    (let s := fired [firing 1 (.flying 0)] 16
     16 ≤ (s.queue (firing 1 (.flying 0)).tq).fired.length ∧
       ∀ x ∈ s.control.firings, x.serial = (firing 1 (.flying 0)).serial → x.stage = .pending → x.id = (firing 1 (.flying 0)).id) := by
  and_intros <;> first | decide +kernel | exact ⟨firing 1 .pending, by decide +kernel⟩

theorem witness_QueueRegisters :
    let q := (serving []).control.queues[(15 : Fin 16)]
    (((21 : BitVec 32) - q.head).toNat ≤ 2 ^ q.logSize ∧ ((21 : BitVec 32) - q.tail).toNat ≤ 2 ^ q.logSize) ∧
    2 ^ (SluiceQueue.reset).logSize < ((2 : BitVec 32) - (SluiceQueue.reset).head).toNat ∧ 2 ^ q.logSize = 65536 ∧
    2 ^ q.logSize < ((65542 : BitVec 32) - q.head).toNat ∧
    (((5 : BitVec 32) - q.head).toNat ≤ 2 ^ q.logSize ∧ 2 ^ q.logSize < ((5 : BitVec 32) - q.tail).toNat) ∧
    (serving []).focus.queue = 15 ∧ q.sized = true ∧ (serving []).ringBad q = false ∧ (SluiceQueue.reset).enabled = false ∧
    (SluiceQueue.reset).sized = false ∧ (let z := { q with ctl := 0x100 }; z.sized = false ∧ z.enabled = true ∧ z.error = false) ∧
    (({ q with headSince := 2000000 } : SluiceQueue).aged + 1) * 2000000 ≤ 2000000 := by decide +kernel

/-- A LAUNCH of the record at 0x1000. -/
def launchCmd : Command := BitVec.ofNat 512 (1 + 2 ^ 128 * 0x1000)

/-- A record of one spatial level of `n` items, and the 128 bytes of it. -/
def nest (n : Nat) : LoopNest := BitVec.ofNat 1024 (0x40 + 2 ^ 136 + 2 ^ 256 * n + 2 ^ 288)

theorem witness_LaunchAndColl_launch (n : Nat) (h : n = 0 ∨ n = 1) :
    let s := serving [(0x1000, leBytes 128 (nest n).toNat)]
    let r := s.sluiceRead (s.queueRoot 15) (cmdAddr launchCmd) 3 128
    cmdOk launchCmd = true ∧ s.control.job = none ∧ r = (r.1, .bytes (leBytes 128 (nest n).toNat)) ∧
    nest n = BitVec.ofNat 1024 (leNat (leBytes 128 (nest n).toNat)) ∧ LoopNest.wf (nest n) = true ∧ LoopNest.items (nest n) = n ∧
    r.1.mgmt.stage = .stage2 ∧ r.1.setsOpen (cmdTset launchCmd) (nest n) = true ∧ r.1.gangFits (cmdTset launchCmd) (nest n) = true ∧
    LoopNest.wf 0 = false := by
  rcases h with rfl | rfl
  all_goals
    intro s r
    refine ⟨?_, ?_, sluice_of ?_, ?_⟩ <;> decide +kernel

/-- A COLL of the record at 0x1000: one member, one step of one word, and its signature. -/
def collCmd : Command := BitVec.ofNat 512 (2 + 2 ^ 128 * 0x1000)
def collStep : CollStep := BitVec.ofNat 1024 (2 ^ 13 + 2 ^ 11 + 2 ^ 64 + 2 ^ 320)
def collHead (sig : Nat) : CollHeader :=
  BitVec.ofNat 1024 (1 + 2 ^ 8 + 2 ^ 13 + 2 ^ 64 + 2 ^ 128 * sig + 2 ^ 192 * 0x4000 + 2 ^ 256 * 0x5000 + 2 ^ 512 * 0x3000)

def collData (sig : Nat) : List (Nat × List Byte) :=
  [(0x1000, leBytes 128 (collHead sig).toNat), (0x1080, leBytes 128 collStep.toNat), (0x3000, [0, 0])]

def collBytesOf (r : CollRead) : Option (List Byte) :=
  match r with
  | .bytes bs _ => some bs
  | _ => none

def collAfter (r : CollRead) : State :=
  match r with
  | .bytes _ s => s
  | .wait s => s
  | .fail s => s
  | .bad _ _ _ s => s

theorem coll_of {r : CollRead} {bs : List Byte} (h : collBytesOf r = some bs) : r = .bytes bs (collAfter r) := by
  cases r <;> simp [collBytesOf] at h
  rw [h]; rfl

/-- The first 8 bytes of SHAKE256 of what R337 covers, computed outside the model. -/
def signature : Nat := 0xE979B026C942E351

theorem witness_LaunchAndColl_coll :
    let h := collHead signature
    let s := serving (collData signature)
    let r := s.collRead (collSource 23) (s.queueRoot 15) 0 [(cmdAddr collCmd, 128)]
    let u := collAfter r
    let m := u.collRead (collSource 23) (u.queueRoot 15) 0 [(CollHeader.memtab h, 2 * CollHeader.nmem h)]
    let v := collAfter m
    let b := v.collRead (collSource 23) (v.queueRoot 15) 0 [(cmdAddr collCmd + 128, 128 * CollHeader.nsteps h)]
    let w := collAfter b
    cmdOk collCmd = true ∧ s.fabric.colls.length < 8 ∧ s.mgmt.stage = .stage2 ∧ r = .bytes (leBytes 128 h.toNat) u ∧
    h = BitVec.ofNat 1024 (leNat (leBytes 128 h.toNat)) ∧ collHeaderOk h = true ∧ m = .bytes [0, 0] v ∧
    b = .bytes (leBytes 128 collStep.toNat) w ∧ collStepsOk h (stepBlocks (leBytes 128 collStep.toNat)) = true ∧
    collMembersOk h w.devId (halfWords [0, 0]) = true ∧ w.tags.isLive (CollHeader.tag h).toNat = true ∧ halfWords [0, 0] = [0] ∧
    CollHeader.rank h = 0 ∧ CollHeader.sig h = collSignature h (stepBlocks (leBytes 128 collStep.toNat)) [0] ∧ w.fabric.colls = [] := by
  intro h s r u m v b w
  refine ⟨?_, ?_, ?_, coll_of ?_, ?_, ?_, coll_of ?_, coll_of ?_, ?_⟩ <;> decide +kernel

/-! ### Items -/

/-- A job of two items of one level, and a gang of two; FIXTAG is not used. -/
def jobOf (flags count next : Nat) : WalkerJob :=
  { command := 9, queue := 15, record := BitVec.ofNat 1024 (0x1000 + 2 ^ 136 + 2 ^ 144 * flags + 2 ^ 256 * count + 2 ^ 288), root := 0x10000,
    tset := 0, dev := 0, prio := 0, next := next, total := count, phase := 0, live := 0, got := [], asked := false, pressed := [], replay := false }

def walking (j : WalkerJob) (requeued : List Item) : State :=
  let s := serving []
  s.setControl { s.control with job := some j, commands := [{ other with queue := 15, started := false }], requeued := requeued }

theorem witness_ItemDispatch :
    (let j := jobOf 0 2 0
     let s := walking j []
     s.control.requeued = [] ∧ s.control.job = some j ∧ LoopNest.gang j.record = false ∧ j.phaseHeld = false ∧
     s.itemTag j (j.lin j.next) 0 = (s, .tag 0) ∧ s.chooseCore j.tset j.dev (j.die j.next) [] = some 0 ∧
     s.reportHeld j (j.lin j.next) = false ∧
     s.reportTag j (j.lin j.next) 0 = (s, true) ∧ j.next + 1 < j.total) ∧
    (let it : Item := { fetchItem with command := some 9, queue := 15, resume := some 1 }
     let s := walking (jobOf 0 2 1) [it]
     s.held = false ∧ s.control.requeued = [it] ∧ it ∉ ([] : List Item) ∧ s.control.commands.find? (fun a => some a.id == it.command) = some { other with queue := 15, started := false } ∧
     s.tags.killed.contains it.tag.toNat = false ∧ s.chooseCore (cmdTset other.cmd) (cmdDev other.cmd) it.die [] = some 0) ∧
    (let j := jobOf 2 2 0
     let s := walking j []
     LoopNest.gang j.record = true ∧ j.phaseHeld = false ∧ LoopNest.perPhase j.record = 2 ∧ s.gangTags j 2 0 = (s, some [(0, .tag 0), (1, .tag 0)]) ∧
     (∀ e ∈ [(0, TagChoice.tag 0), (1, .tag 0)], e.2 = .tag 0) ∧
     s.gangCores j (gangRuns [(0, .tag 0), (1, .tag 0)]) [] = some [(0, 0, 0), (1, 0, 1)] ∧
     (∀ p ∈ [(0, (0 : Tag), 0), (1, 0, 1)], s.reportHeld j (LoopNest.linear j.record (p.1 / 2) (p.1 % 2)) = false) ∧ LoopNest.tagMode j.record ≠ 3) ∧
    (let j := jobOf 1 2 2
     (walking j []).control.job = some j ∧ j.phaseHeld = true ∧ j.live = 0) := by
  refine ⟨?_, ?_, ⟨?_, ?_, ?_, ?_, ?_⟩, ?_⟩ <;> decide +kernel

/-- An image of one word, one copy template and one live map at address 0, with its header. -/
def imageHead : ImageHeader :=
  BitVec.ofNat 512 (0x36395A48 + 2 ^ 32 + 2 ^ 64 * 256 + 2 ^ 128 * 64 + 2 ^ 160 * 4 + 2 ^ 232 + 2 ^ 240 + 2 ^ 256 * 128 + 2 ^ 320 * 192)

def loadItem (flags : Nat) : Item := { fetchItem with flags := BitVec.ofNat 6 flags }

/-- A core that loads the image. -/
def loadingItem (flags : Nat) (resident : Option (Word × Nat)) : State :=
  let s := stateOf { mapped core with status := .loading, item := some (loadItem flags), image := none, resident := resident } .seq
  s.setMem { s.mem with dram := pokeN (w := 8) s.mem.dram 0 (leBytes 64 imageHead.toNat ++ leBytes 4 0x58100000) }

def loadedBytes (r : LoadRead) : Option (List Byte) :=
  match r with
  | .bytes bs _ => some bs
  | _ => none

def afterLoad (r : LoadRead) : State :=
  match r with
  | .bytes _ s => s
  | .wait s => s
  | .fail s => s
  | .bad _ _ _ s => s

theorem loaded_of {r : LoadRead} {bs : List Byte} (h : loadedBytes r = some bs) : r = .bytes bs (afterLoad r) := by
  cases r <;> simp [loadedBytes] at h
  rw [h]; rfl

theorem witness_ItemEntry :
    let s := loadingItem 32 none
    let it := loadItem 32
    let h := imageHead
    let hb := s.loaderBytes s.cur it.root it.image 64 .read
    let u := afterLoad hb
    let cb := u.loaderBytes s.cur it.root (it.image + BitVec.ofNat 64 (ImageHeader.codeOff h)) (ImageHeader.codeSize h) .code
    let v := afterLoad cb
    let ct := v.loaderBytes s.cur it.root (it.image + BitVec.ofNat 64 (ImageHeader.ctOff h)) (64 * ImageHeader.ctCount h) .read
    let w := afterLoad ct
    let lm := w.loaderBytes s.cur it.root (it.image + BitVec.ofNat 64 (ImageHeader.lmOff h)) (64 * ImageHeader.lmCount h) .read
    s.core.status = .loading ∧ s.core.item = some it ∧ it.image.toNat % 64 = 0 ∧ hb = .bytes (leBytes 64 h.toNat) u ∧
    h = BitVec.ofNat 512 (leNat (leBytes 64 h.toNat)) ∧ ImageHeader.wf h = true ∧ it.flag 5 = true ∧ cb = .bytes (leBytes 4 0x58100000) v ∧
    ct = .bytes (zeroBytes 64) w ∧ lm = .bytes (zeroBytes 64) (afterLoad lm) := by
  intro s it h hb u cb v ct w lm
  refine ⟨?_, ?_, ?_, loaded_of ?_, ?_, ?_, ?_, loaded_of ?_, loaded_of ?_, loaded_of ?_⟩ <;> decide +kernel

theorem witness_ItemEntry_resident :
    let s := loadingItem 0 (some (0, 0))
    let it := loadItem 0
    let h := imageHead
    let hb := s.loaderBytes s.cur it.root it.image 64 .read
    let u := afterLoad hb
    let ct := u.loaderBytes s.cur it.root (it.image + BitVec.ofNat 64 (ImageHeader.ctOff h)) (64 * ImageHeader.ctCount h) .read
    let w := afterLoad ct
    let lm := w.loaderBytes s.cur it.root (it.image + BitVec.ofNat 64 (ImageHeader.lmOff h)) (64 * ImageHeader.lmCount h) .read
    s.core.item = some it ∧ hb = .bytes (leBytes 64 h.toNat) u ∧ it.flag 5 = false ∧ (u.cores[s.cur]).resident = some (it.image, it.root) ∧
    ct = .bytes (zeroBytes 64) w ∧ lm = .bytes (zeroBytes 64) (afterLoad lm) := by
  intro s it h hb u ct w lm
  exact ⟨by decide +kernel, loaded_of (by decide +kernel), by decide +kernel, by decide +kernel, loaded_of (by decide +kernel),
    loaded_of (by decide +kernel)⟩

/-- A core that waits for a GO, its mailbox naming a tag. -/
def mailed (tag : Nat) : State :=
  stateOf { Core.reset with mailbox := BitVec.ofNat 1024 (2 ^ 512 * tag) } .seq

theorem witness_ItemEntry_start :
    (mailed 0).core.item = none ∧ bitsAt (mailed 0).core.mailbox 512 16 = 0 ∧ bitsAt (mailed 65535).core.mailbox 512 16 ≠ 0 ∧
    (mailed 65535).tags.isLive (bitsAt (mailed 65535).core.mailbox 512 16) = false ∧
    ((seqOf { core with status := .loaded }).core.status = .loaded ∧ (seqOf { core with status := .loaded }).groupLoading = false ∧
      ((seqOf { core with status := .loaded }).core.item.bind (·.resume)) = none) := by decide +kernel

/-- A core whose sequencer is in a mode. -/
def inMode (m : SeqMode) : State := seqOf { core with seq := { core.seq with mode := m } }

theorem witness_ItemEnd :
    ((inMode .draining).core.status = .running ∧ (inMode .draining).core.seq.mode = .draining ∧ (inMode .draining).core.drained = true ∧
      (inMode .draining).core.item = some fetchItem) ∧
    (((seqOf core).cores[(0 : Fin 96)]).item.isSome = true ∧ ((seqOf core).cores[(0 : Fin 96)]).status = .running ∧
      ∀ st d, ((seqOf core).cores[(0 : Fin 96)]).seq.mode ≠ .ending st d) ∧
    (((inMode (.ending 4 0)).cores[(0 : Fin 96)]).seq.mode = .ending 4 0 ∧ ((inMode (.ending 4 0)).onUnit 0 .seq).allOver = true) ∧
    (((loadingItem 0 none).cores[(0 : Fin 96)]).item.isSome = true ∧ ((loadingItem 0 none).cores[(0 : Fin 96)]).status = .loading) :=
  ⟨by decide +kernel, ⟨by decide +kernel, by decide +kernel, fun st d h => by cases (show SeqMode.run = .ending st d from h)⟩,
    by decide +kernel, by decide +kernel⟩

/-- A copy that has written the first granule of a sector of the scratchpad. -/
def midSector : CopyRun :=
  { template := BitVec.ofNat 512 (2 ^ 63), next := 1, slot := none, clip := false, failed := 0, lines := [], landings := [], held := [],
    pend := [{ core := 0, key := 0, writes := [(16, [1])], count := 17, clip := false, fault := false, begun := true }] }

theorem witness_ItemEnd_sector :
    let c := core.setChannel 15 { jobs := [], run := some midSector, fifo := [], ready := 0, flt := [] }
    ((seqOf c).cores[(0 : Fin 96)].channels.filterMap (·.2.run)) = [midSector] ∧ (∃ b, midSector.pend = [b] ∧ b.begun = true) ∧
    ((seqOf c).cores[(0 : Fin 96)]).item.isSome = true ∧ ((seqOf c).cores[(0 : Fin 96)]).status = .running ∧
    (∀ x ∈ ((seqOf core).cores[(0 : Fin 96)]).channels, ∀ r, x.2.run = some r → ∀ b ∈ r.pend, b.begun = false) :=
  ⟨by decide +kernel, ⟨_, rfl, rfl⟩, by decide +kernel, by decide +kernel, fun x h => by cases h⟩

/-- A core that saves itself at address 0 on the mapped page. -/
def saving : State :=
  seqOf { mapped core with
    seq := { core.seq with mode := .preempting 0 7 }
    sys := { core.sys with savearea := 1 } }

def savesOf (r : Except Stop (List (List Seg × List Byte))) : Option (List (List Seg × List Byte)) :=
  match r with
  | .ok l => some l
  | .error _ => none

theorem saves_ex {r : Except Stop (List (List Seg × List Byte))} {p : List (List Seg × List Byte) → Bool}
    (h : (match savesOf r with | some l => p l | none => false) = true) : ∃ runs, r = .ok runs ∧ p runs = true := by
  cases r with
  | ok x => exact ⟨x, rfl, by simpa [savesOf] using h⟩
  | error e => simp [savesOf] at h

theorem witness_Preemption :
    let e : QEntry := { entry .nop [] with state := .pushing false true }
    (let s := stateOf (core.setSide true [e]) .lq
     s.actor = .lq ∧ s.core.side true = [e] ∧ s.core.canPush true = true) ∧
    (let s := stateOf (core.setSide false [e]) .sq
     s.actor = .sq ∧ s.core.side false = [e] ∧ s.core.canPush false = true) ∧
    ((seqOf core).cores[(0 : Fin 96)]).preempting = false ∧
    (saving.core.seq.mode = .preempting 0 7 ∧ saving.core.drained = true ∧ saving.mem.marks = [] ∧
      saving.core.damage = [] ∧
      saving.core.item = some fetchItem) ∧
    (∃ runs, saving.mapSaves (saBase saving.core.sys.savearea)
        (saving.core.saveRuns (saving.core.arrays.livemaps.getD (0 : BitVec 6).toNat 0) 0 (saving.core.pc + 4) 7) = .ok runs ∧
      (runs.all fun r => saving.sitesJoined r.1) = true) := by
  intro e
  exact ⟨by decide +kernel, by decide +kernel, by decide +kernel, by decide +kernel, saves_ex (by decide +kernel)⟩

/-- Operations that stand completed in the CQ: one alone, and two of which only the second has room for its push. -/
theorem witness_Preemption_pushing :
    let e : QEntry := { entry .nop [] with state := .pushing true false }
    let f : QEntry := { entry .nop [] with state := .pushing false true }
    let one (b : Bank) := stateOf { core with queues := { core.queues with cq := [e] }, bank0 := b } .cq
    let two (b : Bank) := stateOf { core with queues := { core.queues with cq := [e, f] }, bank0 := b } .cq
    let full : Bank := { core.bank0 with tok := { core.bank0.tok with cqlq := 15 } }
    ((one core.bank0).actor = .cq ∧ (one core.bank0).core.queues.cq = [e] ∧ (one core.bank0).core.bank.tok.cqlq < 15) ∧
    ((two full).actor = .cq ∧ (two full).core.queues.cq = [e, f] ∧ 15 ≤ (two full).core.bank.tok.cqlq ∧ (two full).core.bank.tok.cqsq < 15) := by
  decide +kernel

theorem witness_Preemption_resume :
    let it : Item := { fetchItem with command := some 9, queue := 15, resume := some 1 }
    let s := seqOf { mapped core with status := .loaded, item := some it }
    let r := s.loaderBytes s.cur it.root (saBase 1 + 0) 0x360 .read
    (s.core.status = .loaded ∧ s.core.item = some it ∧ it.resume = some 1 ∧ r = .bytes (zeroBytes 0x360) (afterLoad r)) ∧
    (∃ u, (s.withCore (s.core.restored [] 0 1)).loaderBytes s.cur it.root (saBase 1 + 0x2000#64) ((s.core.restored [] 0 1).bodyLength 0) .read =
      .bytes [] u) := by
  intro it s r
  exact ⟨⟨by decide +kernel, by decide +kernel, rfl, loaded_of (by decide +kernel)⟩, _, loaded_of (by decide +kernel)⟩

theorem witness_Preemption_timeout :
    let it : Item := { fetchItem with command := some 9, queue := 15 }
    let s := seqOf { core with item := some it, prq := true }
    let q : SluiceQueue := { SluiceQueue.reset with ctl := 0x200 }
    let s := ({ s with clock := { s.clock with gts := 5000000 } }).setQueue 15 q
    s.core.prq = true ∧ s.core.preempting = false ∧ s.core.prqSince + s.core.ptoNs ≤ s.clock.gts ∧ s.mayTimeout s.core = true ∧
    (seqOf core).core.prq = false := by decide +kernel

/-! ### Faults, tags, engines and sites -/

/-- A leaf entry at 0x3000, pools of one page at each site, and a live tag 7. -/
def faulting (p : Nat) : State :=
  let s := serving [(0x3000, leBytes 8 p)]
  s.setTags { s.tags with tags := [(7, .live)], mpbase := Vector.replicate 8 0x40000, mpcnt := Vector.replicate 8 1 }

def reqOf (source : Nat) : FaultReq := { source := source, root := 0x10000, va := 0x30000, tag := 7, write := true, site := 0 }

/-- A page request in its queue. -/
def pageReq : PageReq := { rid := 3, gen := 5, req := reqOf 256, kind := 1, waiters := [256] }

theorem read_free {s : State} {i : Fin 8} (place : Nat) (h : (s.tiers[i]).images = []) : ∃ u bs, s.readImage i place = (u, .bytes bs) :=
  ⟨_, _, by unfold State.readImage; rw [h]; rfl⟩

theorem table_of {r : State × Option Word} {p : Word} (h : r.2 = some p) : r = (r.1, some p) := by rw [← h]

theorem witness_FaultService_marks :
    (let r := (faulting 0x3).tableRead 0x3000
     r = (r.1, some 3) ∧ r.1.pteAt 0x3000 = 3 ∧ pteV 3 = true ∧ pteL 3 = true ∧ 0x3000 % 8 = 0) ∧
    (requesterCore (reqOf 95).source = some 95 ∧
      ((faulting 0).serveWalk (some (dieOf 95)) (reqOf 95).root (reqOf 95).va).2 =
        .leaf { root := 0x10000, page := 3, pte := 0x6F, pteAddr := 0x20000, level := 2 }) := by
  refine ⟨⟨table_of ?_, ?_⟩, ?_⟩ <;> decide +kernel

/-- A page of a tag at 0x50000, in the row-intact region of its site. -/
def tagPage : State :=
  let s := faulting 0x50081
  { s with sites := s.sites.map fun u => { u with region := 0x100 } }

theorem fill_intact {s : State} {p f : Nat} (h : ((s.cleanDevice [(p, 65536)]).cleanSystem [(p, 65536)]).rowIntact p = true) :
    (s.fillPage p f).2 = none := by
  simp [State.fillPage, h]

theorem witness_FaultService_page :
    let s := tagPage
    let r := s.tableRead 0x3000
    r = (r.1, some 0x50081) ∧ pteV 0x50081 = true ∧ pteT 0x50081 = true ∧ s.tags.inUse 7 = true ∧ ptePage 0x50081 ≠ zeroPage ∧
    s.tags.ownPage? (ptePage 0x50081) 7 = none ∧ s.tags.freePage (lineSite (ptePage 0x50081 / 64)) = some 0x40000 ∧
    r.1.mem.badLine (ptePage 0x50081 / 65536) = none ∧ r.1.pageHeld 0x40000 = false ∧ r.1.pageHeld (ptePage 0x50081) = false ∧
    (r.1.fillPage (ptePage 0x50081) 0x40000).2 = none := by
  intro s r
  refine ⟨table_of ?_, ?_, ?_, ?_, ?_, ?_, ?_, ?_, ?_, ?_, fill_intact ?_⟩ <;> decide +kernel

/-- A core, or another agent, that comes second finds the page of the tag there; core 95's SQ waits for it. -/
def second (source : Nat) : State :=
  let s := tagPage
  let s := s.setTags { s.tags with dir := [((0x50000, 7), 0x40000)] }
  { s with cores := s.cores.set 95 { s.cores[(95 : Fin 96)] with
      faults := [{ unit := .sq, event := .materialisation (reqOf source) 0x3000, origin := .materialisation (reqOf source) 0x3000, declined := false }] } }

theorem witness_FaultService_second :
    (second 95).tags.ownPage? (ptePage 0x50081) 7 = some 0x40000 ∧ (second 95).tags.inUse 7 = true ∧
    ((second 95).tableRead 0x3000).2 = some 0x50081 ∧
    (∃ x ∈ ((second 95).cores[coreOf 95]).faults, x.event = .materialisation (reqOf 95) 0x3000) ∧ (reqOf 95).source < 256 ∧
    256 ≤ (reqOf 256).source := by
  and_intros <;> first
    | decide +kernel
    | exact ⟨{ unit := .sq, event := .materialisation (reqOf 95) 0x3000, origin := .materialisation (reqOf 95) 0x3000, declined := false },
        by decide +kernel⟩

theorem witness_FaultService_zero :
    let s := faulting (0x00FFFFFE0000 + 0x81)
    let r := s.tableRead 0x3000
    r = (r.1, some (0x00FFFFFE0000 + 0x81)) ∧ pteV (0x00FFFFFE0000 + 0x81) = true ∧ pteT (0x00FFFFFE0000 + 0x81) = true ∧ s.tags.inUse 7 = true ∧
    ptePage (0x00FFFFFE0000 + 0x81) = zeroPage ∧ s.tags.ownPage? 0x3000 7 = none ∧ s.tags.freePage (bitsAt (reqOf 0).va 16 3) = some 0x40000 ∧
    r.1.pageHeld 0x40000 = false := by
  intro s r
  refine ⟨table_of ?_, ?_⟩ <;> decide +kernel

theorem witness_FaultService_image :
    let s := faulting 0x402
    let r := s.tableRead 0x3000
    r = (r.1, some 0x402) ∧ pteV 0x402 = false ∧ pteImage 0x402 0 = true ∧ r.1.imageSite (reqOf 0).va 0x3000 = 3 ∧
    s.tags.freePage (3 : Fin 8).val = some 0x40000 ∧ r.1.pageHeld 0x40000 = false ∧
    ∃ u bs, r.1.readImage 3 (r.1.imagePlace 3 (r.1.pteAt 0x3000)) = (u, .bytes bs) := by
  intro s r
  exact ⟨table_of (by decide +kernel), by decide +kernel, by decide +kernel, by decide +kernel, by decide +kernel, by decide +kernel,
    read_free _ (by decide +kernel)⟩

theorem witness_FaultService_requests :
    (let s := faulting 0
     let s := s.setPages { s.pages with base := 4 }
     s.requestGone (reqOf 256) 1 = false ∧ (∀ r ∈ s.pages.outstanding, sameRequest r.req r.kind (reqOf 256) 1 = false) ∧ s.pages.sized = true ∧
     s.pages.nextRid = some 0) ∧
    (let s := faulting 0
     let s := s.setPages { s.pages with base := 4, prtail := 16 }
     s.requestGone (reqOf 256) 1 = false ∧ (∀ r ∈ s.pages.outstanding, sameRequest r.req r.kind (reqOf 256) 1 = false) ∧ s.pages.sized = true ∧
     s.pages.nextRid = none ∧ s.pages.waiting = []) ∧
    (let s := faulting 0
     let s := s.setPages { s.pages with outstanding := [pageReq] }
     s.pages.outstanding.find? (fun r => r.rid == (3 : BitVec 16).toNat && r.gen == 5) = some pageReq ∧
     s.pages.outstanding.find? (fun r => r.rid == (3 : BitVec 16).toNat && r.gen == 6) = none) := by decide +kernel

theorem witness_DeviceRegisters :
    (State.reset.mgmt.stage ≠ .stage2 ∧ (faulting 0).mgmt.stage = .stage2) ∧
    (0x13401 % 8 ≠ 0 ∧ State.reset.mgmt.idle = 0 ∧ State.reset.mgmt.stage = .stage0 ∧ 0xFFFFF8 < 0x1000000 ∧ (faulting 0).mgmt.stage ≠ .stage0 ∧
      (faulting 0).mgmt.idle = 0) ∧
    ((7 : Tag) ≠ 0 ∧ (faulting 0).tags.isLive (7 : Tag).toNat = true) ∧
    (let s := faulting 0
     let s := s.setTags { s.tags with tags := [(7, .retiring)] }
     ((7 : Tag).toNat, TagState.retiring) ∈ s.tags.tags ∧ s.tagBusy (7 : Tag).toNat = false ∧ s.tags.waiters = []) ∧
    (faulting 0).tags.arrived = [] ∧ (∀ p ∈ (faulting 0).agenda, isInvalidation p.instr = false) ∧ State.reset.tags.tags = [] ∧ ((faulting 0).tiers[(7 : Fin 8)]).queue.length < 8 ∧
    8 ≤ (({ (faulting 0).tiers[(7 : Fin 8)] with queue := List.replicate 8 0 } : TierUnit)).queue.length := by decide +kernel

/-- A template that copies byte 0 of the scratchpad onto itself. -/
def oneByte : BitVec 512 := BitVec.ofNat 512 (2 ^ 63)

def startWord : CopyJob := { word := 0, tag := 0, order := 0 }

/-- Channel 15 of core 0 acts on a command, its template at byte 0 of the scratchpad. -/
def copying (run : Option CopyRun) (jobs : List CopyJob) (fifo : List DoneElem) : State :=
  let c := holding core 0 (leBytes 64 oneByte.toNat)
  let s := stateOf (c.setChannel 15 { jobs := jobs, run := run, fifo := fifo, ready := 0, flt := [] }) .seq
  { s with
    focus := { s.focus with chan := 15 }
    fabric := { s.fabric with regs := [] } }

def oneRun : CopyRun :=
  { template := oneByte, next := 0, slot := none, clip := false, failed := 0, lines := [], landings := [], held := [], pend := [] }

/-- The same with its only byte gathered, and after that byte has been written. -/
def lastByte : SectorBuf := { core := 0, key := 0, writes := [(0, [0])], count := 1, clip := false, fault := false, begun := false }
def writing : CopyRun := { oneRun with next := 1, pend := [lastByte] }
def written : CopyRun := { oneRun with next := 1 }

def accessed {α : Type} (r : CopyStep α) : Bool :=
  match r with
  | .ok _ _ => true
  | _ => false

theorem accessed_ex {α β : Type} {r : CopyStep (α × β)} (h : accessed r = true) : ∃ a b u, r = .ok (a, b) u := by
  cases r with
  | ok x u => exact ⟨x.1, x.2, u, rfl⟩
  | wait _ => cases h
  | fail _ _ => cases h
  | own _ _ => cases h

theorem witness_Engines_copy :
    ((copying none (List.replicate 3 startWord) []).core.channel (15 : BitVec 4).toNat).jobs.length < 4 ∧
    (let s := copying none [startWord] []
     s.core.refetch = [] ∧ (s.core.channel s.chan).jobs = [startWord] ∧ (s.core.channel s.chan).ready ≤ s.now ∧ (s.core.channel s.chan).run = none ∧
     s.core.copyTurn startWord = true ∧ s.core.image = some image ∧ 0 = image.ctbase + 64 * wordTidx startWord.word ∧ s.wire = false ∧ s.core.seq.wired = false ∧ 0 + 64 ≤ 2 ^ 23 ∧ s.mem.marks = [] ∧
     s.templateOk s.cur startWord.word (BitVec.ofNat 512 (leNat (s.core.spBytes 0 64))) = true) ∧
    (let s := copying (some oneRun) [startWord] []
     s.core.refetch = [] ∧ (s.core.channel s.chan).jobs = [startWord] ∧ (s.core.channel s.chan).ready ≤ s.now ∧
     (s.core.channel s.chan).run = some oneRun ∧ oneRun.atEnd = false ∧ s.needSlot s.cur oneRun = some (s, oneRun) ∧
     ∃ data runs v, s.copyAccess s.cur (engineSource s.cur.val s.chan) startWord oneRun ((s.cores[s.cur]).copySlotBase oneRun) oneRun.next =
       .ok (data, runs) v) ∧
    (let s := copying (some writing) [startWord] []
     (s.core.channel s.chan).run = some writing ∧ writing.atEnd = true ∧ s.core.refetch = [] ∧ (s.core.channel s.chan).jobs = [startWord] ∧
     (s.core.channel s.chan).ready ≤ s.now ∧ writing.halves[(s.pickBelow writing.halves.length).1]? = some (lastByte, 0)) ∧
    (let s := copying (some written) [startWord] []
     (s.core.channel s.chan).run = some written ∧ written.atEnd = true ∧ written.halves = [] ∧
     written.next = Template.total written.template ∧ (s.core.channel s.chan).fifo.length < 8) ∧
    ((copying none [] [{ word := 1, lines := [] }]).core.channel 15).fifo = [{ word := 1, lines := [] }] ∧
    ((copying none [] []).core.channel 15).fifo = [] := by
  refine ⟨?_, ?_, ⟨?_, ?_, ?_, ?_, ?_, ?_, accessed_ex ?_⟩, ?_⟩ <;> decide +kernel

/-- A row command that has one row left to copy. -/
def rowCmd (begun : Bool) : RowCmd :=
  { fn := 0, desc := rowDesc 1, tag := 0, begun := begun, fills := [(0x400, [0x800])], fast := 0, fall := 0, status := 0, lines := [16] }

def rowing (begun : Bool) : State := seqOf { core with rows := [rowCmd begun] }

def readOk {ε α : Type} (r : State × Except ε α) : Bool :=
  match r.2 with
  | .ok _ => true
  | .error _ => false

theorem read_ex {ε α : Type} {r : State × Except ε α} (h : readOk r = true) : ∃ u a, r = (u, .ok a) := by
  obtain ⟨u, x⟩ := r
  cases x with
  | ok a => exact ⟨u, a, rfl⟩
  | error e => cases h

/-- A request of core 0 at site 7, in its slot. -/
def calRequest (due : Option Nat) : CalRequest := { core := 0, site := 7, block := 448, lines := [7168], ready := 0, slot := 0, due := due }

def calling (due : Option Nat) : State :=
  let s := stateOf core .seq
  let s := s.setMem { s.mem with requests := [calRequest due] }
  { s with focus := { s.focus with site := 7 }, clock := { s.clock with cycle := 28 } }

/-- The pseudo-channel of line 7168 backs off. -/
def backing (s : State) : State :=
  { s with sites := s.sites.set 7 { s.sites[(7 : Fin 8)] with region := 0x100, alerting := [rowIdOf (7168 * 64)] } }

theorem witness_Engines_rows :
    (let s := seqOf { core with rowFifo := [{ word := 1, lines := [] }] }
     s.core.rowFifo = [{ word := 1, lines := [] }]) ∧ (seqOf core).core.rowFifo = [] ∧
    ((rowing false).core.rows = [rowCmd false] ∧ (rowCmd false).begun = false ∧ (rowing false).wire = false ∧ (rowing false).core.seq.wired = false) ∧
    ((rowing true).core.rows = [rowCmd true] ∧ (rowCmd true).begun = true ∧ (rowCmd true).lines ≠ [] ∧ (rowCmd true).fills = [(0x400, [0x800])] ∧
      (∀ pa ∈ [0x400, 0x800], (rowing true).lineHeld (pa / 64) = false) ∧ ∃ u rows, (rowing true).readRows [0x800] = (u, .ok rows)) ∧
    ((calling none).mem.unissued (calling none).cur.val (calling none).focus.site.val = some (calRequest none) ∧
      (calling none).slotFrom (calling none).cur.val (calling none).focus.site.val (calling none).now = (calling none).now ∧
      ((calling none).sites[(calling none).focus.site]).joined = true) ∧
    ((calling (some 28)).mem.requests.find? (fun r => r.core == (calling (some 28)).cur.val && r.site == (calling (some 28)).focus.site.val &&
      (match r.due with
        | some t => decide (t ≤ (calling (some 28)).now)
        | none => false)) = some (calRequest (some 28)) ∧ (calRequest (some 28)).lines = [7168] ∧
      (calling (some 28)).fetchWaits 7168 = false ∧ (backing (calling (some 28))).fetchWaits 7168 = true) := by
  refine ⟨?_, ?_, ?_, ⟨?_, ?_, ?_, ?_, ?_, read_ex ?_⟩, ?_, ?_⟩ <;> decide +kernel

/-- A tier command at 0x1000 on the entry at 0x3000, queued at site 7. -/
def tierCmd (op dest : Nat) : TierCmd := BitVec.ofNat 256 (op + 2 ^ 64 * 0x3000 + 2 ^ 128 * dest)

def tiering (op dest : Nat) (flight : List Nat) : State :=
  let s := serving [(0x1000, leBytes 32 (tierCmd op dest).toNat), (0x3000, leBytes 8 (0x50403 : Nat))]
  let s := s.setMem { s.mem with inFlight := flight }
  { s with
    tiers := s.tiers.set 7 { s.tiers[(7 : Fin 8)] with queue := [0x1000], cscnt := 1 }
    focus := { s.focus with site := 7 } }

def tierOf (r : State × TierRead) : Option TierCmd :=
  match r.2 with
  | .cmd c => some c
  | .none => none
  | .wait => none

theorem tier_of {r : State × TierRead} {c : TierCmd} (h : tierOf r = some c) : r = (r.1, .cmd c) := by
  obtain ⟨u, x⟩ := r
  cases x <;> simp [tierOf] at h
  rw [h]

theorem witness_SitesAndErrors_tier (op dest : Nat) (flight : List Nat) (h : (op = 1 ∧ dest = 0) ∨ (op = 2 ∧ dest = 0x60000))
    (hf : flight = [] ∨ flight = [5]) :
    let s := tiering op dest flight
    let c := tierCmd op dest
    let r := s.tierRead 7 0x1000
    let v := r.1.tableRead (TierCmd.ptepa c)
    s.focus.site = 7 ∧ (s.tiers[(7 : Fin 8)]).queue = [0x1000] ∧ r = (r.1, .cmd c) ∧ r.1.tierShape c = true ∧ v = (v.1, some 0x50403) ∧
    v.1.tierLeaf 0x50403 = true ∧ TierCmd.op c = op ∧ pteC 0x50403 = true ∧ pteT 0x50403 = false ∧
    v.1.tierDest c = true ∧ tierImage 0x50403 = false ∧ v.1.mem.inFlight.contains (ptePage 0x50403 / 65536) = flight.contains 5 ∧
    v.1.pageWriter (ptePage 0x50403 / 65536) = false ∧ v.1.pageHeld (ptePage 0x50403 / 65536 * 65536) = false ∧
    v.1.pageHeld (TierCmd.dest c) = false ∧ s.mem.badLine 5 = none := by
  rcases h with ⟨rfl, rfl⟩ | ⟨rfl, rfl⟩ <;> rcases hf with rfl | rfl
  all_goals
    intro s c r v
    refine ⟨?_, ?_, tier_of ?_, ?_, table_of ?_, ?_⟩ <;> decide +kernel

/-- The same MOVE of an entry that names an image. -/
def movingImage : State :=
  let s := serving [(0x1000, leBytes 32 (tierCmd 2 0x60000).toNat), (0x3000, leBytes 8 (0x402 : Nat))]
  { s with
    tiers := s.tiers.set 7 { s.tiers[(7 : Fin 8)] with queue := [0x1000], cscnt := 1 }
    focus := { s.focus with site := 7 } }

theorem witness_SitesAndErrors_image :
    let c := tierCmd 2 0x60000
    let r := movingImage.tierRead 7 0x1000
    let v := r.1.tableRead (TierCmd.ptepa c)
    (movingImage.tiers[(7 : Fin 8)]).queue = [0x1000] ∧ r = (r.1, .cmd c) ∧ r.1.tierShape c = true ∧ v = (v.1, some 0x402) ∧
    tierImage 0x402 = true ∧ TierCmd.op c = 2 ∧ v.1.tierDest c = true ∧ v.1.pageHeld (TierCmd.dest c) = false := by
  intro c r v
  refine ⟨?_, tier_of ?_, ?_, table_of ?_, ?_⟩ <;> decide +kernel

/-- An uncorrectable error of line 0 in DRAM. -/
def mark : ErrMark := { place := placeDram, core := 0, key := 0, bits := 0, double := true, injected := true, origin := placeDram }

def marked : State := let s := seqOf core; s.setMem { s.mem with marks := [mark] }

/-- Site 0 as it stands, with its controller gone or heard of. -/
def siteState (u : SiteUnit) (gts : Nat) : State :=
  let s := seqOf core
  { s with sites := s.sites.set 0 u, clock := { s.clock with gts := gts } }

def siteNow : SiteUnit := (seqOf core).sites[(0 : Fin 8)]

/-- The ring of the error log is open. -/
def logging : State :=
  let s := seqOf core
  { s with mgmt := { s.mgmt with regs := poke s.mgmt.regs 0x10 4, internalLog := [1] }, clock := { s.clock with gts := 2 } }

theorem witness_SitesAndErrors :
    Sparse.wf (seqOf core).mem.heat = true ∧ (seqOf core).focus.site = 0 ∧ siteNow.takeover = false ∧
    (siteNow.lastHeartbeat + 2000 ≤ (siteState siteNow 2000).clock.gts) ∧
    (((siteState { siteNow with takeover := true } 0).sites[(0 : Fin 8)]).takeover = true ∧
      (siteState { siteNow with takeover := true } 0).midRefresh 0 = none) ∧
    siteNow.alerting.contains { pseudoChannel := 63, bank := 15, row := 49151 } = false ∧
    nextMark siteNow.patrol ((seqOf core).mem.patrolled 0) = none ∧ nextMark siteNow.patrol (marked.mem.patrolled 0) = some mark ∧
    marked.mem.damaged (arrayOf .dram) 0 = true ∧ State.reset.mgmt.logRoom = false ∧ (logging.mgmt.internalLog = [1] ∧ logging.mgmt.logRoom = true ∧ bitsAt (1 : ErrRecord) 0 64 < logging.clock.gts ∧
      ({ logging with clock := { logging.clock with gts := 1 } } : State).clock.gts ≤ bitsAt (1 : ErrRecord) 0 64 ∧ logging.mem.marks = []) ∧ (seqOf core).mgmt.idle = 0 ∧
    (((seqOf core).agentPlace 0x005FFFFFFFF8 8).cached = true ∧ (seqOf core).gone 0x005FFFFFFFF8 = false ∧
      (seqOf core).siteHolds 0x005FFFFFFFF8 = false) ∧
    (seqOf core).agentPlace 0x00FFFFFE0000 8 = .zero ∧ (seqOf core).agentPlace 0x00F008000000 8 ∈ [.regs, .localPage, .reserved] ∧
    (seqOf core).agentRun 0x005FFFFFFFF8 8 = (((seqOf core).agentRun 0x005FFFFFFFF8 8).1, .bytes (zeroBytes 8)) := by
  refine ⟨by decide +kernel, by decide +kernel, by decide +kernel, by decide +kernel, by decide +kernel, ?_⟩
  refine ⟨?_, ?_, ?_, ?_, ?_, ?_, ?_, ?_, ?_, ?_, agent_of ?_⟩ <;> decide +kernel


/-- The host reaches memory up to the end of its own: a write there, and atomics of 4, 8 and 16 bytes. -/
theorem witness_SitesAndErrors_agents :
    (∀ op ∈ [AgentOp.fetchAdd, .swap], agentSound op 0x1000 (zeroBytes 8) = true ∧ agentSound op 0x1004 (zeroBytes 4) = true ∧
      agentSound op 0x1004 (zeroBytes 8) = false ∧ 0x1000 + agentWidth op (zeroBytes 8) ≤ agentTop) ∧
    (agentSound .cas 0x1000 (zeroBytes 32) = true ∧ agentSound .cas 0x1008 (zeroBytes 32) = false ∧ agentWidth .cas (zeroBytes 32) = 16) ∧
    (agentSound .write 7 [0] = true ∧ agentSound .read 7 [0] = true ∧ agentTop - 1 + agentWidth .write [0] ≤ agentTop ∧
      agentTop < agentTop + agentWidth .write [0]) ∧
    ((seqOf core).agentRun 0x1000 8 = (((seqOf core).agentRun 0x1000 8).1, .bytes (zeroBytes 8))) ∧
    ({ seqOf core with sites := (seqOf core).sites.map fun u => { u with joined := false } } : State).siteHolds 0x1000 = true ∧
    ({ seqOf core with sites := (seqOf core).sites.map fun u => { u with joined := false, failed := true } } : State).gone 0x1000 = true := by
  refine ⟨?_, ?_, ?_, agent_of ?_, ?_, ?_⟩ <;> decide +kernel

/-! ### The fabric, the management plane and the step -/

/-- A collective of three members that this one, rank 0, has told its signature and heard another's; its record and step as above, on
the page table. -/
def threeOf (slots gts0 : Nat) : Collective :=
  { command := 9, queue := 15, root := 0x10000, unit := 0
    record := BitVec.ofNat 1024 (1 + 2 ^ 8 + (if slots = 0 then 2 ^ 13 else 0) + 2 ^ 64 * 3 + 2 ^ 192 * 0x4000 + 2 ^ 256 * 0x5000 + 2 ^ 576 * slots +
      2 ^ 640 * gts0)
    steps := [collStep], members := [0, 1, 2], own := 5, bad := false, sigs := [(1, 5, false)], step := 0, next := 0, sent := [], acked := [],
    landed := [], ends := [], replay := false, runs := [], left := [], landing := [], arrived := [] }

def joined3 (c : Collective) (data : List (Nat × List Byte)) (gts : Nat) : State :=
  let s := serving data
  { s.setFabric { s.fabric with colls := [c] } with clock := { s.clock with gts := gts } }

theorem coll_ex {r : CollRead} (h : (collBytesOf r).isSome = true) : ∃ bs u, r = .bytes bs u := by
  cases r with
  | bytes bs u => exact ⟨bs, u, rfl⟩
  | wait _ => cases h
  | fail _ => cases h
  | bad _ _ _ _ => cases h

theorem witness_FabricMessages :
    let c := threeOf 0 0
    let s := joined3 c [] 0
    s.mgmt.stage ≠ .stage0 ∧ (let d := (seqOf core).setFabric { (seqOf core).fabric with portsUp := 1 }
     d.fabric.portsUp.getLsbD d.focus.port.val = true ∧ d.fabric.colls = [] ∧ d.fabric.outbox = []) ∧
    s.fabric.portsUp.getLsbD s.focus.port.val = false ∧ s.fabric.candidates (1023 : BitVec 10).toNat = [] ∧
    ({ s.fabric with portsUp := 1, regs := poke s.fabric.regs 0x31FF8 0x20 } : Fabric).candidates (1023 : BitVec 10).toNat ≠ [] ∧
    s.collAt 0 = some c ∧ c.sigs.any (·.1 == 2) = false ∧ c.others.contains 2 = true ∧ c.members.length ≤ c.sigs.length + 2 ∧ c.bad = false ∧
    (5 : Word) = c.own ∧ (6 : Word) ≠ c.own ∧ (∀ x ∈ c.sigs, x.2.2 = false ∧ x.2.1 = c.own) ∧
    ({ c with sigs := [] } : Collective).sigs.length + 2 < c.members.length ∧ c.acked.contains (0, 0) = false ∧
    (c.ends.any fun e => e.1 == 0 && e.2.1 == 2) = false ∧ s.focus.coll = 0 ∧ c.stepDone = false ∧
    ({ c with next := 1, acked := [(0, 0)], ends := [(0, 0, 0), (0, 1, 0), (0, 2, 0)] } : Collective).stepDone = true ∧ c.step + 1 = c.steps.length ∧
    ({ c with steps := [collStep, collStep], next := 1, acked := [(0, 0)], ends := [(0, 0, 0), (0, 1, 0), (0, 2, 0)] } : Collective).stepDone = true := by
  intro c s
  and_intros <;> decide +kernel

theorem begin_of {r : State × Collective × Begin} {x : Begin} (h : r.2.2 = x) : r = (r.1, r.2.1, x) := by rw [← h]

/-- A transfer begins and is read; one whose peer is still being served waits. -/
theorem witness_FabricMessages_transfer :
    (let c := threeOf 0 0
     let s := joined3 c [] 0
     let r := State.beginRuns (CollStep.total (c.block c.step) - c.next) s c
     s.collAt s.focus.coll = some c ∧ r = (r.1, r.2.1, .later 1) ∧ ((r.1.nextRead r.2.1).1).isSome = true) ∧
    (let c := { threeOf 0 0 with left := [(0, 70)] }
     let s := joined3 c [] 0
     let r := State.beginRuns (CollStep.total (c.block c.step) - c.next) s c
     s.collAt s.focus.coll = some c ∧ r = (r.1, r.2.1, .later (max 1 (s.cyclesFor 10))) ∧ r.2.1.runs = [] ∧ r.2.1.next < CollStep.total (r.2.1.block r.2.1.step)) := by
  refine ⟨⟨?_, begin_of ?_, ?_⟩, ⟨?_, begin_of ?_, ?_⟩⟩ <;> decide +kernel

/-- A run that is being read. -/
def outRun : OutRun := { k := 0, got := [], slot := (0, []), waits := false }

/-- An adaptive transfer whose peer is free, and one whose peer is not; a scheduled one in its slot, and one before it. -/
theorem witness_FabricMessages_begin :
    (let c := threeOf 0 0
     let s := joined3 c [] 0
     c.next < CollStep.total (c.block c.step) ∧ (∀ r ∈ c.runs, r.waits = false) ∧ CollHeader.adaptive c.record = true ∧
     s.peerFree c (c.peer c.next) = true ∧ s.peerFree { c with runs := [outRun] } (c.peer c.next) = false ∧
     (∀ r ∈ [outRun], r.waits = false)) ∧
    (let c := threeOf 0x6000 1000
     let s := joined3 c [(0x6000, [0, 0, 1, 0, 0, 0, 0, 0])] 2000
     let r := s.collRead (collSource c.unit) c.root 0 [(CollHeader.slots c.record + BitVec.ofNat 64 (8 * c.slotIndex), 8)]
     CollHeader.adaptive c.record = false ∧ r = .bytes (leBytes 8 0x10000) (collAfter r) ∧
     (0x10000 : Word) = BitVec.ofNat 64 (leNat (leBytes 8 0x10000)) ∧
     slotNow (collAfter r).clock.gts (CollHeader.gts0 c.record) (collAfter r).cycleNs 0x10000 = true ∧
     (collAfter r).peerFree c (c.peer c.next) = true ∧ c.peer c.next = c.rank ∧
     slotNow (collAfter r).clock.gts (CollHeader.gts0 (threeOf 0x6000 5000).record) (collAfter r).cycleNs 0x10000 = false) := by
  refine ⟨?_, ?_, coll_of ?_, ?_⟩ <;> decide +kernel

/-- A transfer to another member, and the device on whose port 0 that member is reached. -/
def toOther : Collective := { threeOf 0 0 with steps := [collStep ||| BitVec.ofNat 1024 (2 ^ 16)], members := [0, 1023, 2] }

def reaching : State :=
  let s := joined3 toOther [] 0
  s.setFabric { s.fabric with portsUp := 1, regs := poke s.fabric.regs 0x31FF8 0x20 }

theorem some_of {α : Type} {o : Option α} (h : o.isSome = true) : ∃ u, o = some u := Option.isSome_iff_exists.mp h

theorem witness_FabricMessages_dispatch :
    (threeOf 0 0).peer outRun.k = (threeOf 0 0).rank ∧ toOther.peer outRun.k ≠ toOther.rank ∧
    ∃ u, reaching.sendMember toOther (toOther.peer outRun.k) 2 toOther.step outRun.k outRun.slot
      (runBody (doffOf (toOther.block toOther.step) outRun.k) [0, 0, 0, 0]) = some u :=
  ⟨by decide +kernel, by decide +kernel, some_of (by decide +kernel)⟩

theorem read_one {source root : Nat} {tag : Tag} {s u : State} {k len : Nat} {va : Word} {bs : List Byte}
    (h : s.collRead source root tag [(va, len)] = .bytes bs u) :
    ∃ t, State.readSome source root tag 1 s [(k, va, len)] [] = (t, [(k, bs)], none) := by
  simp [State.readSome, State.pickBelow, h]

theorem land_one {s : State} {pa : Nat} {bs : List Byte} (h : s.siteHolds pa = false) (hm : s.mem.marks = []) :
    ∃ t, State.landSome 1 s [(pa, bs)] = (t, []) := by
  simp [State.landSome, State.pickBelow, h, hm]

theorem witness_FabricMessages_granules :
    let c := threeOf 0 0
    let s := joined3 c [] 0
    (∃ u got, State.readSome (collSource c.unit) c.root (CollHeader.tag c.record) (c.unread outRun).length s (c.unread outRun) outRun.got =
        (u, got, none) ∧ c.unread { outRun with got := got, waits := false } = []) ∧
    (c.rank = 0 ∧ CollHeader.log c.record = false ∧ c.landing = []) ∧
    ∃ u, State.landSome (landPieces [(0x5000, 4)] (landBytes c.record (c.block 0) [] [1, 2, 3, 4])).length s
      (landPieces [(0x5000, 4)] (landBytes c.record (c.block 0) [] [1, 2, 3, 4])) = (u, []) := by
  intro c s
  have hu : c.unread outRun = [(0, 0x4000, 4)] := by decide +kernel
  have hl : landPieces [(0x5000, 4)] (landBytes c.record (c.block 0) [] [1, 2, 3, 4]) = [(0x5000, [1, 2, 3, 4])] := by decide +kernel
  have hr := coll_of (bs := zeroBytes 4) (show collBytesOf (s.collRead (collSource c.unit) c.root (CollHeader.tag c.record) [(0x4000, 4)]) = _ by
    decide +kernel)
  refine ⟨?_, by decide +kernel, ?_⟩
  · rw [hu]
    obtain ⟨u, h⟩ := read_one (k := 0) hr
    exact ⟨u, _, h, by decide +kernel⟩
  · rw [hl]
    exact land_one (by decide +kernel) (by decide +kernel)

def isMapped (r : CollXlat) : Bool :=
  match r with
  | .ok _ _ => true
  | _ => false

theorem mapped_ex {r : CollXlat} (h : isMapped r = true) : ∃ segs u, r = .ok segs u := by
  cases r with
  | ok a u => exact ⟨a, u, rfl⟩
  | wait _ => cases h
  | fail _ => cases h

theorem witness_FabricMessages_run :
    let c := { threeOf 0 0 with sigs := [(1, 5, false), (2, 5, false)] }
    let s := joined3 c [] 0
    let m : RunMsg := { step := 0, rank := 2, index := 0, offset := 0, bytes := [1, 2, 3, 4] }
    s.collAt 0 = some c ∧ c.members.length ≤ c.sigs.length + 1 ∧ m.step < c.steps.length ∧ c.landed.contains (m.step, m.rank, m.index) = false ∧ c.landing = [] ∧
    CollStep.skind (c.block m.step) ≠ 1 ∧ CollStep.skind ((collStep ||| 1#1024 : BitVec 1024)) = 1 ∧ CollHeader.log c.record = false ∧
    (∃ segs u, s.collMap (collSource c.unit) c.root (CollHeader.tag c.record) .write
      (granulesOf (regionRuns c.record (CollStep.dreg (c.block m.step)) m.offset (CollStep.run (c.block m.step)))) = .ok segs u) ∧
    agentData ((s.collBytes [(0x5000, 4)])) = some (zeroBytes 4) := by
  intro c s m
  refine ⟨?_, ?_, ?_, ?_, ?_, ?_, ?_, ?_, mapped_ex ?_, ?_⟩ <;> decide +kernel

/-- A run of an ACC step lands where none has arrived before it, and waits where one has. -/
theorem witness_FabricMessages_acc :
    let c := { threeOf 0 0 with sigs := [(1, 5, false), (2, 5, false)], steps := [collStep ||| 1#1024] }
    let s := joined3 c [] 0
    let m : RunMsg := { step := 0, rank := 2, index := 0, offset := 0, bytes := [1, 2, 3, 4] }
    let d := { c with arrived := [(0, 1, 0)] }
    let x : LandUnit := { segs := [(0x5000, 4)], count := 1, bytes := [1, 2, 3, 4] }
    s.collAt 0 = some c ∧ (joined3 d [] 0).collAt 0 = some d ∧ m.step < c.steps.length ∧ CollStep.skind (c.block m.step) = 1 ∧ c.arrived = [] ∧
    c.replay = false ∧ c.landing = [] ∧
    (∃ segs u, (s.rouse .flit).collMap (collSource c.unit) c.root (CollHeader.tag c.record) .write
      ((accPlaces c.record (c.block m.step) m.offset).flatMap (·.2.2)) = .ok segs u) ∧
    ((0, 1, 0) : Nat × Nat × Nat).1 = m.step ∧ (0, 1, 0) ≠ (m.step, m.rank, m.index) ∧
    (∀ g ∈ x.segs, s.siteHolds g.1 = false) ∧ s.collBytes x.segs = ((s.collBytes x.segs).1, .bytes (zeroBytes 4)) := by
  intro c s m d x
  refine ⟨?_, ?_, ?_, ?_, ?_, ?_, ?_, mapped_ex ?_, ?_, ?_, ?_, agent_of ?_⟩ <;> decide +kernel

/-- Stage 1 with some sites joined. -/
def early (joined : Bool) : State :=
  { State.reset with
    sites := State.reset.sites.map fun u => { u with joined := joined }
    mgmt := { State.reset.mgmt with stage := .stage1, reports := [(0, [])] } }

theorem witness_ManagementPlane :
    State.reset.mgmt.stage = .stage0 ∧
    ((early false).mgmt.stage = .stage1 ∧ ((early false).sites[(7 : Fin 8)]).joined = false ∧ ((early false).sites[(7 : Fin 8)]).failed = false) ∧
    ((early true).switching = true ∧ (early true).control.commands = []) ∧
    (∀ tol ∈ [2000, 40000, 2000000], (let s := stateOf Core.reset .seq
      let s := { s with mgmt := { s.mgmt with tol := BitVec.ofNat 32 tol } }
      s.mgmt.idle = 0 ∧ s.isIdle = true ∧ s.idleTarget ≠ 0)) ∧
    ((seqOf core).mgmt.reports = [] ∧ (early true).mgmt.reports ≠ [] ∧ (early true).gone (hostPlace (0x1000000000 : Word).toNat) = false ∧
      (early true).mgmt.stage ≠ .stage0 ∧ ((slotChosen objSite).isSome = true ∨ slotChosen objSite = none)) ∧
    (early true).agentRun (hostPlace (0x1000000000 : Word).toNat) 64 =
      (((early true).agentRun (hostPlace (0x1000000000 : Word).toNat) 64).1, .bytes (zeroBytes 64)) ∧
    (∀ b ∈ (zeroBytes 64).drop 32, b = 0) ∧ (∃ b ∈ (zeroBytes 63 ++ [1]).drop 32, b ≠ 0) ∧ (early true).mgmt.reports = [(0, [])] := by
  refine ⟨?_, ?_, ?_, ?_, ⟨?_, ?_, ?_, ?_, ?_⟩, agent_of ?_, ?_, ⟨1, ?_⟩, ?_⟩ <;> first
    | decide +kernel
    | (cases slotChosen objSite <;> simp)

/-- A state of stage 0 in which an event is due. -/
def dueNow : State := { State.reset with agenda := [⟨0, Focus.zero, .powerLimit 1000 1000⟩] }

theorem witness_StepOrder :
    (dueNow.agenda.filter (fun e => decide (e.due ≤ dueNow.now)) = [⟨0, Focus.zero, .powerLimit 1000 1000⟩] ∧
      exec (.powerLimit 1000 1000) { dueNow with held := false, blocked := false, focus := Focus.zero, agenda := dueNow.agenda.erase ⟨0, Focus.zero, .powerLimit 1000 1000⟩ } =
        .next (nextOf (exec (.powerLimit 1000 1000)
          { dueNow with held := false, blocked := false, focus := Focus.zero, agenda := dueNow.agenda.erase ⟨0, Focus.zero, .powerLimit 1000 1000⟩ })) ∧
      (nextOf (exec (.powerLimit 1000 1000) { dueNow with agenda := [] })).held = false ∧
      (nextOf (exec (.powerLimit 1000 1000) { dueNow with agenda := [] })).blocked = false) ∧
    (State.reset.held = false ∧ State.reset.blocked = false ∧ State.reset.placing = [] ∧ (∀ e ∈ State.reset.agenda, State.reset.now < e.due) ∧ State.reset.movers = [] ∧ State.reset.tags.arrived = [] ∧
      ∀ i : Fin 96, (State.reset.cores[i]).caches.stores = [] ∧ (State.reset.cores[i]).queues.windows = []) :=
  ⟨⟨by decide +kernel, rfl, by decide +kernel⟩, by decide +kernel⟩

theorem witness_MemoryKeepsForm : State.reset.mem.wf = true ∧ ∃ t, step State.reset = .next t := by
  have h : ∀ o : Host.Outcome State Fault Refusal, (match o with | .next _ => true | _ => false) = true → ∃ t, o = .next t := by
    intro o ho
    cases o with
    | next t => exact ⟨t, rfl⟩
    | fault _ => cases ho
    | refused _ => cases ho
  exact ⟨by decide +kernel, h _ (by decide +kernel)⟩

/-- A record with opcode `k` and nothing else. -/
def codeRec (k : Nat) : WideOp :=
  { record := BitVec.ofNat 256 k, word := 0, wp := false, wn := false, sp := false, sn := false, capA := 0, capB := 0, capC := 0 }

theorem witness_CodeTables :
    (∀ e ∈ wideTable, Rec.wop (codeRec e.1).record = e.1) ∧ (∀ e ∈ wideTable, Rec.wop (codeRec 0x10).record ≠ e.1) ∧
    6 ≤ (cmdCmp (BitVec.ofNat 512 (3 + 2 ^ 128 + 6 * 2 ^ 136))).toNat ∧ cmdKind (BitVec.ofNat 512 (3 + 2 ^ 128 + 6 * 2 ^ 136)) = 3 ∧
    bitsAt (BitVec.ofNat 512 (3 + 2 ^ 128 + 6 * 2 ^ 136)) 128 8 = 1 := by decide +kernel

/-! ### Decoding: words written out from the encodings of R71 to R87 -/

theorem test_decode_ialu_1 :
    decodeTableWord 32 0x00546A00 = some (.add 5 17 42) ∧
    decodeTableWord 32 0x00546A01 = some (.sub 5 17 42) ∧
    decodeTableWord 32 0x00546A02 = some (.mul 5 17 42) ∧
    decodeTableWord 32 0x00546A03 = some (.mulh 5 17 42) ∧
    decodeTableWord 32 0x00546A04 = some (.mulhu 5 17 42) ∧
    decodeTableWord 32 0x00546A05 = some (.div 5 17 42) ∧
    decodeTableWord 32 0x00546A06 = some (.divu 5 17 42) ∧
    decodeTableWord 32 0x00546A07 = some (.rem 5 17 42) ∧
    decodeTableWord 32 0x00546A08 = some (.remu 5 17 42) ∧
    decodeTableWord 32 0x00546A09 = some (.and_ 5 17 42) ∧
    decodeTableWord 32 0x00546A0A = some (.or_ 5 17 42) ∧
    decodeTableWord 32 0x00546A0B = some (.xor_ 5 17 42) ∧
    decodeTableWord 32 0x00546A0C = some (.andn 5 17 42) ∧
    decodeTableWord 32 0x00546A0D = some (.shl 5 17 42) ∧
    decodeTableWord 32 0x00546A0E = some (.shr 5 17 42) ∧
    decodeTableWord 32 0x00546A0F = some (.sar 5 17 42) := by decide

theorem test_decode_ialu_2 :
    decodeTableWord 32 0x00546A10 = some (.min_ 5 17 42) ∧
    decodeTableWord 32 0x00546A11 = some (.max_ 5 17 42) ∧
    decodeTableWord 32 0x00546A12 = some (.minu 5 17 42) ∧
    decodeTableWord 32 0x00546A13 = some (.maxu 5 17 42) ∧
    decodeTableWord 32 0x00546A14 = some (.seq 5 17 42) ∧
    decodeTableWord 32 0x00546A15 = some (.sne 5 17 42) ∧
    decodeTableWord 32 0x00546A16 = some (.slt 5 17 42) ∧
    decodeTableWord 32 0x00546A17 = some (.sle 5 17 42) ∧
    decodeTableWord 32 0x00546A18 = some (.sltu 5 17 42) ∧
    decodeTableWord 32 0x00546A19 = some (.sleu 5 17 42) ∧
    decodeTableWord 32 0x0054401A = some (.clz 5 17) ∧
    decodeTableWord 32 0x0054401B = some (.popc 5 17) ∧
    decodeTableWord 32 0x0054401C = some (.mov 5 17) ∧
    decodeTableWord 32 0x00546A1D = some (.bfx 5 17 42) := by decide

theorem test_decode_immediate :
    decodeTableWord 32 0x04546A51 = some (.addi 5 17 10833) ∧
    decodeTableWord 32 0x08546A51 = some (.andi 5 17 10833) ∧
    decodeTableWord 32 0x0C546A51 = some (.ori 5 17 10833) ∧
    decodeTableWord 32 0x10546A51 = some (.xori 5 17 10833) ∧
    decodeTableWord 32 0x14544015 = some (.shli 5 17 21) ∧
    decodeTableWord 32 0x18544015 = some (.shri 5 17 21) ∧
    decodeTableWord 32 0x1C544015 = some (.sari 5 17 21) ∧
    decodeTableWord 32 0x20546A51 = some (.slti 5 17 10833) ∧
    decodeTableWord 32 0x24546A51 = some (.sltiu 5 17 10833) ∧
    decodeTableWord 32 0x2859ABCD = some (.lui 5 633805) := by decide

theorem test_decode_falu :
    decodeTableWord 32 0x30546A00 = some (.fadd 5 17 42) ∧
    decodeTableWord 32 0x30546A01 = some (.fsub 5 17 42) ∧
    decodeTableWord 32 0x30546A02 = some (.fmul 5 17 42) ∧
    decodeTableWord 32 0x30546A03 = some (.fdiv 5 17 42) ∧
    decodeTableWord 32 0x30544004 = some (.fsqrt 5 17) ∧
    decodeTableWord 32 0x30546A05 = some (.fmin 5 17 42) ∧
    decodeTableWord 32 0x30546A06 = some (.fmax 5 17 42) ∧
    decodeTableWord 32 0x30544007 = some (.fabs 5 17) ∧
    decodeTableWord 32 0x30544008 = some (.fneg 5 17) ∧
    decodeTableWord 32 0x30546A09 = some (.feq 5 17 42) ∧
    decodeTableWord 32 0x30546A0A = some (.flt 5 17 42) ∧
    decodeTableWord 32 0x30546A0B = some (.fle 5 17 42) ∧
    decodeTableWord 32 0x3054400C = some (.fcvtfi 5 17) ∧
    decodeTableWord 32 0x3054400D = some (.fcvtif 5 17) := by decide

theorem test_decode_flow :
    decodeTableWord 32 0x4000BEEF = some (.branch 48879) ∧
    decodeTableWord 32 0x40D1BEEF = some (.branchCond 3 17 48879) ∧
    decodeTableWord 32 0x4409ABCD = some (.call 633805) ∧
    decodeTableWord 32 0x48014000 = some (.jr 5) ∧
    decodeTableWord 32 0x48000001 = some (.ret) ∧
    decodeTableWord 32 0x4D460100 = some (.loop 1 17 513) ∧
    decodeTableWord 32 0x50502A51 = some (.srr 5 10833) ∧
    decodeTableWord 32 0x54016A51 = some (.srw 5 10833) := by decide

theorem test_decode_control :
    decodeTableWord 32 0x58000000 = some (.nop) ∧
    decodeTableWord 32 0x58100000 = some (.done) ∧
    decodeTableWord 32 0x58202A51 = some (.trap 10833) ∧
    decodeTableWord 32 0x58300000 = some (.eret) ∧
    decodeTableWord 32 0x58400015 = some (.safept 21) ∧
    decodeTableWord 32 0x58500000 = some (.phb) ∧
    decodeTableWord 32 0x58600000 = some (.phc) ∧
    decodeTableWord 32 0x58716A51 = some (.waitsc 5 10833) ∧
    decodeTableWord 32 0x58802A51 = some (.brk 10833) ∧
    decodeTableWord 32 0x58914013 = some (.inj 5 1 3) := by decide

theorem test_decode_address_words :
    decodeTableWord 32 0x81026100 = some (.amov true false 9 33) ∧
    decodeTableWord 32 0x81066100 = some (.aadd true false 9 33) ∧
    decodeTableWord 32 0x810A6A51 = some (.aaddi true false 9 10833) ∧
    decodeTableWord 32 0x810E4000 = some (.aget true false 9) := by decide

theorem test_decode_loads :
    decodeTableWord 32 0x85026135 = some (.ldB true false 9 33 53) ∧
    decodeTableWord 32 0x85066135 = some (.ldBu true false 9 33 53) ∧
    decodeTableWord 32 0x850A6135 = some (.ldH true false 9 33 53) ∧
    decodeTableWord 32 0x850E6135 = some (.ldHu true false 9 33 53) ∧
    decodeTableWord 32 0x85126135 = some (.ldW true false 9 33 53) ∧
    decodeTableWord 32 0x85166135 = some (.ldWu true false 9 33 53) ∧
    decodeTableWord 32 0x851A6135 = some (.ldD true false 9 33 53) ∧
    decodeTableWord 32 0x851E6135 = some (.ldroW true false 9 33 53) ∧
    decodeTableWord 32 0x85226135 = some (.ldroD true false 9 33 53) ∧
    decodeTableWord 32 0x85266135 = some (.ldxW true false 9 33 53) ∧
    decodeTableWord 32 0x852A6135 = some (.ldxD true false 9 33 53) ∧
    decodeTableWord 32 0x8916B6E4 = some (.lv true false 11 11 3 3 9) ∧
    decodeTableWord 32 0x8D191400 = some (.mld true false 1 9 5) := by decide

theorem test_decode_configuration :
    decodeTableWord 32 0x91024335 = some (.pset true false 9 3 53) ∧
    decodeTableWord 32 0x91064935 = some (.cbset true false 9 9 53) ∧
    decodeTableWord 32 0x91080235 = some (.tdef true false 2 53) ∧
    decodeTableWord 32 0x910E5535 = some (.bind true false 9 21 53) ∧
    decodeTableWord 32 0x91101500 = some (.unbind true false 21) := by decide

theorem test_decode_synchronisation :
    decodeTableWord 32 0x95000005 = some (.fence true false true 1) ∧
    decodeTableWord 32 0x95040000 = some (.roinv true false) ∧
    decodeTableWord 32 0x95066101 = some (.roinvRange true false 9 33) ∧
    decodeTableWord 32 0x950A6101 = some (.acq true false 9 33 1) ∧
    decodeTableWord 32 0x950E6102 = some (.clean true false 9 33 2) ∧
    decodeTableWord 32 0x95126101 = some (.pf true false 9 33 1) := by decide

theorem test_decode_barriers :
    decodeTableWord 32 0x99026135 = some (.tbinit true false 9 33 53) ∧
    decodeTableWord 32 0x99064035 = some (.tbarr true false 9 53) ∧
    decodeTableWord 32 0x990A6135 = some (.tbexp true false 9 33 53) ∧
    decodeTableWord 32 0x990E6135 = some (.tbarrexp true false 9 33 53) ∧
    decodeTableWord 32 0x99126135 = some (.tbwait true false 9 33 53) ∧
    decodeTableWord 32 0x99164035 = some (.tbtest true false 9 53) := by decide

theorem test_decode_atomics :
    decodeTableWord 32 0x9D0261D4 = some (.amoAdd true false 9 33 true 2 true false true) ∧
    decodeTableWord 32 0x9D0661D4 = some (.amoAnd true false 9 33 true 2 true false true) ∧
    decodeTableWord 32 0x9D0A61D4 = some (.amoOr true false 9 33 true 2 true false true) ∧
    decodeTableWord 32 0x9D0E61D4 = some (.amoXor true false 9 33 true 2 true false true) ∧
    decodeTableWord 32 0x9D1261D4 = some (.amoMin true false 9 33 true 2 true false true) ∧
    decodeTableWord 32 0x9D1661D4 = some (.amoMax true false 9 33 true 2 true false true) ∧
    decodeTableWord 32 0x9D1A61D4 = some (.amoMinu true false 9 33 true 2 true false true) ∧
    decodeTableWord 32 0x9D1E61D4 = some (.amoMaxu true false 9 33 true 2 true false true) ∧
    decodeTableWord 32 0x9D2261D4 = some (.amoSwap true false 9 33 true 2 true false true) ∧
    decodeTableWord 32 0x9D266148 = some (.amoFadd true false 9 33 2 false true false) ∧
    decodeTableWord 32 0x9D2A6148 = some (.amoFmin true false 9 33 2 false true false) ∧
    decodeTableWord 32 0x9D2E6148 = some (.amoFmax true false 9 33 2 false true false) ∧
    decodeTableWord 32 0xA1026114 = some (.cas true false 9 33 5 false) := by decide

theorem test_decode_tags :
    decodeTableWord 32 0xA5000000 = some (.tagnew true false) ∧
    decodeTableWord 32 0xA5040000 = some (.tagnewNb true false) ∧
    decodeTableWord 32 0xA5082A00 = some (.tagret true false 42 false) ∧
    decodeTableWord 32 0xA50C2A00 = some (.ctxset true false 42) ∧
    decodeTableWord 32 0xA5102A00 = some (.xtagset true false 42) := by decide

theorem test_decode_stores :
    decodeTableWord 32 0xC2026135 = some (.stB true false 9 33 53) ∧
    decodeTableWord 32 0xC2066135 = some (.stH true false 9 33 53) ∧
    decodeTableWord 32 0xC20A6135 = some (.stW true false 9 33 53) ∧
    decodeTableWord 32 0xC20E6135 = some (.stD true false 9 33 53) ∧
    decodeTableWord 32 0xC2126101 = some (.relD true false 9 33 1) ∧
    decodeTableWord 32 0xC616B6E4 = some (.sv true false 11 11 3 3 9) ∧
    decodeTableWord 32 0xCA026135 = some (.stxW true false 9 33 53) ∧
    decodeTableWord 32 0xCA066135 = some (.stxD true false 9 33 53) := by decide

theorem test_decode_rows :
    decodeTableWord 32 0xCE024035 = some (.rowcopy true false 9 53) ∧
    decodeTableWord 32 0xCE064035 = some (.rowfill true false 9 53) ∧
    decodeTableWord 32 0xCE0A4035 = some (.rowand true false 9 53) ∧
    decodeTableWord 32 0xCE0E4035 = some (.rowor true false 9 53) ∧
    decodeTableWord 32 0xCE124035 = some (.rowxor true false 9 53) ∧
    decodeTableWord 32 0xCE164035 = some (.rownot true false 9 53) ∧
    decodeTableWord 32 0xCE1A4035 = some (.rowmaj true false 9 53) := by decide

theorem test_decode_templates :
    decodeTableWord 32 0xE159BEEF = some (.patch 21 9 48879) ∧
    decodeTableWord 32 0xE6953500 = some (.tx true false true false 21 53) := by decide

/-- Words of the spec's own listings (chapters 1, 5, 8 to 12, 14 and 23), and a reserved operand code. -/
theorem test_decode_listings :
    decodeTableWord 32 0xE6410000 = some (.tx true false false true 1 0) ∧ decodeTableWord 32 0x0461BFFF = some (.addi 6 6 0x3FFF) ∧
    decodeTableWord 32 0x4146FFFD = some (.branchCond 5 6 0xFFFD) ∧ decodeTableWord 32 0x58400000 = some (.safept 0) ∧
    decodeTableWord 32 0x58100000 = some .done ∧ decodeTableWord 32 0x4C0C0200 = some (.loop 0 3 2) ∧
    decodeTableWord 32 0x8C431400 = some (.mld false true 0 3 5) ∧ decodeTableWord 32 0x841BF100 = some (.ldD false false 15 49 0) ∧
    decodeTableWord 32 0xC28C4200 = some (.stD true true 1 2 0) ∧ decodeTableWord 32 0x984C0240 = some (.tbarrexp false true 0 2 64) ∧
    decodeTableWord 32 0xCE00C000 = some (.rowcopy true false 3 0) ∧ decodeTableWord 32 0x58904010 = some (.inj 1 1 0) ∧
    decodeTableWord 32 0x9C0072E0 = some (.amoAdd false false 1 50 true 3 false false false) ∧
    decodeTableWord 32 0xE0300088 = some (.patch 3 0 0x88) ∧ decodeTableWord 32 0x00547600 = none := by decide


/-! ### Well-formedness: an ill-formed term for each check -/

theorem test_wf_refuses_reserved_operand : Instr.wf (.add 5 1 54) = false ∧ Instr.wf (.add 5 63 1) = false ∧ Instr.wf (.add 5 53 1) = true := by
  decide
theorem test_wf_refuses_destination : Instr.wf (.add 32 1 2) = false ∧ Instr.wf (.lui 62 0) = false ∧ Instr.wf (.lui 63 0) = true := by decide
theorem test_wf_refuses_condition : Instr.wf (.branchCond 0 1 0) = false ∧ Instr.wf (.branchCond 7 1 0) = false := by decide
theorem test_wf_refuses_empty_body : Instr.wf (.loop 0 1 0) = false ∧ Instr.wf (.loop 0 1 1) = true := by decide
theorem test_wf_refuses_injection : Instr.wf (.inj 1 2 0) = false ∧ Instr.wf (.inj 1 1 5) = false ∧ Instr.wf (.inj 1 1 4) = true := by decide
theorem test_wf_refuses_block :
    Instr.wf (.lv false false 31 0 1 0 1) = false ∧ Instr.wf (.sv false false 0 31 0 1 1) = false ∧ Instr.wf (.lv false false 31 31 0 0 1) = true := by
  decide
theorem test_wf_refuses_feed : Instr.wf (.mld false false 2 1 1) = false := by decide
theorem test_wf_refuses_templates :
    Instr.wf (.tdef false false 0 0) = false ∧ Instr.wf (.tdef false false 63 2) = false ∧ Instr.wf (.tdef false false 0 64) = true := by decide
theorem test_wf_refuses_scope :
    Instr.wf (.clean false false 1 1 1) = false ∧ Instr.wf (.amoAdd false false 1 1 true 1 false false true) = false ∧
    Instr.wf (.amoAdd false false 1 1 true 1 false false false) = true := by decide
theorem test_wf_refuses_opcode : Instr.wf (.vadd (opOf 1)) = false ∧ Instr.wf (.vadd (opOf 0)) = true ∧ Instr.wf (.mpiv (opOf 0x69)) = true := by
  decide +kernel

/-! ### Single steps, their results taken from the spec -/

/-- The s-register a word leaves. -/
def left (i : Instr) (c : Core) (k : Fin 32) : Word := (nextOf (exec i (seqOf c))).core.sregs[k]

/-- The example of R98. -/
theorem test_bfx : left (.bfx 5 1 2) (coreWith 0xF0A0 0x1144 0) 5 = 10 := by decide +kernel
/-- The table of R97: a division by 0, and the most negative number by −1. -/
theorem test_division_corners :
    left (.div 5 1 2) (coreWith 7 0 0) 5 = 0xFFFFFFFFFFFFFFFF ∧ left (.rem 5 1 2) (coreWith 7 0 0) 5 = 7 ∧
    left (.div 5 1 2) (coreWith 0x8000000000000000 0xFFFFFFFFFFFFFFFF 0) 5 = 0x8000000000000000 ∧
    left (.rem 5 1 2) (coreWith 0x8000000000000000 0xFFFFFFFFFFFFFFFF 0) 5 = 0 := by decide +kernel
/-- A source that is also the destination; the sum wraps. -/
theorem test_add_wraps : left (.add 1 1 1) (coreWith 0x8000000000000001 0 0) 1 = 2 := by decide +kernel
theorem test_sub_order : left (.sub 5 1 2) (coreWith 3 5 0) 5 = 0xFFFFFFFFFFFFFFFE := by decide +kernel
theorem test_mulh_signs :
    left (.mulh 5 1 2) (coreWith 0xFFFFFFFFFFFFFFFF 2 0) 5 = 0xFFFFFFFFFFFFFFFF ∧ left (.mulhu 5 1 2) (coreWith 0xFFFFFFFFFFFFFFFF 2 0) 5 = 1 := by
  decide +kernel
theorem test_sar_signs : left (.sar 5 1 2) (coreWith 0x8000000000000000 63 0) 5 = 0xFFFFFFFFFFFFFFFF := by decide +kernel
theorem test_slt_signs : left (.slt 5 1 2) (coreWith 0xFFFFFFFFFFFFFFFF 0 0) 5 = 1 ∧ left (.sltu 5 1 2) (coreWith 0xFFFFFFFFFFFFFFFF 0 0) 5 = 0 := by
  decide +kernel
theorem test_addi_sign : left (.addi 6 6 0x3FFF) core 6 = 0xFFFFFFFFFFFFFFFF := by decide +kernel
theorem test_fadd : left (.fadd 0 1 2) (coreWith 0x3F800000 0x40000000 0) 0 = 0x40400000 := by decide +kernel
theorem test_fdiv_rounds : left (.fdiv 0 1 2) (coreWith 0x3F800000 0x40400000 0) 0 = 0x3EAAAAAB := by decide +kernel

/-- A taken branch back by three words (R101). -/
theorem test_branch_back : (nextOf (exec (.branch 0xFFFD) (seqOf { core with pc := 0x20 }))).core.pc = 0x18 := by decide +kernel
theorem test_call_pushes :
    (nextOf (exec (.call 0) (seqOf { core with pc := 0x20 }))).core.pc = 0x24 ∧
    (nextOf (exec (.call 0) (seqOf { core with pc := 0x20 }))).core.level.rs = [0x24] := by decide +kernel

/-- A signed byte at the top of the scratchpad, little-endian halves below it (R205, R206). -/
theorem test_loads_extend :
    (nextOf (exec (.ldB false false 1 49 7) (queued true (holding (coreWith 0 0 0x7FFFF8) 0x7FFFF8 (leBytes 8 0x8070605040302010))
      (.ldB false false 1 49 7) [0]))).core.bank.loads = [0xFFFFFFFFFFFFFF80] ∧
    (nextOf (exec (.ldHu false false 1 49 0) (queued true (holding (coreWith 0 0 0x7FFFF8) 0x7FFFF8 (leBytes 8 0x8070605040302010))
      (.ldHu false false 1 49 0) [0]))).core.bank.loads = [0x2010] := by decide +kernel
theorem test_store_order :
    peekN (w := 8) (nextOf (exec (.stW false false 1 1 1) (storing (.stW false false 1 1 1)))).core.arrays.sp 0x7FFFFC 4 = [0x88, 0x77, 0x66, 0x55] := by
  decide +kernel
/-- `cas` stores where the old word is the expected one, and delivers the old one (R229). -/
theorem test_cas :
    (nextOf (exec (.cas false false 1 1 2 false) (onLine (.cas false false 1 1 2 false) [0, 9] 0))).byteAt 0 = 9 ∧
    (nextOf (exec (.cas false false 1 1 2 false) (onLine (.cas false false 1 1 2 false) [1, 9] 0))).byteAt 0 = 0 := by decide +kernel

/-- The example of R251 and R252: 256 bytes in eight sectors, the last two clipped. -/
theorem test_barrier_example :
    Barrier.credit (Barrier.flag ((List.range 7).foldl (fun b _ => Barrier.credit b 32)
      (Barrier.settle (Barrier.arrive (Barrier.expect (Barrier.fresh 1) 256)))) 0) 32 = 0x0000000000000080_0000000000100011#128 := by decide +kernel

/-- The example of R282: core 37 at site 5. -/
theorem test_calendar_slots : (seqOf core).slotFrom 37 5 29 = 32 ∧ (seqOf core).slotFrom 37 5 33 = 64 := by decide +kernel

/-- The record `gemm_launch`: the item with j = 3 and i = 1 has L = 7 (R35, R36). -/
theorem test_loop_nest :
    let r : LoopNest := BitVec.ofNat 1024 (0x010000300000 + 2 ^ 64 * 0x010000200000 + 2 ^ 128 * 0x0000000500010301 + 2 ^ 256 * 0x0000000100000004 +
      2 ^ 320 * 0x0000000100000002 + 2 ^ 384 * 4)
    LoopNest.wf r = true ∧ LoopNest.items r = 8 ∧ LoopNest.index r 0 7 0 = 3 ∧ LoopNest.index r 0 7 1 = 1 ∧ LoopNest.linear r 0 7 = 7 ∧
    LoopNest.fixTag r = 5 ∧ LoopNest.det r = true := by decide +kernel

/-- The `vq4` example of chapter 7: codes, scale bytes and the bytes behind them. -/
theorem test_vq4_example :
    let r : Rec := BitVec.ofNat 256 (0x000000040000084D + 2 ^ 64 * 0x1400C00000C00000 + 2 ^ 128 * 0x0001000000000000)
    let out := q4Reg r ([0x3F400000, 0xC0200000, 0x40A00000, 0x3E4CCCCD, 0x41300000, 0x80000000, 0x40533333] ++ List.replicate 1017 0)
      (List.replicate 1024 0) zeroReg
    Rec.ok r = true ∧ out.take 5 = [0xA1, 0x04, 0x87, 0x03, 0x00] ∧ (out.drop 2048).take 3 = [0x60, 0x40, 0x40] ∧ out.getD 2080 1 = 0 := by
  decide +kernel

/-- The word at IMEM's pc runs as the first instruction after reset. -/
theorem test_with_fetch_word :
    (nextOf (step (State.reset.withFetchWord 32 0x0461BFFF))).cores[(0 : Fin 96)].sregs[6] = 0xFFFFFFFFFFFFFFFF := by decide +kernel

end Sys2Proof.Tests
end

section
/-! SUPPORT. The compare codes of a command (R47) and the numbering of wide operations (R84). -/

namespace Sys2Proof.Machine

/-! ### The compare codes (R47) -/

/-- The two compares of equality. -/
theorem weirHolds_equality (word value mask : Word) :
    weirHolds 0 word value mask = decide (word &&& mask = value &&& mask) ∧
    weirHolds 1 word value mask = decide (word &&& mask ≠ value &&& mask) :=
  ⟨rfl, decide_not.symm⟩

/-- The two signed compares. -/
theorem weirHolds_signed (word value mask : Word) :
    weirHolds 2 word value mask = decide ((value &&& mask).toInt ≤ (word &&& mask).toInt) ∧
    weirHolds 3 word value mask = decide ((word &&& mask).toInt < (value &&& mask).toInt) := by
  have hlt : weirHolds 3 word value mask = decide ((word &&& mask).toInt < (value &&& mask).toInt) :=
    BitVec.slt_eq_decide
  have hge : weirHolds 2 word value mask = !weirHolds 3 word value mask := rfl
  exact ⟨by rw [hge, hlt, ← decide_not, decide_eq_decide, Int.not_lt], hlt⟩

/-- The two unsigned compares. -/
theorem weirHolds_unsigned (word value mask : Word) :
    weirHolds 4 word value mask = decide ((value &&& mask).toNat ≤ (word &&& mask).toNat) ∧
    weirHolds 5 word value mask = decide ((word &&& mask).toNat < (value &&& mask).toNat) := by
  have hlt : weirHolds 5 word value mask = decide ((word &&& mask).toNat < (value &&& mask).toNat) :=
    BitVec.ult_eq_decide
  have hge : weirHolds 4 word value mask = !weirHolds 5 word value mask := rfl
  exact ⟨by rw [hge, hlt, ← decide_not, decide_eq_decide, Nat.not_lt], hlt⟩

/-- What a WAIT WORD asks of its own fields. -/
theorem cmdKindOk_waitWord {c : Command} (hkind : cmdKind c = 3) (hword : bitsAt c 128 8 = 1) :
    cmdKindOk c = (decide ((cmdCmp c).toNat < 6) && (cmdTarget c).toNat % 8 == 0) := by
  simp only [cmdKindOk, hkind, hword]

/-- What an ARM that arms its entry asks of its own fields. -/
theorem cmdKindOk_arm {c : Command} (hkind : cmdKind c = 6) (harm : c.getLsbD 135 = false) :
    cmdKindOk c = (decide ((cmdCmp c).toNat < 6) && (cmdTarget c).toNat % 8 == 0) := by
  simp only [cmdKindOk, hkind, harm, Bool.false_or]

/-- A command that compares under a reserved code is malformed. -/
theorem cmdOk_of_reserved_compare {c : Command} (hcmp : 6 ≤ (cmdCmp c).toNat)
    (h : (cmdKind c = 3 ∧ bitsAt c 128 8 = 1) ∨ (cmdKind c = 6 ∧ c.getLsbD 135 = false)) : cmdOk c = false := by
  have hfields : cmdKindOk c = (decide ((cmdCmp c).toNat < 6) && (cmdTarget c).toNat % 8 == 0) := by
    obtain ⟨hkind, hword⟩ | ⟨hkind, harm⟩ := h
    · exact cmdKindOk_waitWord hkind hword
    · exact cmdKindOk_arm hkind harm
  simp only [cmdOk, hfields, Nat.not_lt.mpr hcmp, decide_false, Bool.false_and, Bool.and_false]

/-! ### The numbering of wide operations (R84) -/

/-- The opcodes of the table are the four blocks of R84. -/
theorem wideTable_codes : wideTable.map Prod.fst =
    List.range' 0x00 16 ++ List.range' 0x20 16 ++ List.range' 0x40 15 ++ List.range' 0x60 10 := rfl

/-- An opcode that lies in one of the four blocks of R84. -/
def InWideBlock (w : Nat) : Prop :=
  w < 0x10 ∨ (0x20 ≤ w ∧ w < 0x30) ∨ (0x40 ≤ w ∧ w < 0x4F) ∨ (0x60 ≤ w ∧ w < 0x6A)

/-- The blocks hold the opcodes of the table and no others. -/
theorem inWideBlock_iff_mem_wideTable (w : Nat) : InWideBlock w ↔ ∃ e ∈ wideTable, e.1 = w := by
  rw [← List.mem_map (f := Prod.fst), wideTable_codes]
  simp only [List.mem_append, List.mem_range'_1, InWideBlock]
  omega

/-- A record is the operation that the table lists under the record's opcode: place by place of the four blocks. -/
theorem wideInstr_of_mem_wideTable (op : WideOp) :
    ∀ e ∈ wideTable, Rec.wop op.record = e.1 → wideInstr op = e.2 op := by
  unfold wideTable
  simp only [List.forall_mem_append, List.zipIdx_cons, List.zipIdx_nil, List.map_cons, List.map_nil, List.forall_mem_cons,
    List.not_mem_nil, false_implies, implies_true, and_true]
  repeat' apply And.intro
  all_goals
    intro hwop
    unfold wideInstr
    rewrite [hwop]
    rfl

/-! ### Opcodes that pass the checks of `tx` (R88) -/

/-- The vector operations check by block: outside the three blocks no check is passed. -/
theorem vectorOk_inWideBlock {r : Rec} (h : r.vectorOk = true) : InWideBlock r.wop := by
  unfold Rec.vectorOk at h
  split at h
  · exact .inl ‹_›
  · split at h
    · exact .inr (.inl ‹_›)
    · split at h
      · exact .inr (.inr (.inl ‹_›))
      · cases h

/-- The array checks list 0x60 to 0x63; the last case is every other opcode. -/
theorem arrayOk_inWideBlock {r : Rec} (h : r.arrayOk = true) : InWideBlock r.wop := by
  simp only [Rec.arrayOk, Bool.and_eq_true] at h
  obtain ⟨-, hop⟩ := h
  unfold InWideBlock
  split at hop
  case h_5 => cases hop
  all_goals omega

/-- The factor checks list 0x64 to 0x69; the last case is every other opcode. -/
theorem factorOk_inWideBlock {r : Rec} (h : r.factorOk = true) : InWideBlock r.wop := by
  simp only [Rec.factorOk, Bool.and_eq_true] at h
  obtain ⟨-, hop⟩ := h
  unfold InWideBlock
  split at hop
  case h_7 => cases hop
  all_goals omega

/-- A record that passes every check has an opcode of one of the four blocks. -/
theorem ok_inWideBlock {r : Rec} (h : r.ok = true) : InWideBlock r.wop := by
  simp only [Rec.ok, Bool.and_eq_true] at h
  obtain ⟨-, hunit⟩ := h
  split at hunit
  · exact vectorOk_inWideBlock hunit
  · split at hunit
    · exact arrayOk_inWideBlock hunit
    · exact factorOk_inWideBlock hunit

/-- A record of a reserved opcode passes no check of `tx`. -/
theorem ok_of_reserved_wop {r : Rec} (h : ∀ e ∈ wideTable, r.wop ≠ e.1) : r.ok = false := by
  refine Bool.eq_false_iff.mpr fun hok => ?_
  obtain ⟨e, he, hwop⟩ := (inWideBlock_iff_mem_wideTable r.wop).mp (ok_inWideBlock hok)
  exact h e he hwop.symm

/-- Settles O58: the compares by signedness, the reserved compare codes by kind of command, and the wide opcodes by block. -/
theorem codeTables : Obligations.CodeTables := by
  unfold Obligations.CodeTables
  refine ⟨fun word value mask => ?_, fun _ => cmdOk_of_reserved_compare, wideInstr_of_mem_wideTable,
    fun _ => ok_of_reserved_wop⟩
  obtain ⟨heq, hne⟩ := weirHolds_equality word value mask
  obtain ⟨hge, hlt⟩ := weirHolds_signed word value mask
  obtain ⟨hgeu, hltu⟩ := weirHolds_unsigned word value mask
  exact ⟨heq, hne, hge, hlt, hgeu, hltu⟩

end Sys2Proof.Machine
end

section
/-! SUPPORT. Operand codes (R72): what each code reads, what a pop of `%ld` changes, and what two pops in one word give. -/

namespace Sys2Proof.Machine

/-! ### The pop of `%ld` (R72) -/

/-- The core once the oldest entry has left the load-return queue of its trap level, `rest` staying behind. -/
def Core.popLoad (c : Core) (rest : List Word) : Core :=
  (c.shiftDamage partLoads c.loadsBase 64 1).setBank { c.bank with loads := rest }

@[simp] theorem Core.popLoad_bank (c : Core) (rest : List Word) : (c.popLoad rest).bank = { c.bank with loads := rest } :=
  Core.setBank_bank _ _

theorem Core.popLoad_damage_nil {c : Core} (h : c.damage = []) (rest : List Word) : (c.popLoad rest).damage = [] := by
  simp only [Core.popLoad, Core.setBank_damage, Core.shiftDamage, Core.mend, h, List.filter_nil, List.map_nil]

theorem Core.setBank_otherBank (c : Core) (b : Bank) :
    if c.tl = true then (c.setBank b).bank0 = c.bank0 else (c.setBank b).bank1 = c.bank1 := by
  unfold Core.setBank
  split <;> rfl

theorem Core.popLoad_keptButLoads (c : Core) (rest : List Word) : CoreKeptButLoads c (c.popLoad rest) :=
  have same : SameButLoads c (c.popLoad rest) := SameButLoads.pop c rest
  { sregs := same.sregs
    aregs := same.aregs
    pc := same.pc
    arrays := same.arrays
    queues := same.queues
    seq := same.seq
    levels := ⟨Core.setBank_level0 _ _, Core.setBank_level1 _ _⟩
    mode := ⟨same.tl, same.chk⟩
    clause := same.clause
    trapRegs := same.trapRegs
    factor := same.factor
    sys := same.sys
    otherBank := (c.shiftDamage partLoads c.loadsBase 64 1).setBank_otherBank _ }

theorem Core.damageIn_of_damage_nil {c : Core} (h : c.damage = []) (part lo n : Nat) : c.damageIn part lo n = none := by
  simp only [Core.damageIn, h, List.find?_nil, Option.map_none]

/-! ### One operand code (R72) -/

theorem Core.readOperand_sreg (c : Core) (id : Nat) {code : OpCode} (k : Fin 32) (h : code.toNat = k.val) :
    c.readOperand id code = .ok [c.sregs[k]] c := by
  simp only [Core.readOperand, h, k.isLt, ↓reduceDIte, Fin.getElem_fin]

theorem Core.readOperand_result (c : Core) (id : Nat) {code : OpCode} (k : Fin 16) (h : code.toNat = 32 + k.val) :
    c.readOperand id code = .ok [c.bank.resq[k]] c := by
  have hnot : ¬ code.toNat < 32 := by omega
  have hlt : code.toNat < 48 := by omega
  have hplace : code.toNat - 32 = k.val := by omega
  simp only [Core.readOperand, dif_neg hnot, dif_pos hlt, hplace, Fin.getElem_fin]

theorem Core.readOperand_load_empty {c : Core} (id : Nat) (h : c.bank.loads = []) : c.readOperand id 48 = .stall := by
  simp only [Core.readOperand, BitVec.ofNat_eq_ofNat, BitVec.toNat_ofNat, Nat.reducePow, Nat.reduceMod, Nat.reduceLT,
    ↓reduceDIte, Nat.lt_irrefl, ↓reduceIte, h]

theorem Core.readOperand_load_sound {c : Core} (id : Nat) {v : Word} {rest : List Word} (h : c.bank.loads = v :: rest)
    (hd : c.damageIn partLoads c.loadsBase 1 = none) : c.readOperand id 48 = .ok [v] (c.popLoad rest) := by
  simp only [Core.readOperand, BitVec.ofNat_eq_ofNat, BitVec.toNat_ofNat, Nat.reducePow, Nat.reduceMod, Nat.reduceLT,
    ↓reduceDIte, Nat.lt_irrefl, ↓reduceIte, h, hd, Core.popLoad]

theorem Core.readOperand_load_bad {c : Core} (id : Nat) {v : Word} {rest : List Word} {inj : Bool} (h : c.bank.loads = v :: rest)
    (hd : c.damageIn partLoads c.loadsBase 1 = some inj) : c.readOperand id 48 = .bad inj := by
  simp only [Core.readOperand, BitVec.ofNat_eq_ofNat, BitVec.toNat_ofNat, Nat.reducePow, Nat.reduceMod, Nat.reduceLT,
    ↓reduceDIte, Nat.lt_irrefl, ↓reduceIte, h, hd]

theorem Core.readOperand_reserved (c : Core) (id : Nat) {code : OpCode} (h : 54 ≤ code.toNat) :
    c.readOperand id code = .illegal := by
  have above : ∀ n < 54, code.toNat ≠ n := fun n hn => by omega
  have hsreg : ¬ code.toNat < 32 := by omega
  have hresult : ¬ code.toNat < 48 := by omega
  simp only [Core.readOperand, dif_neg hsreg, dif_neg hresult, if_neg (above 48 (by decide)), if_neg (above 49 (by decide)),
    if_neg (above 50 (by decide)), if_neg (above 51 (by decide)), if_neg (above 52 (by decide)), if_neg (above 53 (by decide))]

/-! ### Two operand codes in one word (R72) -/

/-- The second field reads the core that the first has left. -/
theorem Core.readAll_pair {c c₁ c₂ : Core} {id : Nat} {x y : OpCode} {v w : Word} (hx : c.readOperand id x = .ok [v] c₁)
    (hy : c₁.readOperand id y = .ok [w] c₂) : c.readAll id [x, y] = .ok [v, w] c₂ := by
  simp only [Core.readAll, hx, hy, List.cons_append, List.nil_append]

theorem Core.readAll_stall_second {c c₁ : Core} {id : Nat} {x y : OpCode} {v : Word} (hx : c.readOperand id x = .ok [v] c₁)
    (hy : c₁.readOperand id y = .stall) : c.readAll id [x, y] = .stall := by
  simp only [Core.readAll, hx, hy]

/-- Of two `%ld` fields the earlier takes the older return. -/
theorem Core.readAll_two_loads {c : Core} (id : Nat) {v w : Word} {rest : List Word} (h : c.bank.loads = v :: w :: rest)
    (hd : c.damage = []) : c.readAll id [48, 48] = .ok [v, w] ((c.popLoad (w :: rest)).popLoad rest) :=
  have older : c.readOperand id 48 = .ok [v] (c.popLoad (w :: rest)) :=
    Core.readOperand_load_sound id h (Core.damageIn_of_damage_nil hd _ _ _)
  have newer : (c.popLoad (w :: rest)).readOperand id 48 = .ok [w] ((c.popLoad (w :: rest)).popLoad rest) :=
    Core.readOperand_load_sound id (by rw [Core.popLoad_bank])
      (Core.damageIn_of_damage_nil (Core.popLoad_damage_nil hd _) _ _ _)
  Core.readAll_pair older newer

/-- Two `%ld` fields wait for two returns: one alone is not taken. -/
theorem Core.readAll_two_loads_stall {c : Core} (id : Nat) {v : Word} (h : c.bank.loads = [v]) (hd : c.damage = []) :
    c.readAll id [48, 48] = .stall :=
  Core.readAll_stall_second (Core.readOperand_load_sound id h (Core.damageIn_of_damage_nil hd _ _ _))
    (Core.readOperand_load_empty id (by rw [Core.popLoad_bank]))

/-! ### Words with two operand fields: `sub` at the sequencer, `cas` routed to the LQ -/

theorem exec_sub (d a b : OpCode) (s : State) : exec (.sub d a b) s = alu2 s (.sub d a b) d a b 1 (· - ·) := rfl

/-- At the sequencer a `cas` is routed, its operands read in the order s, new. -/
theorem exec_cas_of_seq {s : State} (h : s.actor = .seq) (wn sn : Bool) (a : BitVec 4) (x new : OpCode) (size : Bool) :
    exec (.cas wn sn a x new size) s = .next (s.route (.cas wn sn a x new size) true [x, new]) := by
  change queueWord _ _ _ _ _ _ s = _
  unfold queueWord
  rw [h]

/-- The entry that a word takes in its queue when its operands have read as `vs` and left the core `c` (R74, R78). -/
def routedEntry (i : Instr) (vs : List Word) (c : Core) : QEntry :=
  { instr := i, word := wordOf i, caps := vs, base := 0, spbase := c.sys.spbase, landbase := c.sys.landbase,
    order := c.queues.order, ties := [], state := .waiting }

/-- The core with one more entry, the last one, in its LQ. -/
def Core.enqueueLq (c : Core) (e : QEntry) : Core :=
  { c with queues := { c.queues with lq := c.queues.lq ++ [e], order := c.queues.order + 1 } }

theorem Core.enqueueLq_side (c : Core) (e : QEntry) : (c.enqueueLq e).side true = c.side true ++ [e] := rfl

theorem Core.enqueueLq_bank (c : Core) (e : QEntry) : (c.enqueueLq e).bank = c.bank := rfl

theorem Core.finish_side (c : Core) (now cost : Nat) (lq : Bool) : (c.finish now cost).side lq = c.side lq := by
  simp only [Core.side, Core.finish_queues]

theorem plainWord_core (s : State) (c : Core) (cost : Nat) : (plainWord s c cost).core = c.finish s.now cost :=
  State.withCore_core _ _

/-- A word of the LQ whose operands can be read takes the last entry there, where the LQ has room. -/
theorem State.route_lq {s : State} {i : Instr} {codes : List OpCode} {vs : List Word} {c : Core} (hwf : i.wf = true)
    (hroom : s.core.queues.lq.length < Config.lqDepth) (hread : s.core.readAll s.cur.val codes = .ok vs c) :
    s.route i true codes = plainWord s (c.enqueueLq (routedEntry i vs c)) 1 := by
  simp only [State.route, routedEntry, Core.enqueueLq, hwf, hread, Nat.not_le.mpr hroom, Bool.not_true, Bool.false_eq_true,
    ↓reduceIte]

/-- `sub` over two `%ld` takes both returns and pushes the older less the newer. -/
theorem exec_sub_two_loads {s : State} {d : OpCode} {v w : Word} {rest : List Word} (hd : okDst d = true)
    (hloads : s.core.bank.loads = v :: w :: rest) (hsound : s.core.damage = []) :
    ∃ t, exec (.sub d 48 48) s = .next t ∧ t.core.bank.resq[(0 : Fin 16)] = v - w ∧ t.core.bank.loads = rest := by
  refine ⟨_, (exec_sub d 48 48 s).trans (alu2_ok (Core.readAll_two_loads _ hloads hsound) hd), ?_, ?_⟩
  · rw [State.withCore_core, Core.finish_bank]
    exact Core.writeResult_newest _ _ _
  · simp only [State.withCore_core, Core.finish_bank, Core.writeResult_bank, Core.popLoad_bank]

/-- `sub` over two `%ld` waits without any effect while only one return is there. -/
theorem exec_sub_one_load {s : State} {v : Word} (hloads : s.core.bank.loads = [v]) (hsound : s.core.damage = []) (d : OpCode) :
    exec (.sub d 48 48) s = .next { s with held := true } :=
  congrArg Host.Outcome.next (withOperands_stall (Core.readAll_two_loads_stall _ hloads hsound))

/-- `cas` over two `%ld` captures the older return as s and the newer as new. -/
theorem exec_cas_two_loads {s : State} (wn sn size : Bool) (a : BitVec 4) {v w : Word} {rest : List Word} (hseq : s.actor = .seq)
    (hroom : (s.core.side true).length < 32) (hloads : s.core.bank.loads = v :: w :: rest) (hsound : s.core.damage = []) :
    ∃ t e, exec (.cas wn sn a 48 48 size) s = .next t ∧ t.core.side true = s.core.side true ++ [e] ∧ e.caps = [v, w] ∧
      t.core.bank.loads = rest := by
  obtain ⟨c, hread, hrest⟩ : ∃ c, s.core.readAll s.cur.val [48, 48] = .ok [v, w] c ∧ c.bank.loads = rest :=
    ⟨_, Core.readAll_two_loads _ hloads hsound, by rw [Core.popLoad_bank]⟩
  have hwf : Instr.wf (.cas wn sn a 48 48 size) = true := rfl
  have hqueues : c.queues = s.core.queues := (Core.readAll_same _ hread).queues
  refine ⟨_, routedEntry (.cas wn sn a 48 48 size) [v, w] c,
    (exec_cas_of_seq hseq wn sn a 48 48 size).trans (congrArg Host.Outcome.next (State.route_lq hwf hroom hread)), ?_, rfl, ?_⟩
  · rw [plainWord_core, Core.finish_side, Core.enqueueLq_side]
    simp only [Core.side, hqueues]
  · rw [plainWord_core, Core.finish_bank, Core.enqueueLq_bank, hrest]

/-- Settles O5: each operand code by its equation, and the two pops of one word in the order of its fields. -/
theorem operandCodes : Obligations.OperandCodes := by
  unfold Obligations.OperandCodes
  refine ⟨fun c id code => ⟨c.readOperand_sreg id, c.readOperand_result id, ?empty, ?sound, ?bad, ?zero, ?one, ?ones, ?number, ?ctx,
      c.readOperand_reserved id, fun _ _ _ _ _ _ => Core.readAll_pair⟩,
    fun _ _ _ _ _ => exec_sub_two_loads, fun _ _ => exec_sub_one_load,
    fun _ wn sn size a _ _ _ hseq _ => exec_cas_two_loads wn sn size a hseq⟩
  case empty => rintro rfl hloads; exact Core.readOperand_load_empty id hloads
  case sound =>
    rintro v rest rfl hloads hsound
    exact ⟨c.popLoad rest, Core.readOperand_load_sound id hloads hsound, c.popLoad_bank rest, c.popLoad_keptButLoads rest⟩
  case bad => rintro v rest inj rfl hloads hbad; exact Core.readOperand_load_bad id hloads hbad
  all_goals rintro rfl; rfl

end Sys2Proof.Machine
end

section
/-! SUPPORT. The integer words (R95 to R100): the model's functions against the table of R96 to R98, the form that each word
executes as, and what a word with a result writes and keeps. -/

namespace Sys2Proof.Machine

/-! ### Bit counts (R96) -/

/-- Counting the low bits one by one agrees with counting the places that hold a 1. -/
theorem popNat_eq_length_filter (n x : Nat) : popNat n x = ((List.range n).filter x.testBit).length := by
  induction n generalizing x with
  | zero => rfl
  | succ n ih =>
    have htail : x.testBit ∘ Nat.succ = (x / 2).testBit := funext fun k => Nat.testBit_succ x k
    rw [popNat, ih, List.range_succ_eq_map, List.filter_cons, List.filter_map, htail, Nat.testBit_zero]
    obtain hbit | hbit := Nat.mod_two_eq_zero_or_one x <;> simp [hbit, Nat.add_comm]

theorem popcOf_eq (x : Word) : popcOf x = BitVec.ofNat 64 (onesOf x) :=
  congrArg (BitVec.ofNat 64) (popNat_eq_length_filter 64 x.toNat)

/-- Of `0, 1, …` the numbers before the first that fails a test are as many as that number says. -/
theorem length_takeWhile_range {p : Nat → Bool} {m n : Nat} (hmn : m ≤ n) (hbelow : ∀ k < m, p k = true)
    (hat : m < n → p m = false) : ((List.range n).takeWhile p).length = m := by
  obtain ⟨r, rfl⟩ := Nat.exists_eq_add_of_le hmn
  have hpass : ∀ k ∈ List.range m, p k = true := fun k hk => hbelow k (List.mem_range.mp hk)
  rw [List.range_add, List.takeWhile_append_of_pos hpass, List.length_append, List.length_range]
  cases r with
  | zero => rfl
  | succ r => simp [List.range_succ_eq_map, hat (by omega)]

/-- The highest 1 bit of a nonzero word stands at its binary logarithm. -/
theorem zerosAbove_of_ne_zero {x : Word} (hx : x ≠ 0) : zerosAbove x = 63 - x.toNat.log2 := by
  have hnat : x.toNat ≠ 0 := fun h => hx (BitVec.eq_of_toNat_eq h)
  have hlog : x.toNat.log2 < 64 := (Nat.log2_lt hnat).mpr x.isLt
  refine length_takeWhile_range (by omega) (fun k hk => ?above) fun _ => ?highest
  case above =>
    have habove : x.toNat < 2 ^ (63 - k) := (Nat.log2_lt hnat).mp (by omega)
    rw [BitVec.getLsbD, Nat.testBit_lt_two_pow habove, Bool.not_false]
  case highest =>
    have hplace : 63 - (63 - x.toNat.log2) = x.toNat.log2 := by omega
    rw [hplace, BitVec.getLsbD, Nat.testBit_log2 hnat, Bool.not_true]

theorem clzOf_eq (x : Word) : clzOf x = BitVec.ofNat 64 (zerosAbove x) := by
  by_cases hx : x = 0
  · rw [hx]; rfl
  · rw [clzOf, if_neg hx, zerosAbove_of_ne_zero hx]

/-! ### Unsigned division (R97) -/

theorem divU_eq (x y : Word) : divU x y = if y = 0 then -1 else x / y := by
  rw [divU, ← BitVec.toNat_udiv, BitVec.ofNat_toNat, BitVec.setWidth_eq]
  rfl

theorem remU_eq (x y : Word) : remU x y = if y = 0 then x else x % y := by
  rw [remU, ← BitVec.toNat_umod, BitVec.ofNat_toNat, BitVec.setWidth_eq]

/-! ### Bit-field extraction (R98) -/

/-- A number read in two's complement is the vector of its low bits read as signed. -/
theorem toInt_ofNat_eq_signedOf {n : Nat} (hn : 0 < n) (x : Nat) : (BitVec.ofNat n x).toInt = signedOf n x := by
  have hhalf : 2 ^ (n - 1) + 2 ^ (n - 1) = 2 ^ n := Nat.two_pow_pred_add_two_pow_pred hn
  have hsmall : 2 * (x % 2 ^ n) < 2 ^ n ↔ x % 2 ^ n < 2 ^ (n - 1) := by omega
  simp only [BitVec.toInt_eq_toNat_cond, BitVec.toNat_ofNat, signedOf, hsmall]

theorem signedOf_mod (n x : Nat) : signedOf n (x % 2 ^ n) = signedOf n x := by
  simp only [signedOf, Nat.mod_mod]

theorem bfxOf_eq (x y : Word) :
    bfxOf x y =
      if y.getLsbD 12 then (BitVec.ofNat (bitsAt y 6 6 + 1) (x.toNat >>> bitsAt y 0 6)).signExtend 64
      else (BitVec.ofNat (bitsAt y 6 6 + 1) (x.toNat >>> bitsAt y 0 6)).zeroExtend 64 := by
  unfold bfxOf
  split
  case isTrue =>
    have hsigned := (signedOf_mod _ _).trans (toInt_ofNat_eq_signedOf (bitsAt y 6 6).succ_pos (x.toNat >>> bitsAt y 0 6)).symm
    exact congrArg (BitVec.ofInt 64) hsigned
  case isFalse => exact BitVec.eq_of_toNat_eq (by simp)

/-! ### Minima, maxima and comparisons (R96, R99) -/

/-- A choice may rest on a weaker test where between the two tests nothing is left to choose. -/
theorem ite_eq_ite_of_imp {α : Type} {p q : Prop} [Decidable p] [Decidable q] {a b : α} (himp : p → q)
    (hgap : q → ¬p → a = b) : (if p then a else b) = if q then a else b := by
  by_cases hp : p
  · rw [if_pos hp, if_pos (himp hp)]
  · by_cases hq : q
    · rw [if_neg hp, if_pos hq, hgap hq hp]
    · rw [if_neg hp, if_neg hq]

/-- A signed choice by `<` between values that agree where the words do. -/
theorem ite_slt_eq {x y a b : Word} (h : x = y → a = b) :
    (if x.slt y then a else b) = if x.toInt ≤ y.toInt then a else b :=
  ite_eq_ite_of_imp (fun hlt => Int.le_of_lt (BitVec.slt_iff_toInt_lt.mp hlt)) fun hle hlt =>
    h (BitVec.toInt_inj.mp (Int.le_antisymm hle (Int.not_lt.mp (mt BitVec.slt_iff_toInt_lt.mpr hlt))))

/-- An unsigned choice by `<` between values that agree where the words do. -/
theorem ite_ult_eq {x y a b : Word} (h : x = y → a = b) :
    (if x.ult y then a else b) = if x.toNat ≤ y.toNat then a else b :=
  ite_eq_ite_of_imp (fun hlt => Nat.le_of_lt (BitVec.ult_iff_lt.mp hlt)) fun hle hlt =>
    h (BitVec.eq_of_toNat_eq (Nat.le_antisymm hle (Nat.not_lt.mp (mt BitVec.ult_iff_lt.mpr hlt))))

theorem wordOfBool_eq_ite {b : Bool} {p : Prop} [Decidable p] (h : b = true ↔ p) : wordOfBool b = if p then 1 else 0 := by
  simp only [wordOfBool, h]

theorem wordOfBool_bne (x y : Word) : wordOfBool (x != y) = if x = y then 0 else 1 := by
  rw [wordOfBool_eq_ite bne_iff_ne, ite_not]

theorem slt_immOf (x : Word) (k : BitVec 14) : x.slt (immOf k) = true ↔ x.toInt < k.toInt := by
  rw [BitVec.slt_iff_toInt_lt, immOf, BitVec.toInt_signExtend_of_le (by decide)]

/-! ### The form of an integer word (R95, R99, R100) -/

theorem alu2_of_eq {s : State} {i : Instr} {d a b : OpCode} {cost : Nat} {f : Word → Word → Word} {g : List Word → Word}
    (h : ∀ vs, f (arg0 vs) (arg1 vs) = g vs) :
    alu2 s i d a b cost f = .next (withOperands s i [a, b] fun vs c => resultWord s i d cost (g vs) c) := by
  simp only [alu2, h]

theorem alu1_of_eq {s : State} {i : Instr} {d a : OpCode} {cost : Nat} {f : Word → Word} {g : List Word → Word}
    (h : ∀ vs, f (arg0 vs) = g vs) :
    alu1 s i d a cost f = .next (withOperands s i [a] fun vs c => resultWord s i d cost (g vs) c) := by
  simp only [alu1, h]

/-- An integer word reads the operands of its form and delivers the form's function of them, after the form's cycles. -/
theorem exec_of_integerForm {i : Instr} {d : OpCode} {srcs : List OpCode} {cost : Nat} {f : List Word → Word}
    (h : integerForm i = some (d, srcs, cost, f)) (s : State) :
    exec i s = .next (withOperands s i srcs fun vs c => resultWord s i d cost (f vs) c) := by
  cases i with
  | add | sub | mul | mulh | mulhu | div | rem | and_ | or_ | xor_ | andn | shl | shr | sar | mov | addi | andi | ori | xori
  | shli | shri | sari | lui => cases h; rfl
  | divu => cases h; change execDivu _ _ _ s = _; exact alu2_of_eq fun _ => divU_eq _ _
  | remu => cases h; change execRemu _ _ _ s = _; exact alu2_of_eq fun _ => remU_eq _ _
  | min_ => cases h; change execMin _ _ _ s = _; exact alu2_of_eq fun _ => ite_slt_eq id
  | max_ => cases h; change execMax _ _ _ s = _; exact alu2_of_eq fun _ => ite_slt_eq Eq.symm
  | minu => cases h; change execMinu _ _ _ s = _; exact alu2_of_eq fun _ => ite_ult_eq id
  | maxu => cases h; change execMaxu _ _ _ s = _; exact alu2_of_eq fun _ => ite_ult_eq Eq.symm
  | seq => cases h; change execSeq _ _ _ s = _; exact alu2_of_eq fun _ => wordOfBool_eq_ite beq_iff_eq
  | sne => cases h; change execSne _ _ _ s = _; exact alu2_of_eq fun _ => wordOfBool_bne _ _
  | slt => cases h; change execSlt _ _ _ s = _; exact alu2_of_eq fun _ => wordOfBool_eq_ite BitVec.slt_iff_toInt_lt
  | sle => cases h; change execSle _ _ _ s = _; exact alu2_of_eq fun _ => wordOfBool_eq_ite BitVec.sle_iff_toInt_le
  | sltu => cases h; change execSltu _ _ _ s = _; exact alu2_of_eq fun _ => wordOfBool_eq_ite BitVec.ult_iff_lt
  | sleu => cases h; change execSleu _ _ _ s = _; exact alu2_of_eq fun _ => wordOfBool_eq_ite BitVec.ule_iff_le
  | clz => cases h; change execClz _ _ s = _; exact alu1_of_eq fun _ => clzOf_eq _
  | popc => cases h; change execPopc _ _ s = _; exact alu1_of_eq fun _ => popcOf_eq _
  | bfx => cases h; change execBfx _ _ _ s = _; exact alu2_of_eq fun _ => bfxOf_eq _ _
  | slti => cases h; change execSlti _ _ _ s = _; exact alu1_of_eq fun _ => wordOfBool_eq_ite (slt_immOf _ _)
  | sltiu => cases h; change execSltiu _ _ _ s = _; exact alu1_of_eq fun _ => wordOfBool_eq_ite BitVec.ult_iff_lt
  | _ => cases h

/-! ### What a word with a result writes and keeps (R31, R73, R94, R105) -/

theorem SeqLevel.setLoop_rs (l : SeqLevel) (k : Nat) (x : LoopLevel) : (l.setLoop k x).rs = l.rs := by
  unfold SeqLevel.setLoop
  split <;> rfl

/-- The end step of a word leaves the return stack alone. -/
@[simp] theorem SeqLevel.finish_rs (l : SeqLevel) (p k : Nat) : (l.finish p k).2.rs = l.rs := by
  induction k with
  | zero => rfl
  | succ k ih =>
    rw [SeqLevel.finish]
    split
    · split
      · exact SeqLevel.setLoop_rs _ k _
      · exact ih
    · rfl

theorem Core.finish_otherLevel (c : Core) (now cost : Nat) :
    if c.tl = true then (c.finish now cost).level0 = c.level0 else (c.finish now cost).level1 = c.level1 := by
  unfold Core.finish Core.finishAt Core.setLevel
  split <;> rfl

theorem Core.written_finish_writeResult (c : Core) (d : OpCode) (v : Word) (now cost : Nat) :
    Written c ((c.writeResult d v).finish now cost) d v where
  newest := by rw [Core.finish_bank]; exact c.writeResult_newest d v
  older k := by rw [Core.finish_bank]; exact c.writeResult_older d v k
  named k h := by rw [Core.finish_sregs]; exact c.writeResult_named d v k h
  others k h := by rw [Core.finish_sregs]; exact c.writeResult_others d v k h

theorem Core.kept_finish_writeResult (c : Core) (d : OpCode) (v : Word) (now cost : Nat) :
    CoreKept c ((c.writeResult d v).finish now cost) := by
  constructor
  case otherBank =>
    simpa only [Core.finish_bank0, Core.finish_bank1, Core.writeResult, Core.pushResult, Core.setSreg_bank0,
      Core.setSreg_bank1] using c.setBank_otherBank _
  case otherLevel =>
    simpa only [Core.writeResult_tl, Core.writeResult_level0, Core.writeResult_level1]
      using (c.writeResult d v).finish_otherLevel now cost
  all_goals simp

theorem State.withCore_othersKept (s : State) (c : Core) : OthersKept s (s.withCore c) :=
  ⟨rfl, s.withCore_other c⟩

theorem State.withCore_outside (s : State) (c : Core) : Outside s (s.withCore c) := by
  constructor <;> rfl

/-- The next state of an integer word whose operands can be read and whose destination code is legal. -/
theorem exec_integerForm_ok {i : Instr} {d : OpCode} {srcs : List OpCode} {cost : Nat} {f : List Word → Word} {s : State}
    {vs : List Word} {c : Core} (hform : integerForm i = some (d, srcs, cost, f)) (hd : okDst d = true)
    (hread : s.core.readAll s.cur.val srcs = .ok vs c) :
    exec i s = .next (s.withCore ((c.writeResult d (f vs)).finish s.now cost)) := by
  rw [exec_of_integerForm hform, withOperands_ok hread, resultWord, if_pos hd]

/-- Settles O6: each word executes as its form, and the pushed and written result with the end step keeps all else. -/
theorem integerWords : Obligations.IntegerWords := by
  unfold Obligations.IntegerWords
  intro i d srcs cost f s vs c hform hd hread
  refine ⟨_, exec_integerForm_ok hform hd hread, ?_⟩
  rw [State.withCore_core]
  exact ⟨c.written_finish_writeResult d _ _ _, c.kept_finish_writeResult d _ _ _, by simp, by simp, rfl,
    s.withCore_othersKept _, s.withCore_outside _⟩

end Sys2Proof.Machine
end
